-- ==== Sys2Proof/Word.lean ====
section
/-!
DEFINITION. The plain words of the model: bytes, sequence numbers, samples, and exact real values.
-/
namespace Sys2Proof

/-- One byte of a cell. -/
abbrev Byte := BitVec 8

/-- A 32-bit sequence number, a stream position (00 section 6.6). -/
abbrev Seq := BitVec 32

/-- One complex sample: a signed 16-bit I and Q (00 section 6.2). -/
structure Sample where
  i : Int
  q : Int
deriving DecidableEq, Repr

/-- One term of an exact real value: `num · 10^(root/200) · cos(2π · angle / 2^32)`,
over the denominator of the value it stands in. -/
structure Term where
  root  : Nat
  angle : Nat
  num   : Int
deriving DecidableEq, Repr

/-- An exact real value, the sum of its terms over `den`. Gains are amplitudes 10^(g/200) (R18) and ramps are
linear in amplitude, so every amplitude is a rational combination of the roots 10^(r/200), r from 0 to 199; a
phase rotation brings in cosines. In canonical form the terms rise by (root, angle), no `num` is 0, angles lie
below 2^30, and `den` and the `num`s have no common divisor: these roots and cosines are linearly independent
over the rationals, so equal values are then equal data. -/
structure Val where
  den   : Nat
  terms : List Term
deriving DecidableEq, Repr

def Val.zero : Val := { den := 1, terms := [] }

def Val.one : Val := { den := 1, terms := [{ root := 0, angle := 0, num := 1 }] }

end Sys2Proof
end

