-- ==== Sys2Proof/Syntax.lean ====
section
/-!
DEFINITION. The commands of the part, one constructor per row of spec/opcode_table.json.
-/
namespace Sys2Proof

/-- The two links of the port (R169). -/
inductive LinkId where
  | bench
  | chain
deriving DecidableEq, Repr

/-- The two clock domains (R33). -/
inductive DomainId where
  | a
  | b
deriving DecidableEq, Repr

/-- Who performs an operation that is both a request and a cue action (R139, R191): the Management Agent takes the
oldest request, or the top context performs its next action. The operands stand in that request or that action. -/
inductive Via where
  | request
  | action
deriving DecidableEq, Repr

/-- One decoded symbol of a link (R170): a data byte, a control symbol, or a code error. -/
inductive Symbol where
  | data (b : Byte)
  | idle
  | start
  | stop
  | codeError
deriving DecidableEq, Repr

/-- The bytes of a cell between START and END, less its CRC, by the header of R206. `addr` is the whole of byte 1. -/
structure Cell where
  kind    : Byte
  addr    : Byte
  wordA   : BitVec 16
  wordB   : BitVec 32
  payload : List Byte
deriving DecidableEq, Repr

/-- Why a cell is a bad cell: a row of R175's table, or a closed cell (all its bytes, CRC included) that R177 checks. -/
inductive BadCell where
  | startInside
  | idleInside
  | endOutside
  | codeErrorInside
  | tooLong
  | closed (bytes : List Byte)
deriving DecidableEq, Repr

/-- A command: one whole step of the part. Requests and cue actions find their operands where the spec holds them,
in the request queue and in the Action Store (log entry 1). -/
inductive Instr where
  | segWrite
  | segHot (via : Via)
  | segRead
  | voiceStart (via : Via)
  | voiceStop (via : Via)
  | voiceGain (via : Via)
  | voiceStatus
  | laneConfig
  | laneArm
  | laneStart (via : Via)
  | laneStop (via : Via)
  | laneFreeze (via : Via)
  | laneResume (via : Via)
  | laneQuiet
  | laneCompareSet
  | laneStatus
  | domainSet
  | domainStatus
  | tagWrite
  | tagRead
  | streamOpen
  | streamClose
  | streamStatus
  | poolConfig
  | statsRead
  | clipOpen
  | clipSeal
  | clipAbort
  | clipDelete
  | clipStatus
  | clipSpace
  | mapWrite
  | mapRead
  | mapArm (via : Via)
  | mapDisarm (via : Via)
  | cueThreshold
  | listWrite
  | listRead
  | cueWrite
  | cueRead
  | cueRaise (via : Via)
  | cueAbort
  | cueStatus
  | trigConfig
  | trigStatus
  | markerConfig
  | markerSet (via : Via)
  | markerStatus
  | meterConfig
  | meterStart (via : Via)
  | meterStop (via : Via)
  | meterRead
  | linkStatus
  | noticeConfig
  | unitReset
  | playbackClear
  | storeProgram
  | storeRead
  | identify
  | unknownRequestKind
  | nop
  | wait
  | notice
  | contextPop
  | blockBoundary (lane : Fin 8)
  | laneStartsAtEdge (lane : Fin 8)
  | frozenEdge (lane : Fin 8)
  | settleTimerExpiry (domain : DomainId)
  | triggerTick (trigger : Fin 4) (high : Bool)
  | pulseBegin (marker : Fin 6)
  | pulseEnd (marker : Fin 6)
  | noticeHoldoffExpiry
  | programTimerExpiry
  | coldReset (straps : BitVec 4) (inputs : BitVec 4)
  | unitResetPerformed (inputs : BitVec 4)
  | signalPresent (link : LinkId)
  | signalAbsent (link : LinkId)
  | alignmentReached (link : LinkId)
  | alignmentLost (link : LinkId)
  | offerSend (link : LinkId)
  | badCell (link : LinkId) (bad : BadCell)
  | offer (link : LinkId) (addr : Byte) (wordA : BitVec 16) (wordB : BitVec 32)
  | sample (addr : Byte) (tag : BitVec 16) (seq : Seq) (payload : List Byte)
  | streamEnd (addr : Byte) (tag : BitVec 16) (final : Seq)
  | clipData (addr : Byte) (wordA : BitVec 16) (index : BitVec 32) (payload : List Byte)
  | request (addr : Byte) (tag : Byte) (kind : Byte) (wordB : BitVec 32) (payload : List Byte)
  | flowLink (addr : Byte) (wordB : BitVec 32)
  | chainUpstreamCell (cell : Cell)
  | chainTransmit
  | upstreamGrant
  | cellSent (link : LinkId)
  | decodedSymbol (link : LinkId) (symbol : Symbol)
deriving DecidableEq, Repr

end Sys2Proof
end

