-- ==== Sys2Proof/Decode.lean ====
section
/-!
DEFINITION. The table gives none of its rows any bits, so no word spells a command.
-/
namespace Sys2Proof

/-- The command that a word of the table spells: none, since no row of the table gives bits. -/
def decodeTableWord (_nbits _w : Nat) : Option Instr := none

end Sys2Proof
end

