-- ==== Sys2Proof/Config.lean ====
section
/-!
DEFINITION. What is fixed for the part: the units of the reference clock, and the free values the manual leaves open.
Every `opaque` constant below has no body: nothing can be proved of its value.
-/
namespace Sys2Proof.Config

/-- Moments count units of 1/30720 µs, so that one cycle of 245.76 MHz, 1 µs and 50 ns are whole (log entry 3). -/
def unitsPerMicro : Nat := 30720

/-- One cycle of the 245.76 MHz reference clock, 1/245.76 µs. -/
def unitsPerCycle : Nat := 125

/-- 50 ns, the tick of tick code 0 (R149). -/
def unitsPerFiftyNano : Nat := 1536

/-- The largest value of a 32-bit counter; counters saturate there. -/
def counterMax : Nat := 4294967295

/-- 2^48: lane times are below it. -/
def laneTimeEnd : Nat := 281474976710656

/-- Free value: the byte at an address of clip memory that nothing has written since the n-th cold reset (R101:
"Cold reset leaves the contents of every page undefined"; log entry 5). -/
opaque undefinedClipByte : Nat → Nat → Byte

/-- Free value: how reply data encode a linear amplitude. R30 and R54 return amplitudes and R209 gives no encoding
for one (log entry 11). -/
opaque amplitudeCode : Val → BitVec 32

/-- Free value: how reply data encode a time left (R160, R204); `none` is "no time running" (log entry 11). -/
opaque remainingCode : Option Nat → BitVec 32

/-- Free value: how VOICE_STATUS encodes a binding: kind (0 absent, 1 stream, 2 clip) and its two numbers (log entry 11). -/
opaque bindingCode : Nat → Nat → Nat → BitVec 32

/-- Free value: the code of an absent one-byte field of reply data (log entry 11). -/
opaque absentByte : Byte

/-- Free value: the code of an absent four-byte field of reply data (log entry 11). -/
opaque absentWord : BitVec 32

end Sys2Proof.Config
end

