-- ==== Sys2Proof/Machine/Exact.lean ====
section
/-!
DEFINITION. Exact arithmetic on amplitudes and sample values (R18, R43, R165): sums, products, ramps and rotations
without rounding, and the two roundings of the manual, decided from enclosures made finer until one decides (log entry 10).
-/
namespace Sys2Proof.Machine

/-! ## Sums and products -/

/-- Adds one term to a list that rises by (root, angle), keeping it in that order with no zero term. -/
def insertTerm (t : Term) : List Term → List Term
  | [] => if t.num = 0 then [] else [t]
  | u :: us =>
    if t.root = u.root ∧ t.angle = u.angle then
      if t.num + u.num = 0 then us else { u with num := t.num + u.num } :: us
    else if t.root < u.root ∨ (t.root = u.root ∧ t.angle < u.angle) then
      if t.num = 0 then u :: us else t :: u :: us
    else u :: insertTerm t us

/-- Divides denominator and numerators by their greatest common divisor. -/
def reduce (v : Val) : Val :=
  let g := v.terms.foldl (fun g t => Nat.gcd g t.num.natAbs) v.den
  if g ≤ 1 then v
  else { den := v.den / g, terms := v.terms.map fun t => { t with num := t.num / (g : Int) } }

/-- The exact sum of two values. -/
def addVal (a b : Val) : Val :=
  match a.terms, b.terms with
  | [], _ => b
  | _, [] => a
  | _, _ =>
    reduce { den := a.den * b.den,
             terms := (b.terms.map fun t => { t with num := t.num * (a.den : Int) }).foldr insertTerm
               (a.terms.map fun t => { t with num := t.num * (b.den : Int) }) }

/-- A value times n/d. -/
def scaleVal (n : Int) (d : Nat) (v : Val) : Val :=
  if n = 0 then Val.zero
  else reduce { den := v.den * d, terms := v.terms.map fun t => { t with num := t.num * n } }

/-- The product of a term with a term of angle 0: roots add, and 10^(200/200) is 10. -/
def mulTerm (t u : Term) : Term :=
  if t.root + u.root < 200 then { root := t.root + u.root, angle := t.angle, num := t.num * u.num }
  else { root := t.root + u.root - 200, angle := t.angle, num := t.num * u.num * 10 }

/-- The exact product of a value with an amplitude, a value whose angles are all 0. -/
def mulVal (a b : Val) : Val :=
  reduce { den := a.den * b.den,
           terms := (a.terms.flatMap fun t => b.terms.map fun u => mulTerm t u).foldr insertTerm [] }

/-! ## Gains and ramps -/

/-- The linear amplitude of a gain in tenths of a dB: 0 for -900, else 10^(g/200) (R18, 00 section 6.4). -/
def gainAmplitude (g : Int) : Val :=
  if g = -900 then Val.zero
  else
    let q := g / 200
    let r := (g % 200).toNat
    if 0 ≤ q then { den := 1, terms := [{ root := r, angle := 0, num := 10 ^ q.toNat }] }
    else { den := 10 ^ (-q).toNat, terms := [{ root := r, angle := 0, num := 1 }] }

/-- One step of a ramp with `left` samples remaining: linear in amplitude, reaching the target exactly when `left`
reaches 0 (R18). -/
def rampStep (now target : Val) (left : Nat) : Val × Nat :=
  match left with
  | 0 => (now, 0)
  | 1 => (target, 0)
  | n + 2 => (addVal (scaleVal (n + 1) (n + 2) now) (scaleVal 1 (n + 2) target), n + 1)

/-! ## Rotation by a phase -/

/-- cos(2π · p / 2^32) as a sign and an angle below 2^30 (first quadrant); sign 0 where the cosine is 0. -/
def cosKey (p : BitVec 32) : Int × Nat :=
  let n := p.toNat
  if n < 2 ^ 30 then (1, n)
  else if n = 2 ^ 30 then (0, 0)
  else if n ≤ 2 ^ 31 then (-1, 2 ^ 31 - n)
  else if n < 3 * 2 ^ 30 then (-1, n - 2 ^ 31)
  else if n = 3 * 2 ^ 30 then (0, 0)
  else (1, 2 ^ 32 - n)

/-- An amplitude (angles 0) times c · cos(2π · p / 2^32). -/
def turnVal (amp : Val) (c : Int) (p : BitVec 32) : Val :=
  let (sign, angle) := cosKey p
  if c * sign = 0 then Val.zero
  else scaleVal (c * sign) 1 { amp with terms := amp.terms.map fun t => { t with angle := angle } }

/-- A sample at an amplitude, rotated by a phase (R18): I cos θ - Q sin θ and I sin θ + Q cos θ. The sine is the
cosine a quarter turn back. -/
def rotate (amp : Val) (x : Sample) (phase : BitVec 32) : Val × Val :=
  let quarter : BitVec 32 := 0x40000000
  (addVal (turnVal amp x.i phase) (turnVal amp (-x.q) (phase - quarter)),
   addVal (turnVal amp x.i (phase - quarter)) (turnVal amp x.q phase))

/-! ## Rounding -/

/-- n/d rounded to the nearest integer, halves away from zero (R43). -/
def roundRat (n : Int) (d : Nat) : Int :=
  let m : Nat := (2 * n.natAbs + d) / (2 * d)
  if n < 0 then -(m : Int) else (m : Int)

/-! ### Enclosures of a value, to any number of fractional bits (log entry 10) -/

/-- The largest x built on `acc` from the low bits with x^200 not above `target`. -/
def rootBits (target : Nat) : Nat → Nat → Nat
  | 0, acc => acc
  | b + 1, acc =>
    let c := acc + 2 ^ b
    rootBits target b (if c ^ 200 ≤ target then c else acc)

/-- Bounds of 10^(r/200) · 2^bits. -/
def rootBounds (bits r : Nat) : Nat × Nat :=
  if r = 0 then (2 ^ bits, 2 ^ bits)
  else
    let x := rootBits (10 ^ r * 2 ^ (200 * bits)) (bits + 4) 0
    (x, x + 1)

/-- Newton's iteration for a square root, from above: it falls until it reaches floor(sqrt n). -/
def sqrtFrom (n : Nat) : Nat → Nat → Nat
  | 0, x => x
  | fuel + 1, x =>
    let y := (x + n / x) / 2
    if y < x then sqrtFrom n fuel y else x

/-- floor(sqrt n). -/
def sqrtFloor (n : Nat) : Nat := sqrtFrom n (Nat.log2 n + 2) (2 ^ (Nat.log2 n / 2 + 1))

/-- Bounds of cos(2π · angle / 2^32) · 2^bits for an angle of 0 to 2^30, by cos x = sqrt((1 + cos 2x) / 2). Doubling an
angle of 32 bits, taken back into the first quadrant, comes to 0 or to a right angle within 31 steps. -/
def cosBounds (bits : Nat) : Nat → Nat → Nat × Nat
  | 0, angle => if angle = 0 then (2 ^ bits, 2 ^ bits) else (0, 0)
  | fuel + 1, angle =>
    if angle = 0 then (2 ^ bits, 2 ^ bits)
    else if angle = 2 ^ 30 then (0, 0)
    else
      let (lo, hi) :=
        if 2 * angle ≤ 2 ^ 30 then
          let (lo, hi) := cosBounds bits fuel (2 * angle)
          (2 ^ bits + lo, 2 ^ bits + hi)
        else
          let (lo, hi) := cosBounds bits fuel (2 ^ 31 - 2 * angle)
          (2 ^ bits - hi, 2 ^ bits - lo)
      (sqrtFloor (lo * 2 ^ (bits - 1)), sqrtFloor (hi * 2 ^ (bits - 1)) + 1)

/-- Bounds of one term's root and cosine together, scaled by 2^(2 · bits). The cosine is worked out with 64 bits more. -/
def termBounds (bits : Nat) (t : Term) : Nat × Nat :=
  let r := rootBounds bits t.root
  let c := if t.angle = 0 then (2 ^ bits, 2 ^ bits)
    else
      let (lo, hi) := cosBounds (bits + 64) 31 t.angle
      (lo / 2 ^ 64, hi / 2 ^ 64 + 1)
  (r.1 * c.1, r.2 * c.2)

/-- Bounds of a value times its denominator, scaled by 2^(2 · bits). -/
def valBounds (bits : Nat) (v : Val) : Int × Int :=
  v.terms.foldl (fun (lo, hi) t =>
    let (bLo, bHi) := termBounds bits t
    if 0 ≤ t.num then (lo + t.num * (bLo : Int), hi + t.num * (bHi : Int))
    else (lo + t.num * (bHi : Int), hi + t.num * (bLo : Int))) (0, 0)

/-- How often an enclosure's bits may be doubled: often enough for every value that does not itself stand on a bound of a
rounding to come off it (the separation of algebraic numbers, worked out in log entry 10). -/
def refinements (v : Val) : Nat := 64 + Nat.log2 (v.terms.foldl (fun n t => n + t.num.natAbs) v.den)

/-- The nearest integer to a value from enclosures of `bits` fractional bits, doubled until one decides it; a value that
stands on a half after the last is that half, and is rounded away from zero. -/
def roundFrom (v : Val) : Nat → Nat → Int
  | 0, bits =>
    let (lo, hi) := valBounds bits v
    roundRat (if 0 ≤ lo + hi then hi else lo) (v.den * 2 ^ (2 * bits))
  | fuel + 1, bits =>
    let (lo, hi) := valBounds bits v
    let d := v.den * 2 ^ (2 * bits)
    if roundRat lo d = roundRat hi d then roundRat lo d else roundFrom v fuel (2 * bits)

/-- The nearest integer to a value, halves away from zero (R43). A value without roots and cosines is enclosed exactly and
so decided at once. -/
def roundVal (v : Val) : Int :=
  match v.terms with
  | [] => 0
  | _ => roundFrom v (refinements v) 64

/-! ## Meter levels -/

/-- Whether 1000 · log10(n/d) is at least k - 1/2, exactly: n/d at least 10^((2k-1)/2000). -/
def levelAtLeast (n d : Nat) (k : Int) : Bool :=
  if 2 * k - 1 < 0 then d ^ 2000 ≤ n ^ 2000 * 10 ^ (1 - 2 * k).toNat
  else d ^ 2000 * 10 ^ (2 * k - 1).toNat ≤ n ^ 2000

/-- The largest level from `lo` to `lo + 2^fuel - 1` that n/d reaches. -/
def levelSearch (n d : Nat) : Nat → Int → Int
  | 0, lo => lo
  | b + 1, lo => levelSearch n d b (if levelAtLeast n d (lo + 2 ^ b) then lo + 2 ^ b else lo)

/-- 10 · log10(n/d) in hundredths, halves upward, raised to -12000 if lower; -12000 for 0 (R165). -/
def levelOfRat (n d : Nat) : Int :=
  if n = 0 then -12000
  else
    let g := Nat.gcd n d
    levelSearch (n / g) (d / g) 14 (-12000)

/-- The level of a power over `full` from enclosures of `bits` fractional bits, doubled until one decides it; a power that
stands on a bound after the last is that bound, and takes the upper level. -/
def levelFrom (acc : Val) (full : Nat) : Nat → Nat → Int
  | 0, bits => levelOfRat (valBounds bits acc).2.toNat (acc.den * 2 ^ (2 * bits) * full)
  | fuel + 1, bits =>
    let (lo, hi) := valBounds bits acc
    let d := acc.den * 2 ^ (2 * bits) * full
    if levelOfRat lo.toNat d = levelOfRat hi.toNat d then levelOfRat lo.toNat d else levelFrom acc full fuel (2 * bits)

/-- The level of an accumulated power over a window of samples, in hundredths of a dBFS (R165). -/
def levelOf (acc : Val) (window : Nat) : Int :=
  match acc.terms with
  | [] => -12000
  | _ => levelFrom acc (window * 32767 ^ 2) (refinements acc) 64

end Sys2Proof.Machine
end

