-- ==== Sys2Proof/Machine/State.lean ====
section
/-!
DEFINITION. The state of the part as plain data, block by block, and the state after reset.
-/
namespace Sys2Proof.Machine

/-! ## Scene Program: segments and voices (01) -/

/-- The source kinds of a segment (R2). -/
inductive SourceKind where
  | none
  | stream
  | clip
  | silence
deriving DecidableEq, Repr

/-- The length of a segment (R1). -/
inductive SegLength where
  | samples (n : Nat)
  | untilEnd
deriving DecidableEq, Repr

/-- The fixed fields of a segment (R1). `repeats` is 0 for endless. -/
structure Fixed where
  kind        : SourceKind
  sourceId    : Nat
  startOffset : Nat
  length      : SegLength
  repeats     : Nat
  ramp        : Nat
  fadeEach    : Bool
deriving DecidableEq, Repr

/-- The hot fields of a segment (R1). `gain` is in tenths of a dB. -/
structure Hot where
  gain          : Int
  shift         : BitVec 32
  phaseContinue : Bool
  next          : Option (Fin 1024)
  endEvent      : Bool
deriving DecidableEq, Repr

/-- A segment record (R1). Its live count is a view, `Device.liveCount` (log entry 6). -/
structure Segment where
  fixed : Fixed
  hot   : Hot
deriving DecidableEq, Repr

/-- The reset values of R1. -/
def Segment.reset : Segment :=
  { fixed := { kind := .none, sourceId := 0, startOffset := 0, length := .samples 1, repeats := 1, ramp := 0,
               fadeEach := false },
    hot := { gain := 0, shift := 0, phaseContinue := false, next := none, endEvent := false } }

/-- The five states of a voice (R10). -/
inductive VoiceState where
  | idle
  | pending
  | playing
  | stalled
  | fading
deriving DecidableEq, Repr

/-- Why a segment ended on a voice, or a start was cancelled (R9), in the order of R210's codes. -/
inductive EndCause where
  | complete
  | stopped
  | replaced
  | broken
  | closed
  | cleared
  | sourceFault
  | noReader
deriving DecidableEq, Repr

/-- Repeat remaining (R9). -/
inductive Repeats where
  | left (n : Nat)
  | endless
deriving DecidableEq, Repr

/-- The source a voice is bound to (R9, R17): a reader of a slot, or a clip. -/
inductive Binding where
  | stream (slot : Fin 16) (reader : Nat)
  | clip (id : Fin 256)
deriving DecidableEq, Repr

/-- A start held in the lane schedule (R9, R12). The claim is a slot and a reader index. -/
structure PendingStart where
  segment : Fin 1024
  stamp   : Nat
  claim   : Option (Fin 16 × Nat)
deriving DecidableEq, Repr

/-- What a voice does at the next sample its lane computes, before anything else (log entry 8): nothing, end its
segment whose final repeat is finished (R21), or begin a segment it chains to after a stream's end (R91). -/
inductive Due where
  | none
  | ended
  | chain (next : Fin 1024)
deriving DecidableEq, Repr

/-- A voice record (R9). `firstRepeat` and `due` are implied by R20 and R21 (log entry 7). -/
structure Voice where
  state        : VoiceState
  current      : Option (Fin 1024)
  hot          : Option Hot
  repeats      : Repeats
  position     : Nat
  ampNow       : Val
  ampTarget    : Val
  rampLeft     : Nat
  gainOverride : Bool
  stopFade     : Option Nat
  phase        : BitVec 32
  step         : BitVec 32
  binding      : Option Binding
  pending      : Option PendingStart
  lastCause    : Option EndCause
  firstRepeat  : Bool
  due          : Due
deriving DecidableEq, Repr

/-- The reset values of R9; `cause` is `none`, or CLEARED after a playback clear. -/
def Voice.reset (cause : Option EndCause) : Voice :=
  { state := .idle, current := none, hot := none, repeats := .left 1, position := 0, ampNow := Val.zero,
    ampTarget := Val.zero, rampLeft := 0, gainOverride := false, stopFade := none, phase := 0, step := 0,
    binding := none, pending := none, lastCause := cause, firstRepeat := true, due := .none }

/-! ## Lanes and clock domains (02) -/

/-- The five states of a lane (R32). -/
inductive LaneState where
  | stopped
  | armed
  | running
  | freezing
  | frozen
deriving DecidableEq, Repr

/-- A lane's start mode (R31). -/
inductive StartMode where
  | immediate
  | trigger (n : Fin 4)
deriving DecidableEq, Repr

/-- Mode of a stop or a freeze (R23, R46). -/
inductive Mode where
  | soft
  | hard
deriving DecidableEq, Repr

/-- The kinds of schedule entry with their operands (R40). -/
inductive EntryKind where
  | voiceStart (voice : Fin 4) (segment : Fin 1024) (claim : Option (Fin 16 × Nat))
  | voiceStop (voice : Fin 4) (mode : Mode)
  | voiceGain (voice : Fin 4) (gain : Int) (ramp : Nat)
  | laneFreeze (mode : Mode)
deriving DecidableEq, Repr

/-- A schedule entry (R40). -/
structure Entry where
  stamp : Nat
  kind  : EntryKind
deriving DecidableEq, Repr

/-- A lane record (R31) with its four voices, the block its port carries (R42, R52; empty for zero) and the moment of the
last block edge it took, 0 for none (R33; log entry 32). `rampDue` says that the master ramp begins only at the lane's next
block, so that a freeze ramp stored before it gives the length (R36, R50; log entry 37). -/
structure Lane where
  state           : LaneState
  domain          : DomainId
  time            : Nat
  startMode       : StartMode
  startDue        : Bool
  freezeRamp      : Nat
  masterGain      : Int
  ampNow          : Val
  ampTarget       : Val
  rampLeft        : Nat
  rampDue         : Bool
  meterInFreeze   : Bool
  quiet           : Bool
  quietPendingOff : Bool
  compare         : Option Nat
  trim            : Int
  schedule        : List Entry
  overrange       : Nat
  carried         : List Sample
  lastEdge        : Nat
  voices          : Vector Voice 4
deriving DecidableEq, Repr

/-- The cold and unit reset values of R31; the trim is the effective trim (R201). -/
def Lane.reset (trim : Int) : Lane :=
  { state := .stopped, domain := .a, time := 0, startMode := .immediate, startDue := false, freezeRamp := 0,
    masterGain := 0, ampNow := Val.one, ampTarget := Val.one, rampLeft := 0, rampDue := false, meterInFreeze := false,
    quiet := false, quietPendingOff := false, compare := none, trim := trim, schedule := [], overrange := 0, carried := [],
    lastEdge := 0, voices := Vector.replicate 4 (Voice.reset none) }

/-- The states of a clock domain (R33). -/
inductive DomainState where
  | stopped
  | settling
  | ready
deriving DecidableEq, Repr

/-- A clock domain (R33). `settleEnds` is the moment the settle timer expires, while it runs; `readyAt` the moment the
domain last became READY, from which its block edges count (log entry 32). -/
structure Domain where
  state      : DomainState
  rate       : Nat
  settle     : Nat
  settleEnds : Option Nat
  readyAt    : Nat
deriving DecidableEq, Repr

def Domain.reset : Domain := { state := .stopped, rate := 0, settle := 0, settleEnds := none, readyAt := 0 }

/-! ## Stream Intake (03, 04) -/

/-- A Tag Table entry (R55). `toSlot` is clear for DISCARD. -/
structure TagEntry where
  valid  : Bool
  tag    : BitVec 16
  toSlot : Bool
  slot   : Nat
deriving DecidableEq, Repr

def TagEntry.reset : TagEntry := { valid := false, tag := 1, toSlot := false, slot := 0 }

/-- The seven states of a stream slot (R60). -/
inductive SlotState where
  | closed
  | filling
  | primed
  | running
  | draining
  | ended
  | broken
deriving DecidableEq, Repr

/-- The underrun policies (R61, R87, R88). -/
inductive Policy where
  | zeroFill
  | stall
deriving DecidableEq, Repr

/-- The configuration of a slot (R59, R61). -/
structure SlotConfig where
  quota         : Nat
  prime         : Nat
  high          : Nat
  low           : Nat
  gapLimit      : Nat
  policy        : Policy
  firstExpected : Seq
deriving DecidableEq, Repr

/-- An entry of a stream queue (R65). A DATA entry holds the samples of its Cell Pool buffer. -/
inductive QueueEntry where
  | data (pos : Seq) (samples : List Sample)
  | void (first : Seq) (count : Nat)
deriving DecidableEq, Repr

/-- A reader of a slot (R81). `pending` says that the holder is the voice's pending start. -/
structure Reader where
  index   : Nat
  lane    : Fin 8
  voice   : Fin 4
  pending : Bool
  cell    : Seq
  offset  : Nat
  lacking : Bool
deriving DecidableEq, Repr

/-- Why a stream ended (R59), in the order of R210's codes. -/
inductive StreamCause where
  | done
  | abandoned
  | broken
deriving DecidableEq, Repr

/-- The counters of a slot (R79). -/
structure SlotCounters where
  accepted  : Nat
  late      : Nat
  stale     : Nat
  overQuota : Nat
  poolEmpty : Nat
  gapVoids  : Nat
  pastEnd   : Nat
  underrun  : Nat
deriving DecidableEq, Repr

def SlotCounters.zero : SlotCounters :=
  { accepted := 0, late := 0, stale := 0, overQuota := 0, poolEmpty := 0, gapVoids := 0, pastEnd := 0, underrun := 0 }

/-- A stream slot (R59, R81). `hold` is the flow state HOLD. The number held is a view, `Slot.held`. -/
structure Slot where
  state      : SlotState
  config     : SlotConfig
  e          : Seq
  h          : Seq
  queue      : List QueueEntry
  readers    : List Reader
  hold       : Bool
  final      : Option Seq
  endCause   : Option StreamCause
  counters   : SlotCounters
  consumed   : Bool
  earlyLeave : Bool
deriving DecidableEq, Repr

/-- The cold and unit reset values of R59 and R81. -/
def Slot.reset : Slot :=
  { state := .closed,
    config := { quota := 1, prime := 1, high := 1, low := 0, gapLimit := 1, policy := .zeroFill, firstExpected := 0 },
    e := 0, h := 0, queue := [], readers := [], hold := false, final := none, endCause := none,
    counters := SlotCounters.zero, consumed := false, earlyLeave := false }

/-- The subject of a flow cell of the Stream Intake (R97). -/
inductive FlowSubject where
  | slot (s : Fin 16)
  | all
deriving DecidableEq, Repr

/-- An entry of the flow outbox (R97). `tag` is the tag of a slot's cell, unused for ALL. -/
structure FlowEntry where
  subject : FlowSubject
  tag     : BitVec 16
  hold    : Bool
deriving DecidableEq, Repr

/-- The Cell Pool (R76, R77, R95). `hold` is the pool flow state ALL_HOLD. -/
structure Pool where
  free       : Nat
  reserve    : Nat
  hysteresis : Nat
  hold       : Bool
deriving DecidableEq, Repr

def Pool.reset : Pool := { free := 4096, reserve := 256, hysteresis := 128, hold := false }

/-- The Stream Intake. -/
structure Intake where
  tags         : Vector TagEntry 32
  slots        : Vector Slot 16
  pool         : Pool
  outbox       : List FlowEntry
  unknownTag   : Nat
  closedStream : Nat
deriving DecidableEq, Repr

def Intake.reset : Intake :=
  { tags := Vector.replicate 32 TagEntry.reset, slots := Vector.replicate 16 Slot.reset, pool := Pool.reset,
    outbox := [], unknownTag := 0, closedStream := 0 }

/-! ## Clip Store (05) -/

/-- The states of a clip (R106). -/
inductive ClipState where
  | empty
  | loading
  | ready
deriving DecidableEq, Repr

/-- A run of whole consecutive pages (R102). -/
structure Extent where
  start : Nat
  count : Nat
deriving DecidableEq, Repr

/-- A directory entry (R105). The load slot and the live reference count are views. -/
structure Clip where
  state   : ClipState
  length  : Nat
  extents : List Extent
deriving DecidableEq, Repr

def Clip.reset : Clip := { state := .empty, length := 0, extents := [] }

/-- A busy load slot (R107). The received set is kept as a strictly rising list. -/
structure LoadSlot where
  clip     : Fin 256
  received : List Nat
deriving DecidableEq, Repr

/-- The counters of the Clip Store (R116). -/
structure ClipCounters where
  notLoading   : Nat
  badIndex     : Nat
  duplicate    : Nat
  cellsWritten : Nat
deriving DecidableEq, Repr

def ClipCounters.zero : ClipCounters := { notLoading := 0, badIndex := 0, duplicate := 0, cellsWritten := 0 }

/-- The Clip Store. `memory` lists the bytes written since the last cold reset, addresses strictly rising. -/
structure ClipStore where
  clips     : Vector Clip 256
  loadSlots : Vector (Option LoadSlot) 2
  freeList  : List Extent
  memory    : List Host.Cell
  counters  : ClipCounters
deriving DecidableEq, Repr

def ClipStore.reset : ClipStore :=
  { clips := Vector.replicate 256 Clip.reset, loadSlots := Vector.replicate 2 none,
    freeList := [{ start := 0, count := 65536 }], memory := [], counters := ClipCounters.zero }

/-! ## Cue Engine (06) -/

/-- An Event Map entry (R123). `once` is mode ONCE. -/
structure MapEntry where
  level  : Nat
  list   : Option (Fin 256)
  notice : Bool
  once   : Bool
  armed  : Bool
deriving DecidableEq, Repr

def MapEntry.reset : MapEntry := { level := 0, list := none, notice := false, once := false, armed := true }

/-- A pending source (R127). The detail is coded as R210 codes it. -/
structure PendingEntry where
  level  : Nat
  list   : Fin 256
  detail : Byte
  merge  : Nat
deriving DecidableEq, Repr

/-- State and wait target of a context (R128). -/
inductive ContextState where
  | running
  | waiting (lane : Fin 8) (target : Nat)
deriving DecidableEq, Repr

/-- A context (R128). -/
structure Context where
  source    : Fin 126
  level     : Nat
  list      : Fin 256
  detail    : Byte
  merge     : Nat
  index     : Nat
  state     : ContextState
  reference : Option (Fin 8 × Nat)
deriving DecidableEq, Repr

/-- An entry of the Cue List table (R136). -/
structure CueList where
  first : Nat
  count : Nat
deriving DecidableEq, Repr

/-- An action record: the kind code and the 15 operand bytes (R137, R211). -/
structure ActionRecord where
  kind     : Byte
  operands : List Byte
deriving DecidableEq, Repr

def ActionRecord.nop : ActionRecord := { kind := 0, operands := List.replicate 15 0 }

/-- The Cue Engine (R148). The head of `stack` is the top context. -/
structure Cue where
  map       : Vector MapEntry 126
  pending   : Vector (Option PendingEntry) 126
  stack     : List Context
  threshold : Nat
  lists     : Vector CueList 256
  actions   : Vector ActionRecord 2048
deriving DecidableEq, Repr

def Cue.reset : Cue :=
  { map := Vector.replicate 126 MapEntry.reset, pending := Vector.replicate 126 none, stack := [], threshold := 0,
    lists := Vector.replicate 256 { first := 0, count := 0 }, actions := Vector.replicate 2048 ActionRecord.nop }

/-! ## Triggers, markers and meters (07) -/

/-- A trigger record (R149). `nextTick` is the moment of its next tick. -/
structure Trigger where
  tickCode   : Nat
  depth      : Nat
  riseEnable : Bool
  fallEnable : Bool
  sample     : Bool
  counter    : Nat
  filtered   : Bool
  riseCount  : Nat
  fallCount  : Nat
  nextTick   : Nat
deriving DecidableEq, Repr

/-- The cold and unit reset values of R149, with the input level and the moment of the reset. -/
def Trigger.reset (now : Nat) (level : Bool) : Trigger :=
  { tickCode := 1, depth := 8, riseEnable := false, fallEnable := false, sample := level, counter := 0,
    filtered := false, riseCount := 0, fallCount := 0, nextTick := now + Config.unitsPerMicro }

/-- The conditions of a marker (R155). -/
inductive Condition where
  | laneRunning (l : Fin 8)
  | voiceStartPulse (l : Fin 8)
  | segmentEdgePulse (l : Fin 8)
  | streamUnderrun (s : Fin 16)
  | triggerLevel (n : Fin 4)
  | cueLevelAtLeast (k : Nat)
  | linkUp
  | soft
deriving DecidableEq, Repr

/-- How a pin presents its level (R158). -/
inductive Drive where
  | driven
  | openDrain
  | off
deriving DecidableEq, Repr

/-- What a marker shows while its lane is FROZEN (R157). -/
inductive FrozenLevel where
  | holdLast
  | forceActive
  | forceInactive
deriving DecidableEq, Repr

/-- Pulse remaining (R154): none, running until a moment, or stopped with a time left by a freeze (R157). -/
inductive Pulse where
  | none
  | running (endsAt : Nat)
  | held (left : Nat)
deriving DecidableEq, Repr

/-- A marker record (R154). `startsDue` holds the sample clocks at which pulses are to begin, as moments, strictly rising
(R156; log entry 26).
The logical state is a view, `Device.markerLogical`. -/
structure Marker where
  condition   : Condition
  activeLow   : Bool
  drive       : Drive
  width       : Nat
  frozenLevel : FrozenLevel
  softLevel   : Bool
  pulse       : Pulse
  startsDue   : List Nat
  frozenHold  : Option Bool
deriving DecidableEq, Repr

def Marker.reset : Marker :=
  { condition := .soft, activeLow := false, drive := .off, width := 1, frozenLevel := .holdLast, softLevel := false,
    pulse := .none, startsDue := [], frozenHold := none }

/-- What a meter measures (R161). -/
inductive MeterSource where
  | laneSum
  | voice (v : Fin 4)
  | off
deriving DecidableEq, Repr

/-- The states of a meter (R161). -/
inductive MeterState where
  | idle
  | measuring
  | settling
deriving DecidableEq, Repr

/-- A lane meter (R161). The result is a level in hundredths of a dBFS with its lane time. -/
structure Meter where
  source        : MeterSource
  window        : Nat
  continuous    : Bool
  high          : Int
  low           : Int
  state         : MeterState
  settlePending : Bool
  acc           : Val
  counted       : Nat
  result        : Option (Int × Nat)
  fresh         : Bool
deriving DecidableEq, Repr

/-- The cold and unit reset values of R161; window code 1 is 1024 samples. -/
def Meter.reset : Meter :=
  { source := .off, window := 1, continuous := false, high := 0, low := -12000, state := .idle,
    settlePending := false, acc := Val.zero, counted := 0, result := none, fresh := false }

/-! ## Notices and the Identity Store (09) -/

/-- The kinds of notice (R195). -/
inductive NoticeKind where
  | event
  | cueFault
  | user
  | storeDone
deriving DecidableEq, Repr

/-- A Notice Queue entry (R195). `aux` is byte 3 of R210's entry: the effective level or the action index. -/
structure Notice where
  kind   : NoticeKind
  source : Nat
  count  : Nat
  aux    : Byte
  detail : Byte
  joined : Nat
deriving DecidableEq, Repr

/-- The Notice Queue with its settings, flags and counters (R195 to R199, R205). -/
structure NoticeBox where
  queue       : List Notice
  lost        : Bool
  lostCount   : Nat
  urgent      : Bool
  batch       : Nat
  holdoff     : Nat
  urgentLevel : Nat
  dropped     : Nat
  cells       : Nat
deriving DecidableEq, Repr

/-- The defaults of R193, R199 and R205. -/
def NoticeBox.reset : NoticeBox :=
  { queue := [], lost := false, lostCount := 0, urgent := false, batch := 1, holdoff := 0, urgentLevel := 8,
    dropped := 0, cells := 0 }

/-- A field of the Identity Store (R200). The value of LOCK is 1 for set. -/
structure StoreField where
  value  : Int
  marked : Bool
deriving DecidableEq, Repr

/-- PROGRAMMING (R200): the field, the value and the moment the program timer expires. -/
structure Programming where
  field : Fin 10
  value : Int
  endsAt : Nat
deriving DecidableEq, Repr

/-- The Identity Store (R200) with the effective lock (R201). `program` is `none` in IDLE. -/
structure IdentityStore where
  fields  : Vector StoreField 10
  program : Option Programming
  lock    : Bool
deriving DecidableEq, Repr

def IdentityStore.blank : IdentityStore :=
  { fields := Vector.replicate 10 { value := 0, marked := false }, program := none, lock := false }

/-! ## The blocks together -/

/-- Every block that operations act on: all but the Bench Link Port and the Agent's two queues. An operation
(`Op`) can change nothing else. `now` and `coldResets` are the model's own (log entries 3, 5). -/
structure Device where
  now        : Nat
  coldResets : Nat
  segments   : Vector Segment 1024
  lanes      : Vector Lane 8
  domainA    : Domain
  domainB    : Domain
  intake     : Intake
  clips      : ClipStore
  cue        : Cue
  triggers   : Vector Trigger 4
  markers    : Vector Marker 6
  meters     : Vector Meter 8
  notices    : NoticeBox
  store      : IdentityStore
deriving DecidableEq, Repr

/-! ## Bench Link Port (08) -/

/-- The four states of a link (R171). -/
inductive LinkState where
  | down
  | aligning
  | offering
  | up
deriving DecidableEq, Repr

/-- The counters of one link (R186). ROLE_ERR rises on the chain link alone. -/
structure LinkCounters where
  crcErr    : Nat
  lenErr    : Nat
  codeErr   : Nat
  frameErr  : Nat
  kindErr   : Nat
  notUpDrop : Nat
  roleErr   : Nat
  txAbort   : Nat
  upCount   : Nat
  lossCount : Nat
  cellsIn   : Nat
  cellsOut  : Nat
deriving DecidableEq, Repr

def LinkCounters.zero : LinkCounters :=
  { crcErr := 0, lenErr := 0, codeErr := 0, frameErr := 0, kindErr := 0, notUpDrop := 0, roleErr := 0, txAbort := 0,
    upCount := 0, lossCount := 0, cellsIn := 0, cellsOut := 0 }

/-- A cell being sent; `resetReply` marks this unit's own UNIT_RESET reply (R192). -/
structure Sending where
  cell       : Cell
  resetReply : Bool
deriving DecidableEq, Repr

/-- A link record (R169), its receiver's cell in progress (R175), its transmitter's cell (R174) and the moment of
its next OFFER (R172). `peerServer` is the peer role SERVER. -/
structure Link where
  state      : LinkState
  counter    : Nat
  seen       : Bool
  peerServer : Option Bool
  peerAddr   : Option Nat
  rate       : Option Nat
  answerDue  : Bool
  receiving  : Option (List Byte)
  sending    : Option Sending
  offerAt    : Nat
  counters   : LinkCounters
deriving DecidableEq, Repr

def Link.reset : Link :=
  { state := .down, counter := 0, seen := false, peerServer := none, peerAddr := none, rate := none,
    answerDue := false, receiving := none, sending := none, offerAt := 0, counters := LinkCounters.zero }

/-- The three rotating classes of the upstream arbiter (R184). -/
inductive Class where
  | reply
  | notice
  | chain
deriving DecidableEq, Repr

/-- Where the unit address comes from (R201). -/
inductive Origin where
  | store
  | straps
  | none
deriving DecidableEq, Repr

/-- The counters kept for the port (R186). -/
structure PortCounters where
  fwdDrop    : Nat
  fwdFlush   : Nat
  mergeDrop  : Nat
  mergeFlush : Nat
deriving DecidableEq, Repr

def PortCounters.zero : PortCounters := { fwdDrop := 0, fwdFlush := 0, mergeDrop := 0, mergeFlush := 0 }

/-- The Bench Link Port (R169 to R186). `holdSent` is the hold-sent state HOLD; `flowPlace` holds the state of the
FLOW(LINK) cell waiting in the chain link-flow place. `address` is absent for a unit without one (R179). -/
structure Port where
  bench     : Link
  chain     : Link
  held      : Bool
  holdSent  : Bool
  flowPlace : Option Bool
  forward   : List Cell
  merge     : List Cell
  mark      : Class
  address   : Option (Fin 15)
  origin    : Origin
  counters  : PortCounters
deriving DecidableEq, Repr

/-- The cold reset values of R169 and R185, with the address loaded (R179). -/
def Port.reset (address : Option (Fin 15)) (origin : Origin) : Port :=
  { bench := Link.reset, chain := Link.reset, held := false, holdSent := false, flowPlace := none, forward := [],
    merge := [], mark := .chain, address := address, origin := origin, counters := PortCounters.zero }

/-! ## Management Agent (09) -/

/-- The result codes (00 section 6.8), in the order of R208's values. -/
inductive Result where
  | ok
  | accepted
  | busy
  | inUse
  | badKind
  | badField
  | outOfRange
  | notReady
  | laneStopped
  | streamRunning
  | full
  | noSpace
  | incomplete
  | locked
deriving DecidableEq, Repr

/-- A request in the request queue (R188). -/
structure Request where
  tag     : Byte
  kind    : Byte
  payload : List Byte
deriving DecidableEq, Repr

/-- A reply (R190). -/
structure Reply where
  tag       : Byte
  kind      : Byte
  result    : Result
  data      : List Byte
  lost      : Bool
  lostCount : Nat
deriving DecidableEq, Repr

/-- The Agent's request and reply side (R188 to R193). `resetSent` is set once the sending of the UNIT_RESET reply
has ended (R192; log entry 22). -/
structure Agent where
  requests   : List Request
  replies    : List Reply
  lost       : Bool
  lostCount  : Nat
  resetWait  : Bool
  resetSent  : Bool
  reqTaken   : Nat
  reqDropped : Nat
deriving DecidableEq, Repr

def Agent.reset : Agent :=
  { requests := [], replies := [], lost := false, lostCount := 0, resetWait := false, resetSent := false,
    reqTaken := 0, reqDropped := 0 }

/-- The state of the machine. `pending` is the queue of the commands that wait, first in first out. -/
structure State where
  pending : List Instr
  dev     : Device
  port    : Port
  agent   : Agent
deriving DecidableEq, Repr

/-! ## Reset -/

/-- The blocks right after a cold reset, with the lane trims and the Identity Store as loaded (R201) and the trigger
inputs as they stand (R149). Unit reset takes the same values in the blocks it resets (R192). -/
def Device.reset (now coldResets : Nat) (trims : Vector Int 8) (store : IdentityStore) (inputs : BitVec 4) : Device :=
  { now := now, coldResets := coldResets,
    segments := Vector.replicate 1024 Segment.reset,
    lanes := Vector.ofFn fun l => Lane.reset (trims.get l),
    domainA := Domain.reset, domainB := Domain.reset,
    intake := Intake.reset, clips := ClipStore.reset, cue := Cue.reset,
    triggers := Vector.ofFn fun n => Trigger.reset now (inputs.getLsbD n.val),
    markers := Vector.replicate 6 Marker.reset, meters := Vector.replicate 8 Meter.reset,
    notices := NoticeBox.reset,
    store := store }

/-- The machine right after a cold reset with an unprogrammed store, straps 0 and low trigger inputs (log entry 4). -/
def State.reset : State :=
  { pending := [],
    dev := Device.reset 0 0 (Vector.replicate 8 0) IdentityStore.blank 0,
    port := Port.reset (some 0) .straps,
    agent := Agent.reset }

/-! ## How a step can stop -/

/-- The faults of a step. There is none: the manual gives every command an effect in every state, and a refused
operation answers with a result code (log entry 30). -/
inductive Fault where
deriving DecidableEq, Repr

/-- The refusals of a step. -/
inductive Refusal where
  /-- A command whose meaning is not written yet; raised by an arm of `exec` alone. Safe: nothing can be proved of it.
  Every command has its meaning, so no arm raises it. -/
  | notModelled (mnemonic : String)
deriving DecidableEq, Repr

/-- What a meaning answers. -/
abbrev Out := Host.Outcome State Fault Refusal

end Sys2Proof.Machine
end

