-- ==== Sys2Proof/Machine/Operands.lean ====
section
/-!
DEFINITION. How bytes are read as operands and written as reply data (R208, R209, R211): byte order, enumerations,
the fixed records, and how a reply that is too long is cut.
-/
namespace Sys2Proof.Machine

/-! ## Reading operands -/

/-- Byte `i` of a payload as a number; 0 past its end (a payload is tested for length first, R209). -/
def u8 (p : List Byte) (i : Nat) : Nat := (p.getD i 0).toNat

/-- Two bytes, high byte first. -/
def u16 (p : List Byte) (i : Nat) : Nat := u8 p i * 256 + u8 p (i + 1)

/-- Four bytes, high byte first. -/
def u32 (p : List Byte) (i : Nat) : Nat := u16 p i * 65536 + u16 p (i + 2)

/-- Six bytes, high byte first: a lane time. -/
def u48 (p : List Byte) (i : Nat) : Nat := u16 p i * 4294967296 + u32 p (i + 2)

/-- Two bytes as a two's complement number. -/
def s16 (p : List Byte) (i : Nat) : Int := (BitVec.ofNat 16 (u16 p i)).toInt

/-- A flag: bit 0 of its byte. -/
def flagAt (p : List Byte) (i : Nat) : Bool := (p.getD i 0).getLsbD 0

/-- Bit `b` of byte `i`. -/
def bitAt (p : List Byte) (i b : Nat) : Bool := (p.getD i 0).getLsbD b

/-- A number as an index below n. -/
def fin? (n x : Nat) : Option (Fin n) := if h : x < n then some ⟨x, h⟩ else none

/-- An optional 2-byte field: FFFFh is absent. -/
def optU16 (p : List Byte) (i : Nat) : Option Nat := if u16 p i = 0xFFFF then none else some (u16 p i)

/-- A when operand as a cell carries it (R209). -/
inductive When where
  | next
  | at (t : Nat)
  | rel (d : Nat)
deriving DecidableEq, Repr

def whenAt (p : List Byte) (i : Nat) : Option When :=
  match u8 p i with
  | 0 => some .next
  | 1 => some (.at (u48 p (i + 1)))
  | 2 => some (.rel (u48 p (i + 1)))
  | _ => none

/-- SOFT 0, HARD 1 (R23, R46). -/
def modeAt (p : List Byte) (i : Nat) : Option Mode :=
  match u8 p i with
  | 0 => some .soft
  | 1 => some .hard
  | _ => none

/-- A two-valued enumeration: `some false` for code 0, `some true` for code 1. -/
def boolEnumAt (p : List Byte) (i : Nat) : Option Bool :=
  match u8 p i with
  | 0 => some false
  | 1 => some true
  | _ => none

/-- Domain A 0, B 1; the operation's own rule gives the result for another value (log entry 13). -/
def domainAt (p : List Byte) (i : Nat) : Option DomainId :=
  match u8 p i with
  | 0 => some .a
  | 1 => some .b
  | _ => none

/-- ZERO_FILL 0, STALL 1 (R61). -/
def policyAt (p : List Byte) (i : Nat) : Option Policy :=
  match u8 p i with
  | 0 => some .zeroFill
  | 1 => some .stall
  | _ => none

/-- DRIVEN 0, OPEN_DRAIN 1, OFF 2 (R154). -/
def driveAt (p : List Byte) (i : Nat) : Option Drive :=
  match u8 p i with
  | 0 => some .driven
  | 1 => some .openDrain
  | 2 => some .off
  | _ => none

/-- HOLD_LAST 0, FORCE_ACTIVE 1, FORCE_INACTIVE 2 (R154). -/
def frozenLevelAt (p : List Byte) (i : Nat) : Option FrozenLevel :=
  match u8 p i with
  | 0 => some .holdLast
  | 1 => some .forceActive
  | 2 => some .forceInactive
  | _ => none

/-! ## The segment record (R211) -/

/-- A segment record as SEG_WRITE carries it, before the checks of R4. `kind` is the source kind byte. -/
structure RawSegment where
  kind          : Nat
  sourceId      : Nat
  startOffset   : Nat
  length        : Nat
  untilEnd      : Bool
  fadeEach      : Bool
  phaseContinue : Bool
  endEvent      : Bool
  repeats       : Nat
  ramp          : Nat
  gain          : Int
  shift         : BitVec 32
  next          : Option Nat
deriving DecidableEq, Repr

def rawSegmentAt (p : List Byte) (i : Nat) : RawSegment :=
  { kind := u8 p i, sourceId := u8 p (i + 1), startOffset := u32 p (i + 2), length := u32 p (i + 6),
    untilEnd := bitAt p (i + 10) 0, fadeEach := bitAt p (i + 10) 1, phaseContinue := bitAt p (i + 10) 2,
    endEvent := bitAt p (i + 10) 3, repeats := u8 p (i + 11), ramp := u16 p (i + 12), gain := s16 p (i + 14),
    shift := BitVec.ofNat 32 (u32 p (i + 16)), next := optU16 p (i + 20) }

/-- The source kind codes: NONE 0, STREAM 1, CLIP 2, SILENCE 3. -/
def sourceKindOf (n : Nat) : Option SourceKind :=
  match n with
  | 0 => some .none
  | 1 => some .stream
  | 2 => some .clip
  | 3 => some .silence
  | _ => none

/-! ## Writing reply data -/

def b8 (n : Nat) : List Byte := [BitVec.ofNat 8 n]

def b16 (n : Nat) : List Byte := [BitVec.ofNat 8 (n / 256), BitVec.ofNat 8 n]

def b32 (n : Nat) : List Byte := b16 (n / 65536) ++ b16 (n % 65536)

def b48 (n : Nat) : List Byte := b16 (n / 4294967296) ++ b32 (n % 4294967296)

/-- A 32-bit word, high byte first. -/
def bWord (w : BitVec 32) : List Byte :=
  [w.extractLsb' 24 8, w.extractLsb' 16 8, w.extractLsb' 8 8, w.extractLsb' 0 8]

def b16s (i : Int) : List Byte := b16 (BitVec.ofInt 16 i).toNat

def bFlag (b : Bool) : List Byte := [if b then 1 else 0]

/-- An optional 2-byte field: FFFFh for absent. -/
def bOpt16 : Option Nat → List Byte
  | some n => b16 n
  | none => b16 0xFFFF

/-- An optional 1-byte field; R209 gives no code for absent, which is a free value (log entry 11). -/
def bOpt8 : Option Nat → List Byte
  | some n => b8 n
  | none => [Config.absentByte]

/-- An optional 4-byte field; R209 gives no code for absent, which is a free value (log entry 11). -/
def bOpt32 : Option Nat → List Byte
  | some n => b32 n
  | none => bWord Config.absentWord

/-- An optional lane time: 0 or 1, then six bytes (R209). That the six bytes of an absent one are 0 is the model's choice (log
entry 12). -/
def bOptTime : Option Nat → List Byte
  | some t => b8 1 ++ b48 t
  | none => b8 0 ++ b48 0

/-- A linear amplitude: four bytes of a free value (log entry 11). -/
def bAmp (v : Val) : List Byte := bWord (Config.amplitudeCode v)

/-- A part or family name: eight character codes, zero-filled. -/
def bName (s : List Nat) : List Byte := (s.map (BitVec.ofNat 8)) ++ List.replicate (8 - s.length) 0

/-- Reply data: a fixed run of bytes, or a list, which a 1-byte count of its items precedes (R209). -/
inductive Item where
  | one (bytes : List Byte)
  | many (items : List (List Byte))
deriving DecidableEq, Repr

/-- As many whole items as fit in `room` bytes. -/
def itemsThatFit : Nat → List (List Byte) → List (List Byte)
  | _, [] => []
  | room, x :: xs => if x.length ≤ room then x :: itemsThatFit (room - x.length) xs else []

/-- Packs reply data into at most `room` bytes: data that would pass it end at the last whole list item that fits,
and the count byte gives the number carried (R209). -/
def packItems : Nat → List Item → List Byte
  | _, [] => []
  | room, .one bytes :: rest =>
    if bytes.length ≤ room then bytes ++ packItems (room - bytes.length) rest else []
  | room, .many items :: rest =>
    if room = 0 then []
    else
      let fit := itemsThatFit (min (room - 1) 256) items
      let bytes := b8 fit.length ++ fit.flatten
      if fit.length = items.length then bytes ++ packItems (room - bytes.length) rest else bytes

/-- Reply data of at most 256 bytes. -/
def pack (items : List Item) : List Byte := packItems 256 items

/-! ## Codes of enumerations in replies, in the order their rule first lists them (R209; log entry 12) -/

def resultCode : Result → Byte
  | .ok => 0x00
  | .accepted => 0x01
  | .busy => 0x02
  | .inUse => 0x03
  | .badKind => 0x04
  | .badField => 0x05
  | .outOfRange => 0x06
  | .notReady => 0x07
  | .laneStopped => 0x08
  | .streamRunning => 0x09
  | .full => 0x0A
  | .noSpace => 0x0B
  | .incomplete => 0x0C
  | .locked => 0x0D

def sourceKindCode : SourceKind → Nat
  | .none => 0
  | .stream => 1
  | .clip => 2
  | .silence => 3

def voiceStateCode : VoiceState → Nat
  | .idle => 0
  | .pending => 1
  | .playing => 2
  | .stalled => 3
  | .fading => 4

/-- The end causes as R210 codes them. -/
def endCauseCode : EndCause → Nat
  | .complete => 0
  | .stopped => 1
  | .replaced => 2
  | .broken => 3
  | .closed => 4
  | .cleared => 5
  | .sourceFault => 6
  | .noReader => 7

def laneStateCode : LaneState → Nat
  | .stopped => 0
  | .armed => 1
  | .running => 2
  | .freezing => 3
  | .frozen => 4

def domainCode : DomainId → Nat
  | .a => 0
  | .b => 1

def domainStateCode : DomainState → Nat
  | .stopped => 0
  | .settling => 1
  | .ready => 2

def startModeBytes : StartMode → List Byte
  | .immediate => b8 0 ++ b8 0
  | .trigger n => b8 1 ++ b8 n.val

def modeCode : Mode → Nat
  | .soft => 0
  | .hard => 1

def slotStateCode : SlotState → Nat
  | .closed => 0
  | .filling => 1
  | .primed => 2
  | .running => 3
  | .draining => 4
  | .ended => 5
  | .broken => 6

def policyCode : Policy → Nat
  | .zeroFill => 0
  | .stall => 1

/-- The stream end causes as R210 codes them. -/
def streamCauseCode : StreamCause → Nat
  | .done => 0
  | .abandoned => 1
  | .broken => 2

def clipStateCode : ClipState → Nat
  | .empty => 0
  | .loading => 1
  | .ready => 2

def conditionBytes : Condition → List Byte
  | .laneRunning l => b8 0 ++ b8 l.val
  | .voiceStartPulse l => b8 1 ++ b8 l.val
  | .segmentEdgePulse l => b8 2 ++ b8 l.val
  | .streamUnderrun s => b8 3 ++ b8 s.val
  | .triggerLevel n => b8 4 ++ b8 n.val
  | .cueLevelAtLeast k => b8 5 ++ b8 k
  | .linkUp => b8 6 ++ b8 0
  | .soft => b8 7 ++ b8 0

def driveCode : Drive → Nat
  | .driven => 0
  | .openDrain => 1
  | .off => 2

def frozenLevelCode : FrozenLevel → Nat
  | .holdLast => 0
  | .forceActive => 1
  | .forceInactive => 2

def meterSourceBytes : MeterSource → List Byte
  | .laneSum => b8 0 ++ b8 0
  | .voice v => b8 1 ++ b8 v.val
  | .off => b8 2 ++ b8 0

def meterStateCode : MeterState → Nat
  | .idle => 0
  | .measuring => 1
  | .settling => 2

def linkStateCode : LinkState → Nat
  | .down => 0
  | .aligning => 1
  | .offering => 2
  | .up => 3

def originCode : Origin → Nat
  | .store => 0
  | .straps => 1
  | .none => 2

def classCode : Class → Nat
  | .reply => 0
  | .notice => 1
  | .chain => 2

/-- The notice kind codes of R210. -/
def noticeKindCode : NoticeKind → Byte
  | .event => 0x01
  | .cueFault => 0x02
  | .user => 0x03
  | .storeDone => 0x04

/-- The 24-byte segment record (R211); the length bytes are 0 with UNTIL_END. -/
def segmentBytes (g : Segment) : List Byte :=
  let (len, untilEnd) := match g.fixed.length with
    | .samples n => (n, 0)
    | .untilEnd => (0, 1)
  let flags := untilEnd + (if g.fixed.fadeEach then 2 else 0) + (if g.hot.phaseContinue then 4 else 0)
    + (if g.hot.endEvent then 8 else 0)
  b8 (sourceKindCode g.fixed.kind) ++ b8 g.fixed.sourceId ++ b32 g.fixed.startOffset ++ b32 len ++ b8 flags
    ++ b8 g.fixed.repeats ++ b16 g.fixed.ramp ++ b16s g.hot.gain ++ bWord g.hot.shift
    ++ bOpt16 (g.hot.next.map Fin.val) ++ b16 0

/-- The 16-byte action record (R211). -/
def actionBytes (a : ActionRecord) : List Byte := a.kind :: a.operands

/-- The 8-byte Event Map entry (R211). -/
def mapEntryBytes (m : MapEntry) : List Byte :=
  b8 m.level ++ bFlag m.once ++ b8 ((if m.notice then 1 else 0) + (if m.armed then 2 else 0)) ++ b8 0
    ++ bOpt16 (m.list.map Fin.val) ++ b16 0

/-- The 64 samples of a payload (R208): I then Q, high byte first. -/
def samplesOf (p : List Byte) : List Sample :=
  (List.range 64).map fun k => { i := s16 p (4 * k), q := s16 p (4 * k + 2) }

end Sys2Proof.Machine
end

