-- ==== Sys2Proof/Machine/Flags.lean ====
section
/-!
DEFINITION. The flags and levels of the part: counters that saturate, the Notice Queue with its urgent flag, latch and
send condition (R195 to R197), an event taken by the Cue Engine with selection (R122, R129, R130), and the slot tests
on sequence numbers.
-/
namespace Sys2Proof.Machine

/-! ## Access to tables -/

/-- A table with the entry at `i` replaced. -/
def put {α : Type} {n : Nat} (v : Vector α n) (i : Fin n) (x : α) : Vector α n := v.set i.val x i.isLt

/-- A table with the entry at `i` changed by `f`. -/
def change {α : Type} {n : Nat} (v : Vector α n) (i : Fin n) (f : α → α) : Vector α n := put v i (f (v.get i))

/-! ## Counters -/

/-- A 32-bit counter raised by k, saturating. -/
def satAdd (n k : Nat) : Nat := min (n + k) Config.counterMax

/-- A 32-bit counter raised by one, saturating. -/
def satInc (n : Nat) : Nat := satAdd n 1

/-- A count raised by one, saturating at 255. -/
def satByte (n : Nat) : Nat := min (n + 1) 255

/-! ## Sequence numbers (00 section 6.6) -/

/-- a precedes b: (b - a) mod 2^32 lies in 1 to 2^31 - 1. -/
def precedes (a b : Seq) : Bool := 1 ≤ (b - a).toNat && (b - a).toNat ≤ 2147483647

/-- a is b or follows b. -/
def atOrAfter (a b : Seq) : Bool := (a - b).toNat ≤ 2147483647

/-! ## The Notice Queue (R195 to R197) -/

/-- The entry after another notice of its kind and source has come (R196). -/
def Notice.again (n : Notice) (aux detail : Byte) : Notice :=
  { n with count := satByte n.count, aux := aux, detail := detail }

/-- Whether an entry has this kind and source. -/
def Notice.matches (n : Notice) (kind : NoticeKind) (source : Nat) : Bool := n.kind = kind && n.source = source

/-- The urgent test of R197: an EVENT notice whose effective level, its `aux`, is at least the urgent level. -/
def isUrgent (b : NoticeBox) (kind : NoticeKind) (aux : Byte) : Bool :=
  kind = .event && 0 < aux.toNat && b.urgentLevel ≤ aux.toNat

/-- The queue part of R196: coalesce, join, or discard. -/
def queueNotice (now : Nat) (kind : NoticeKind) (source : Nat) (aux detail : Byte) (b : NoticeBox) : NoticeBox :=
  if b.queue.any (·.matches kind source) then
    { b with queue := b.queue.map fun n => if n.matches kind source then n.again aux detail else n }
  else if b.queue.length < 32 then
    { b with queue := b.queue ++
        [{ kind := kind, source := source, count := 1, aux := aux, detail := detail, joined := now }] }
  else
    { b with dropped := satInc b.dropped, lost := true, lostCount := satByte b.lostCount }

/-- The Agent takes a notice, and then makes the urgent test (R196, R197). -/
def takeNotice (now : Nat) (kind : NoticeKind) (source : Nat) (aux detail : Byte) (b : NoticeBox) : NoticeBox :=
  let b := queueNotice now kind source aux detail b
  { b with urgent := b.urgent || isUrgent b kind aux }

/-- The send condition (R197). -/
def NoticeBox.sendReady (b : NoticeBox) (now : Nat) : Bool :=
  match b.queue with
  | [] => false
  | oldest :: _ =>
    b.batch ≤ b.queue.length || oldest.joined + b.holdoff * Config.unitsPerMicro ≤ now || b.urgent

/-- A notice handed to the Agent by another block. -/
def Device.handNotice (d : Device) (kind : NoticeKind) (source : Nat) (aux detail : Byte) : Device :=
  { d with notices := takeNotice d.now kind source aux detail d.notices }

/-- A CUE_FAULT notice: the cue list, the action's index and the result (R134, R145). -/
def Device.cueFault (d : Device) (list : Fin 256) (index : Nat) (result : Result) : Device :=
  d.handNotice .cueFault list.val (BitVec.ofNat 8 index) (resultCode result)

/-! ## Event sources (R121) -/

def srcTriggerRise (n : Fin 4) : Fin 126 := ⟨2 * n.val, by omega⟩

def srcTriggerFall (n : Fin 4) : Fin 126 := ⟨2 * n.val + 1, by omega⟩

def srcSoft (n : Fin 4) : Fin 126 := ⟨8 + n.val, by omega⟩

def srcLaneCompare (l : Fin 8) : Fin 126 := ⟨12 + l.val, by omega⟩

def srcVoiceEnd (l : Fin 8) (v : Fin 4) : Fin 126 := ⟨20 + 4 * l.val + v.val, by omega⟩

def srcOverrange (l : Fin 8) : Fin 126 := ⟨52 + l.val, by omega⟩

def srcMeterHigh (l : Fin 8) : Fin 126 := ⟨60 + l.val, by omega⟩

def srcMeterLow (l : Fin 8) : Fin 126 := ⟨68 + l.val, by omega⟩

def srcStreamPrimed (s : Fin 16) : Fin 126 := ⟨76 + s.val, by omega⟩

def srcStreamUnderrun (s : Fin 16) : Fin 126 := ⟨92 + s.val, by omega⟩

def srcStreamEnd (s : Fin 16) : Fin 126 := ⟨108 + s.val, by omega⟩

def srcDomainReady : DomainId → Fin 126
  | .a => 124
  | .b => 125

/-! ## Selection (R129, R130) -/

/-- The engine level: the level of the top context, or 0 (R128). -/
def Cue.engineLevel (c : Cue) : Nat :=
  match c.stack with
  | [] => 0
  | top :: _ => top.level

/-- Whether a pending source of this level is a candidate (R129). -/
def Cue.isCandidate (c : Cue) (level : Nat) : Bool :=
  c.engineLevel < level && (level = 7 || c.threshold < level)

/-- The better of a best so far and a later source: the higher level, and the lower number among equals. -/
def betterSource (c : Cue) (best : Option (Fin 126 × Nat)) (k : Fin 126) : Option (Fin 126 × Nat) :=
  match c.pending.get k with
  | none => best
  | some p =>
    if c.isCandidate p.level then
      match best with
      | none => some (k, p.level)
      | some (_, level) => if level < p.level then some (k, p.level) else best
    else best

/-- The winner of the arbiter: the candidate of highest level, the lowest number among equals (R129). -/
def Cue.winner (c : Cue) : Option (Fin 126) :=
  if c.stack.length < 4 then ((List.finRange 126).foldl (betterSource c) none).map Prod.fst else none

/-- The new context of a selected source (R130). -/
def contextOf (source : Fin 126) (p : PendingEntry) : Context :=
  { source := source, level := p.level, list := p.list, detail := p.detail, merge := p.merge, index := 0,
    state := .running, reference := none }

/-- Pushes a context for a pending source; a ONCE entry's level becomes 0 (R130). -/
def Cue.push (c : Cue) (k : Fin 126) : Cue :=
  match c.pending.get k with
  | none => c
  | some p =>
    { c with
      pending := put c.pending k none
      stack := contextOf k p :: c.stack
      map := change c.map k fun e => if e.once then { e with level := 0 } else e }

/-- Selection, made again after each push; the stack takes at most 4 (R129). -/
def Cue.selectN : Nat → Cue → Cue
  | 0, c => c
  | fuel + 1, c =>
    match c.winner with
    | none => c
    | some k => Cue.selectN fuel (c.push k)

/-- Selection (R129). -/
def Cue.select (c : Cue) : Cue := c.selectN 4

def Device.select (d : Device) : Device := { d with cue := d.cue.select }

/-! ## Events (R122) -/

/-- The level in effect: 0 for a disarmed entry (R122). -/
def MapEntry.effective (e : MapEntry) : Nat := if e.armed then e.level else 0

/-- Marks a source in the Pending Set, with selection if it was not pending (R122). -/
def Cue.mark (c : Cue) (k : Fin 126) (level : Nat) (list : Fin 256) (detail : Byte) : Cue :=
  match c.pending.get k with
  | none => ({ c with pending := put c.pending k (some { level := level, list := list, detail := detail, merge := 0 }) }).select
  | some p => { c with pending := put c.pending k (some { p with merge := satByte p.merge, detail := detail }) }

/-- The Cue Engine takes an event (R122): its notice, and its mark in the Pending Set. -/
def Device.raise (d : Device) (k : Fin 126) (detail : Byte) : Device :=
  let e := d.cue.map.get k
  let d := if e.notice then d.handNotice .event k.val (BitVec.ofNat 8 e.effective) detail else d
  match e.list with
  | none => d
  | some list => if 0 < e.effective then { d with cue := d.cue.mark k e.effective list detail } else d

/-- Events taken one after another. -/
def Device.raiseAll (d : Device) (events : List (Fin 126 × Byte)) : Device :=
  events.foldl (fun d e => d.raise e.1 e.2) d

end Sys2Proof.Machine
end

