-- ==== Sys2Proof/Machine/Memory.lean ====
section
/-!
DEFINITION. Clip memory: a list of (address, byte) pairs in one canonical form (R101; log entry 5), and the walk from a
clip's samples to memory pages (R109, R118).
-/
namespace Sys2Proof.Machine

/-- The number of byte addresses of clip memory: 65536 pages of 1024 samples of 4 bytes (R101). -/
def memoryEnd : Nat := 268435456

/-- The byte at an address: the byte written there since the last cold reset, or a free value (R101). -/
def memRead (coldResets : Nat) : List Host.Cell → Nat → Byte
  | [], a => Config.undefinedClipByte coldResets a
  | (b, x) :: rest, a => if a = b then x else memRead coldResets rest a

/-- The list with one byte placed, addresses rising. -/
def memPlace (a : Nat) (x : Byte) : List Host.Cell → List Host.Cell
  | [] => [(a, x)]
  | (b, y) :: rest =>
    if a < b then (a, x) :: (b, y) :: rest
    else if a = b then (a, x) :: rest
    else (b, y) :: memPlace a x rest

/-- Writes one byte. Addresses outside clip memory do not exist and hold nothing. -/
def memWrite (m : List Host.Cell) (a : Nat) (x : Byte) : List Host.Cell := if a < memoryEnd then memPlace a x m else m

/-- Writes a run of bytes from an address up. -/
def memWriteRun (m : List Host.Cell) (a : Nat) : List Byte → List Host.Cell
  | [] => m
  | x :: xs => memWriteRun (memWrite m a x) (a + 1) xs

/-- All addresses of a list lie above a bound and rise, within clip memory. -/
def memRises (low : Nat) : List Host.Cell → Bool
  | [] => true
  | (b, _) :: rest => low ≤ b && b < memoryEnd && memRises (b + 1) rest

/-- The canonical form of clip memory: addresses strictly rising, within clip memory. An unlisted byte is undefined, so
a listed one never equals what an unlisted address is known to read as. -/
def Memory.wf (m : List Host.Cell) : Bool := memRises 0 m

/-! ## Clips in memory -/

/-- The pages of a list of extents. -/
def pagesOf (extents : List Extent) : Nat := (extents.map Extent.count).sum

/-- The memory page that holds a clip page (R118); a page past the extents has no memory page. -/
def memoryPage : List Extent → Nat → Nat
  | [], page => 65536 + page
  | x :: rest, page => if page < x.count then x.start + page else memoryPage rest (page - x.count)

/-- The address of the sample at clip position q (R118). -/
def sampleAddress (extents : List Extent) (q : Nat) : Nat := memoryPage extents (q / 1024) * 4096 + q % 1024 * 4

/-- The clip sample at clip position q (R118). -/
def clipSample (coldResets : Nat) (m : List Host.Cell) (extents : List Extent) (q : Nat) : Sample :=
  let a := sampleAddress extents q
  let bytes := (List.range 4).map fun k => memRead coldResets m (a + k)
  { i := s16 bytes 0, q := s16 bytes 2 }

/-- The number of pages a length takes (R105). -/
def pagesFor (length : Nat) : Nat := (length + 1023) / 1024

/-- The number of cells a length takes (R105). -/
def cellsFor (length : Nat) : Nat := (length + 63) / 64

end Sys2Proof.Machine
end

