-- ==== Sys2Proof/Machine/Ops.lean ====
section
/-!
DEFINITION. The shared operations: access to records, naming and live counts (R3, R117), the lane schedule (R40), taking
a request and placing its reply (R189, R190), and performing an action of the top context (R133, R134).
-/
namespace Sys2Proof.Machine

/-! ## Access to records -/

def Device.lane (d : Device) (l : Fin 8) : Lane := d.lanes.get l

def Device.setLane (d : Device) (l : Fin 8) (x : Lane) : Device := { d with lanes := put d.lanes l x }

def Device.updLane (d : Device) (l : Fin 8) (f : Lane → Lane) : Device := d.setLane l (f (d.lane l))

def Device.voice (d : Device) (l : Fin 8) (v : Fin 4) : Voice := (d.lane l).voices.get v

def Device.setVoice (d : Device) (l : Fin 8) (v : Fin 4) (x : Voice) : Device :=
  d.updLane l fun y => { y with voices := put y.voices v x }

def Device.updVoice (d : Device) (l : Fin 8) (v : Fin 4) (f : Voice → Voice) : Device :=
  d.setVoice l v (f (d.voice l v))

def Device.segment (d : Device) (g : Fin 1024) : Segment := d.segments.get g

def Device.domain (d : Device) : DomainId → Domain
  | .a => d.domainA
  | .b => d.domainB

def Device.setDomain (d : Device) (i : DomainId) (x : Domain) : Device :=
  match i with
  | .a => { d with domainA := x }
  | .b => { d with domainB := x }

def Device.slot (d : Device) (s : Fin 16) : Slot := d.intake.slots.get s

def Intake.setSlot (k : Intake) (s : Fin 16) (x : Slot) : Intake := { k with slots := put k.slots s x }

def Device.setSlot (d : Device) (s : Fin 16) (x : Slot) : Device := { d with intake := d.intake.setSlot s x }

def Device.clip (d : Device) (c : Fin 256) : Clip := d.clips.clips.get c

def Device.meter (d : Device) (l : Fin 8) : Meter := d.meters.get l

def Device.setMeter (d : Device) (l : Fin 8) (x : Meter) : Device := { d with meters := put d.meters l x }

def Device.setMarker (d : Device) (m : Fin 6) (x : Marker) : Device := { d with markers := put d.markers m x }

/-- The lanes and voices in order. -/
def allVoices : List (Fin 8 × Fin 4) := (List.finRange 8).flatMap fun l => (List.finRange 4).map fun v => (l, v)

/-- A timer's deadline is reached: the moment is no earlier than it (log entry 3). -/
def Device.reach (d : Device) (moment : Nat) : Device := { d with now := max d.now moment }

/-- One cycle of the reference clock with no command (log entries 2, 3). -/
def State.idle (s : State) : State := { s with dev := s.dev.reach (s.dev.now + Config.unitsPerCycle) }

/-! ## Naming and live counts (R3, R117; log entry 6) -/

/-- The clip a CLIP segment names. -/
def Fixed.clip (f : Fixed) : Fin 256 := Fin.ofNat 256 f.sourceId

/-- The slot a STREAM segment names. -/
def Fixed.slot (f : Fixed) : Fin 16 := Fin.ofNat 16 f.sourceId

/-- Start offset + length is not more than a clip's length (R4, R17). -/
def Fixed.fits (f : Fixed) (clipLength : Nat) : Bool :=
  match f.length with
  | .samples n => f.startOffset + n ≤ clipLength
  | .untilEnd => false

/-- A CLIP segment binds: its clip is READY and its bounds lie in the clip (R17). -/
def Device.clipBinds (d : Device) (f : Fixed) : Bool :=
  (d.clip f.clip).state = .ready && f.fits (d.clip f.clip).length

/-- A chain to a segment can be named: R22 gives no SOURCE_FAULT. -/
def Device.chainable (d : Device) (g : Fin 1024) : Bool :=
  match (d.segment g).fixed.kind with
  | .none => false
  | .clip => d.clipBinds (d.segment g).fixed
  | .stream => true
  | .silence => true

/-- The segments a voice names: its current segment, the segment it chains to at its next sample, and the segment of
its pending start (R3, R21). -/
def Device.namedBy (d : Device) (x : Voice) : List (Fin 1024) :=
  let chain := match x.due with
    | .chain g => if d.chainable g then [g] else []
    | _ => []
  (x.current.toList ++ chain ++ (x.pending.map PendingStart.segment).toList).eraseDups

/-- Every voice's named segments together, a segment once for each voice that names it. -/
def Device.namings (d : Device) : List (Fin 1024) :=
  allVoices.flatMap fun (l, v) => d.namedBy (d.voice l v)

/-- The live count of a segment (R3). -/
def Device.liveCount (d : Device) (g : Fin 1024) : Nat := d.namings.count g

/-- The live reference count of a clip: the live CLIP segments that name it (R117). -/
def Device.clipRefs (d : Device) (c : Fin 256) : Nat :=
  (d.namings.eraseDups.filter fun g =>
    (d.segment g).fixed.kind = .clip && (d.segment g).fixed.clip = c).length

/-! ## The lane schedule (R40) -/

/-- Places an entry after every entry whose stamp is earlier than or equal to its own. -/
def insertEntry (e : Entry) : List Entry → List Entry
  | [] => [e]
  | x :: xs => if x.stamp ≤ e.stamp then x :: insertEntry e xs else e :: x :: xs

/-- The stamp of a NEXT or AT (R12): NEXT is the lane time at which the lane's next block begins. -/
def stampOf (time : Nat) : When → Nat
  | .next => time
  | .at t => t
  | .rel _ => time

def Device.schedule (d : Device) (l : Fin 8) (e : Entry) : Device :=
  d.updLane l fun x => { x with schedule := insertEntry e x.schedule }

/-- Whether an entry is a start of this voice. -/
def Entry.startsVoice (e : Entry) (v : Fin 4) : Bool :=
  match e.kind with
  | .voiceStart w _ _ => w = v
  | _ => false

def Lane.full (x : Lane) : Bool := 16 ≤ x.schedule.length

/-! ## Operations (00 section 6.8) -/

/-- Who invokes an operation: the Agent for a request, or a context with its event source and its reference. -/
inductive Caller where
  | request
  | action (source : Fin 126) (reference : Option (Fin 8 × Nat))
deriving DecidableEq, Repr

/-- What an operation gives: its result, its reply data and the blocks after it. -/
structure OpOut where
  result : Result
  data   : List Byte
  dev    : Device
deriving DecidableEq, Repr

/-- An operation reads its operands from a payload or an action record and can change the blocks alone. -/
abbrev Op := Caller → List Byte → State → OpOut

/-- A refused operation changes no state and gives no data. -/
def refuse (r : Result) (s : State) : OpOut := { result := r, data := [], dev := s.dev }

/-- An operation done, with result OK and no data. -/
def done (d : Device) : OpOut := { result := .ok, data := [], dev := d }

/-- A read: result OK and its data, no state changed. -/
def answer (items : List Item) (s : State) : OpOut := { result := .ok, data := pack items, dev := s.dev }

/-- Check 2 of R209: the payload is long enough for the layout. -/
def needs (n : Nat) (op : Op) : Op := fun c p s => if p.length < n then refuse .badField s else op c p s

/-- REL of an action becomes AT t + d from the context's reference, or is refused (R140, R209; log entry 15). -/
def resolveWhen (c : Caller) (w : When) : Except Result When :=
  match c, w with
  | .action _ reference, .rel d =>
    if 4294967295 < d then .error .outOfRange
    else match reference with
      | none => .error .badField
      | some (_, t) => if Config.laneTimeEnd ≤ t + d then .error .outOfRange else .ok (.at (t + d))
  | _, w => .ok w

/-- NEXT or AT; a REL is refused by the operation's own check. -/
def When.isRel : When → Bool
  | .rel _ => true
  | _ => false

/-! ## Requests (R189, R190) -/

/-- Whether the Agent may take a request (R189). -/
def Agent.ready (a : Agent) : Bool := a.replies.length < 8 && !a.resetWait

/-- The oldest request, and the Agent after taking it (R189). -/
def Agent.take (a : Agent) : Option (Request × Agent) :=
  match a.requests with
  | [] => none
  | r :: rest => if a.ready then some (r, { a with requests := rest, reqTaken := satInc a.reqTaken }) else none

/-- Builds a reply with the lost report and places it (R190). -/
def Agent.reply (a : Agent) (r : Request) (result : Result) (data : List Byte) : Agent :=
  { a with
    replies := a.replies ++ [{ tag := r.tag, kind := r.kind, result := result, data := data, lost := a.lost,
                               lostCount := if a.lost then a.lostCount else 0 }]
    lost := false
    lostCount := 0 }

/-- A request taken: its operation invoked and its reply placed. -/
def answerRequest (op : Op) (s : State) (r : Request) (a : Agent) : State :=
  let o := op .request r.payload { s with agent := a }
  { s with dev := o.dev, agent := a.reply r o.result o.data }

/-- The Agent takes the oldest request if it is of this kind (R189; log entry 1). -/
def requestStep (kind : Byte) (op : Op) (s : State) : State :=
  match s.agent.take with
  | none => s
  | some (r, a) => if r.kind = kind then answerRequest op s r a else s

/-! ## Actions (R133, R134) -/

/-- The top context when it is RUNNING, with the contexts beneath it. -/
def Cue.runningTop (c : Cue) : Option (Context × List Context) :=
  match c.stack with
  | [] => none
  | top :: rest => if top.state = .running then some (top, rest) else none

/-- The action at an index of a list (R136). -/
def Cue.actionAt (c : Cue) (list : Fin 256) (index : Nat) : ActionRecord :=
  c.actions.get (Fin.ofNat 2048 ((c.lists.get list).first + index))

/-- The blocks with the top context's action index raised by one (R133). -/
def Device.stepped (d : Device) (top : Context) (rest : List Context) : Device :=
  { d with cue := { d.cue with stack := { top with index := top.index + 1 } :: rest } }

/-- An action performed: a refused one is skipped and reported (R134). -/
def performAction (op : Op) (s : State) (top : Context) (rest : List Context) (operands : List Byte) : State :=
  let o := op (.action top.source top.reference) operands { s with dev := s.dev.stepped top rest }
  { s with dev := if o.result = .ok then o.dev else o.dev.cueFault top.list top.index o.result }

/-- The top context performs its next action if it is of this kind (R133; log entry 1). -/
def actionStep (kind : Byte) (op : Op) (s : State) : State :=
  match s.dev.cue.runningTop with
  | none => s
  | some (top, rest) =>
    let record := s.dev.cue.actionAt top.list top.index
    if top.index < (s.dev.cue.lists.get top.list).count ∧ record.kind = kind then
      performAction op s top rest record.operands
    else s

/-- An operation that is both a request and a cue action (R139, R191). -/
def viaStep (via : Via) (kind : Byte) (op : Op) (s : State) : State :=
  match via with
  | .request => requestStep kind op s
  | .action => actionStep kind op s

/-! ## Request and action kinds (10 section 10.3) -/

/-- The codes that name a request kind. -/
def requestKinds : List Byte :=
  [0x10, 0x11, 0x12, 0x13, 0x14, 0x15, 0x16,
   0x20, 0x21, 0x22, 0x23, 0x24, 0x25, 0x26, 0x27, 0x28, 0x29, 0x2A,
   0x30, 0x31, 0x32, 0x33, 0x34, 0x35, 0x36,
   0x40, 0x41, 0x42, 0x43, 0x44, 0x45,
   0x50, 0x51, 0x52, 0x53, 0x54, 0x55, 0x56, 0x57, 0x58, 0x59, 0x5A, 0x5B,
   0x60, 0x61, 0x62, 0x63, 0x64, 0x65, 0x66, 0x67, 0x68,
   0x70, 0x71, 0x72, 0x73, 0x74, 0x75, 0x76]

/-- The codes that name an action kind (R139). -/
def actionKinds : List Byte :=
  [0x00, 0x13, 0x14, 0x15, 0x11, 0x22, 0x23, 0x24, 0x25, 0x66, 0x67, 0x63, 0x59, 0x52, 0x53, 0x5F, 0x5E]

end Sys2Proof.Machine
end

