-- ==== Sys2Proof/Machine/StreamOps.lean ====
section
/-!
DEFINITION. The shared operations of the Stream Intake: the stream queue, buffers, flow states and the flow outbox,
readers, the head, and how a slot leaves its open states (03, 04).
-/
namespace Sys2Proof.Machine

/-! ## The stream queue (R65) -/

def QueueEntry.isData : QueueEntry → Bool
  | .data _ _ => true
  | .void _ _ => false

/-- held: the number of DATA entries, each holding one buffer (R59; log entry 6). -/
def Slot.held (x : Slot) : Nat := (x.queue.filter QueueEntry.isData).length

/-- A slot in FILLING, PRIMED, RUNNING or DRAINING is open (R60). -/
def Slot.isOpen (x : Slot) : Bool :=
  match x.state with
  | .filling | .primed | .running | .draining => true
  | .closed | .ended | .broken => false

/-- Adds a void run to the end of the queue; a VOID entry that ends the queue is extended (R65). -/
def addVoid (first : Seq) (count : Nat) : List QueueEntry → List QueueEntry
  | [] => [.void first count]
  | [.void f c] => [.void f (c + count)]
  | x :: xs => x :: addVoid first count xs

/-- What a position of the queue holds (R84). -/
inductive Position where
  | data (samples : List Sample)
  | void
  | absent
deriving DecidableEq, Repr

/-- The entry that covers a position, if one does (R84). -/
def lookAt (p : Seq) : List QueueEntry → Position
  | [] => .absent
  | .data q samples :: rest => if p = q then .data samples else lookAt p rest
  | .void f c :: rest => if (p - f).toNat < c then .void else lookAt p rest

/-- The queue with n positions from the old head h left behind (R86). -/
def dropBehind (h : Seq) (n : Nat) : List QueueEntry → List QueueEntry
  | [] => []
  | .data p samples :: rest =>
    if (p - h).toNat < n then dropBehind h n rest else .data p samples :: rest
  | .void f c :: rest =>
    let o := (f - h).toNat
    if o + c ≤ n then dropBehind h n rest
    else if o < n then .void (h + BitVec.ofNat 32 n) (c - (n - o)) :: rest
    else .void f c :: rest

/-! ## The Tag Table (R55) -/

/-- Whether an entry is valid, TO_SLOT, and names this slot. -/
def TagEntry.feeds (e : TagEntry) (s : Fin 16) : Bool := e.valid && e.toSlot && e.slot = s.val

/-- A slot's stream tag (R55). -/
def Intake.slotTag (k : Intake) (s : Fin 16) : Option (BitVec 16) :=
  (k.tags.toList.find? (·.feeds s)).map TagEntry.tag

/-! ## Flow (R93 to R97) -/

/-- Adds a flow cell to the outbox: a waiting entry of its subject takes the new state and tag in place (R97). -/
def placeFlow (e : FlowEntry) (box : List FlowEntry) : List FlowEntry :=
  if box.any (·.subject = e.subject) then box.map fun x => if x.subject = e.subject then e else x
  else box ++ [e]

def Intake.queueFlow (k : Intake) (e : FlowEntry) : Intake := { k with outbox := placeFlow e k.outbox }

/-- A stream flow cell of a slot, with its tag (R93; log entry 29 for a slot without one). -/
def Intake.queueSlotFlow (k : Intake) (s : Fin 16) (hold : Bool) : Intake :=
  k.queueFlow { subject := .slot s, tag := (k.slotTag s).getD 0, hold := hold }

/-- A pool flow cell (R95). -/
def Intake.queuePoolFlow (k : Intake) (hold : Bool) : Intake :=
  k.queueFlow { subject := .all, tag := 0, hold := hold }

/-- The stream flow test of an open slot (R93). -/
def Intake.slotFlowTest (k : Intake) (s : Fin 16) : Intake :=
  let x := k.slots.get s
  if x.isOpen ∧ x.hold = false ∧ x.config.high ≤ x.held then
    (k.setSlot s { x with hold := true }).queueSlotFlow s true
  else if x.isOpen ∧ x.hold = true ∧ x.held ≤ x.config.low then
    (k.setSlot s { x with hold := false }).queueSlotFlow s false
  else k

/-- The pool flow test (R95). -/
def Intake.poolFlowTest (k : Intake) : Intake :=
  if k.pool.hold = false ∧ k.pool.free < k.pool.reserve then
    ({ k with pool := { k.pool with hold := true } }).queuePoolFlow true
  else if k.pool.hold = true ∧ k.pool.reserve + k.pool.hysteresis ≤ k.pool.free then
    ({ k with pool := { k.pool with hold := false } }).queuePoolFlow false
  else k

/-- Returns buffers to the pool; a change of the free count is tested (R76, R95). -/
def Intake.freeBuffers (k : Intake) (n : Nat) : Intake :=
  if n = 0 then k else ({ k with pool := { k.pool with free := k.pool.free + n } }).poolFlowTest

/-! ## Leaving the open states -/

/-- A reader at or after F, with F present, has reached the end (R83). -/
def Slot.reachedEnd (x : Slot) (r : Reader) : Bool :=
  match x.final with
  | none => false
  | some f => atOrAfter r.cell f

/-- A slot's record as it leaves its open states: its queue is released, every reader leaves, which in a consumed slot sets
early leave where one has not reached the end (R83), and a HOLD becomes GO (R63, R70, R92, R94). -/
def Slot.shut (x : Slot) (state : SlotState) (cause : Option StreamCause) : Slot :=
  { x with
    state := state, endCause := cause, queue := [], readers := [], hold := false
    earlyLeave := x.earlyLeave || (x.consumed && x.readers.any fun r => !x.reachedEnd r) }

/-- A slot leaves its open states, a HOLD with a stream flow cell, and the pool flow test counts the buffers (R63, R70, R92,
R94). -/
def Intake.shut (k : Intake) (s : Fin 16) (state : SlotState) (cause : Option StreamCause) : Intake :=
  let x := k.slots.get s
  let k := k.setSlot s (x.shut state cause)
  let k := if x.hold then k.queueSlotFlow s false else k
  k.freeBuffers x.held

def Device.shutSlot (d : Device) (s : Fin 16) (state : SlotState) (cause : Option StreamCause) : Device :=
  { d with intake := d.intake.shut s state cause }

/-- The end of a stream: a consumed slot whose reader set is empty becomes ENDED (R92). -/
def Device.endTest (d : Device) (s : Fin 16) : Device :=
  let x := d.slot s
  if x.readers = [] ∧ x.consumed = true ∧ (x.state = .running ∨ x.state = .draining) then
    let cause := if x.state = .draining ∧ x.earlyLeave = false then StreamCause.done else .abandoned
    (d.shutSlot s .ended (some cause)).raise (srcStreamEnd s) (BitVec.ofNat 8 (streamCauseCode cause))
  else d

/-! ## The head (R86) -/

/-- The lowest cell position among the readers: the smallest distance from H. -/
def lowestCell (h : Seq) : List Reader → Option Seq
  | [] => none
  | r :: rest =>
    match lowestCell h rest with
    | none => some r.cell
    | some p => if (r.cell - h).toNat ≤ (p - h).toNat then some r.cell else some p

/-- The head moved to a new position; E is raised to a head that would follow it (R65, R86). This holds in DRAINING too,
where R73 and R91 keep E at F and a ZERO_FILL reader can have run past F (log entry 35). -/
def Slot.moveHead (x : Slot) (h : Seq) : Slot :=
  if precedes x.e h then { x with h := h, e := h, queue := [] }
  else { x with h := h, queue := dropBehind x.h (h - x.h).toNat x.queue }

/-- The slot with its head recomputed; with no reader the head does not move (R86). -/
def Slot.recompute (x : Slot) : Slot :=
  match lowestCell x.h x.readers with
  | none => x
  | some h => x.moveHead h

/-- After a hand-off or a release: the head, the freed buffers, the flow tests and the test for an end (R83, R85). The stream
cell of a hand-off or of one release is queued before its pool cell (R94; log entry 38). -/
def Device.settleSlot (d : Device) (s : Fin 16) : Device :=
  let x := d.slot s
  let y := x.recompute
  let k := d.intake.setSlot s y
  let k := if y.held = x.held then k else k.slotFlowTest s
  ({ d with intake := k.freeBuffers (x.held - y.held) }).endTest s

/-! ## Readers (R81 to R83) -/

/-- A reader leaves the set; leaving a consumed slot before the end sets early leave (R83). -/
def Slot.leave (x : Slot) (r : Reader) : Slot :=
  { x with
    readers := x.readers.filter (·.index ≠ r.index)
    earlyLeave := x.earlyLeave || (x.consumed && !x.reachedEnd r) }

/-- The reader of this index. -/
def Slot.reader (x : Slot) (index : Nat) : Option Reader := x.readers.find? (·.index = index)

/-- A release at the moment of its event; a reader already gone is not released again (R83, R99). -/
def Device.releaseReader (d : Device) (s : Fin 16) (index : Nat) : Device :=
  match (d.slot s).reader index with
  | none => d
  | some r => (d.setSlot s ((d.slot s).leave r)).settleSlot s

/-- Whether a claim is granted, by the slot's state and its reader set (R13). -/
def Slot.claimResult (x : Slot) : Result :=
  match x.state with
  | .filling | .primed => if x.readers.length < 8 then .ok else .full
  | .running | .draining => .streamRunning
  | .closed | .ended | .broken => .notReady

/-- The lowest free reader index (R81). -/
def Slot.freeIndex (x : Slot) : Nat :=
  ((List.range 8).find? fun i => x.readers.all (·.index ≠ i)).getD 8

/-- The slot with a new reader at (H, 0) (R82). -/
def Slot.claim (x : Slot) (l : Fin 8) (v : Fin 4) (pending : Bool) : Slot :=
  { x with readers := x.readers ++ [{ index := x.freeIndex, lane := l, voice := v, pending := pending, cell := x.h,
                                      offset := 0, lacking := false }] }

/-- The reader of an index with its holder changed between a pending start and a binding (R82). -/
def Slot.rehold (x : Slot) (index : Nat) (pending : Bool) : Slot :=
  { x with readers := x.readers.map fun r => if r.index = index then { r with pending := pending } else r }

/-- The slot's underrun level (R90; log entry 6). -/
def Slot.underrunLevel (x : Slot) : Bool := x.readers.any Reader.lacking

/-- The slot takes its first read (R75, R84). -/
def Slot.firstRead (x : Slot) : Slot :=
  { x with
    consumed := true
    state := match x.state with
      | .filling | .primed => .running
      | other => other }

end Sys2Proof.Machine
end

