-- ==== Sys2Proof/Machine/LaneOps.lean ====
section
/-!
DEFINITION. The shared operations of a lane and its voices: sample clocks (R33), markers that follow a lane (R155 to
R157), segment ends and cancelled starts from outside (R27 to R29), slots that break or are closed with force, the lane's meter
(R164 to R166), and stopping a lane with the contexts that wait on it (R45, R145).
-/
namespace Sys2Proof.Machine

/-! ## Sample clocks (R33) -/

/-- The divider of a rate code: the sample rate is the reference clock divided by it (R33). -/
def dividerOf (rate : Nat) : Nat :=
  match rate with
  | 0 => 4
  | 1 => 6
  | 2 => 8
  | 3 => 12
  | 4 => 16
  | 5 => 24
  | 6 => 32
  | _ => 48

/-- The time from one sample clock to the next at a rate code (R33). -/
def samplePeriod (rate : Nat) : Nat := dividerOf rate * Config.unitsPerCycle

/-- The moment at which the lane's port carries sample t of the block being computed: its first sample at the edge that the
lane took for the block, one sample per sample clock (R42, R156; log entry 26). -/
def Device.sampleClock (d : Device) (l : Fin 8) (t : Nat) : Nat :=
  (d.lane l).lastEdge + (t - (d.lane l).time) * samplePeriod (d.domain (d.lane l).domain).rate

/-! ## Markers that follow a lane -/

/-- The lane of a lane condition (R155). -/
def Condition.lane : Condition → Option (Fin 8)
  | .laneRunning l | .voiceStartPulse l | .segmentEdgePulse l => some l
  | .streamUnderrun _ | .triggerLevel _ | .cueLevelAtLeast _ | .linkUp | .soft => none

def Pulse.active : Pulse → Bool
  | .none => false
  | .running _ | .held _ => true

/-- The level of a marker's condition while no lane freeze governs it (R155, R156). -/
def Device.conditionLevel (d : Device) (linkUp : Bool) (m : Marker) : Bool :=
  match m.condition with
  | .laneRunning l => (d.lane l).state = .running || (d.lane l).state = .freezing || (d.lane l).state = .frozen
  | .voiceStartPulse _ | .segmentEdgePulse _ => m.pulse.active
  | .streamUnderrun s => (d.slot s).underrunLevel
  | .triggerLevel n => (d.triggers.get n).filtered
  | .cueLevelAtLeast k => k ≤ d.cue.engineLevel
  | .linkUp => linkUp
  | .soft => m.softLevel

/-- Whether the marker's lane condition is on a FROZEN lane (R157). -/
def Device.markerFrozen (d : Device) (m : Marker) : Bool :=
  match m.condition.lane with
  | none => false
  | some l => (d.lane l).state = .frozen

/-- A marker's logical state (R155, R157; log entry 6). -/
def Device.markerLogical (d : Device) (linkUp : Bool) (m : Marker) : Bool :=
  if d.markerFrozen m then
    match m.frozenLevel with
    | .forceActive => true
    | .forceInactive => false
    | .holdLast => m.frozenHold.getD false
  else d.conditionLevel linkUp m

/-- A marker as its lane becomes FROZEN (R157). -/
def Marker.freeze (m : Marker) (now : Nat) (level : Bool) : Marker :=
  match m.frozenLevel with
  | .holdLast =>
    { m with frozenHold := some level
             pulse := match m.pulse with
               | .running endsAt => .held (endsAt - now)
               | other => other }
  | .forceActive | .forceInactive => { m with pulse := .none }

/-- The markers of a lane take their frozen level; the lane condition's level is that of the moment (R157). -/
def Device.freezeMarkers (d : Device) (l : Fin 8) : Device :=
  { d with markers := d.markers.map fun m =>
      if m.condition.lane = some l then m.freeze d.now (d.conditionLevel false m) else m }

/-- A lane becomes FROZEN; its port carries zero (R47, R48, R49, R52). -/
def Device.freezeLane (d : Device) (l : Fin 8) : Device :=
  (d.freezeMarkers l).updLane l fun x => { x with state := .frozen, carried := [] }

/-- A lane leaves FROZEN: its markers drop frozen hold and any pulse (R157). -/
def Device.thawMarkers (d : Device) (l : Fin 8) : Device :=
  { d with markers := d.markers.map fun m =>
      if m.condition.lane = some l then { m with frozenHold := none, pulse := .none } else m }

/-- A lane is stopped: pulses not yet begun are removed (R156), and a FROZEN lane is left (R157). -/
def Device.stopMarkers (d : Device) (l : Fin 8) : Device :=
  let d := { d with markers := d.markers.map fun m =>
      if m.condition.lane = some l then { m with startsDue := [] } else m }
  if (d.lane l).state = .frozen then d.thawMarkers l else d

/-! ## Ends of segments and cancelled starts (R27, R28) -/

/-- The state of a voice that ends: PENDING if a pending start remains (R27). -/
def Voice.endState (x : Voice) : VoiceState := if x.pending.isSome then .pending else .idle

/-- A voice whose segment has ended; its other fields are kept (R27; log entry 24). -/
def Voice.ended (x : Voice) (cause : EndCause) : Voice :=
  { x with state := x.endState, current := none, hot := none, stopFade := none, binding := none,
           lastCause := some cause, due := .none }

/-- Whether the end of the voice's segment raises VOICE_END: the end event of its hot copy (R27). -/
def Voice.endEvent (x : Voice) : Bool :=
  match x.hot with
  | none => false
  | some h => h.endEvent

/-- VOICE_END with a cause (R27). -/
def voiceEndEvent (l : Fin 8) (v : Fin 4) (cause : EndCause) : Fin 126 × Byte :=
  (srcVoiceEnd l v, BitVec.ofNat 8 (endCauseCode cause))

/-- The voice's binding is released (R27). -/
def Device.releaseBinding (d : Device) (l : Fin 8) (v : Fin 4) : Device :=
  match (d.voice l v).binding with
  | some (.stream s r) => d.releaseReader s r
  | some (.clip _) => d
  | none => d

/-- The voice's current segment ends from outside (R27, R29). A voice about to chain has no current segment: it ends
without a cause of its own (log entry 8). -/
def Device.endSegment (d : Device) (l : Fin 8) (v : Fin 4) (cause : EndCause) : Device :=
  let x := d.voice l v
  if x.current.isSome then
    let d := (d.releaseBinding l v).updVoice l v (·.ended cause)
    if x.endEvent then d.raiseAll [voiceEndEvent l v cause] else d
  else if x.state = .playing then d.setVoice l v { x with state := x.endState, due := .none }
  else d

/-- A claim of a pending start is released (R28). -/
def Device.releaseClaim (d : Device) (p : PendingStart) : Device :=
  match p.claim with
  | none => d
  | some (s, r) => d.releaseReader s r

/-- A voice whose pending start is cancelled (R28). -/
def Voice.cancelled (x : Voice) (cause : EndCause) : Voice :=
  { x with pending := none, lastCause := some cause, state := if x.state = .pending then .idle else x.state }

/-- The entry of a voice's start leaves the schedule. -/
def Device.unschedule (d : Device) (l : Fin 8) (v : Fin 4) : Device :=
  d.updLane l fun x => { x with schedule := x.schedule.filter fun e => !e.startsVoice v }

/-- The voice's pending start is cancelled (R28). -/
def Device.cancelStart (d : Device) (l : Fin 8) (v : Fin 4) (cause : EndCause) : Device :=
  match (d.voice l v).pending with
  | none => d
  | some p =>
    (((d.unschedule l v).releaseClaim p).updVoice l v (·.cancelled cause)).raiseAll [voiceEndEvent l v cause]

/-! ## Breaks and forced closes (R29, R63, R70) -/

/-- Whether the voice's segment is bound to a reader of the slot. -/
def Voice.reads (x : Voice) (s : Fin 16) : Bool :=
  match x.binding with
  | some (.stream t _) => t = s
  | _ => false

/-- Whether the voice's pending start holds a reader of the slot. -/
def Voice.claims (x : Voice) (s : Fin 16) : Bool :=
  match x.pending with
  | some p => match p.claim with
    | some (t, _) => t = s
    | none => false
  | none => false

/-- Every voice reading the slot ends its segment, and every start holding a reader of it is cancelled, voice by
voice (R29; log entry 21). -/
def Device.endSlotVoices (d : Device) (s : Fin 16) (cause : EndCause) : Device :=
  allVoices.foldl (fun d (l, v) =>
    let d := if (d.voice l v).reads s then d.endSegment l v cause else d
    if (d.voice l v).claims s then d.cancelStart l v cause else d) d

/-- A slot breaks (R70). -/
def Device.breakSlot (d : Device) (s : Fin 16) : Device :=
  let d := (d.shutSlot s .broken (some .broken)).endSlotVoices s .broken
  d.raise (srcStreamEnd s) (BitVec.ofNat 8 (streamCauseCode .broken))

/-! ## The lane's meter (R164 to R166) -/

/-- The samples of a window (R161). -/
def windowSize (code : Nat) : Nat := 256 * 4 ^ code

/-- METER_HIGH or METER_LOW, by the new result and the one before it, judged against the thresholds now (R166). -/
def meterEvents (l : Fin 8) (x : Meter) (level : Int) : List (Fin 126 × Byte) :=
  let above (r : Int) : Bool := x.high < r
  let below (r : Int) : Bool := r < x.low
  let before (f : Int → Bool) : Bool := match x.result with
    | none => false
    | some (r, _) => f r
  if above level ∧ before above = false then [(srcMeterHigh l, 0)]
  else if below level ∧ before below = false then [(srcMeterLow l, 0)]
  else []

/-- A meter with its window in progress discarded. -/
def Meter.discard (x : Meter) : Meter := { x with acc := Val.zero, counted := 0 }

/-- A meter made IDLE, its window discarded, its result kept (R163). -/
def Meter.stop (x : Meter) : Meter := { x.discard with state := .idle }

/-- The end of a window (R165). -/
def Device.windowEnd (d : Device) (l : Fin 8) (x : Meter) : Device :=
  match x.state with
  | .idle => d.setMeter l x
  | .settling => d.setMeter l { x.discard with state := .measuring }
  | .measuring =>
    let level := levelOf x.acc (windowSize x.window)
    let y := { x.discard with result := some (level, (d.lane l).time), fresh := true,
                              state := if x.continuous then .measuring else .idle }
    (d.setMeter l y).raiseAll (meterEvents l x level)

/-- A block of 64 samples handed to the meter, as the powers of its samples; zero samples may be left out (R164). -/
def Device.meterBlock (d : Device) (l : Fin 8) (powers : List Val) : Device :=
  let x := d.meter l
  if x.state = .idle then d
  else
    let y := { x with acc := powers.foldl addVal x.acc, counted := x.counted + 64 }
    if windowSize y.window ≤ y.counted then d.windowEnd l y else d.setMeter l y

/-! ## Contexts that wait on a lane (R144, R145) -/

/-- Whether a context waits on the lane. -/
def Context.waitsOn (c : Context) (l : Fin 8) : Bool :=
  match c.state with
  | .running => false
  | .waiting m _ => m = l

/-- The lowest context of the stack that waits on the lane, and the stack without it. -/
def lowestWaiting (l : Fin 8) : List Context → Option (Context × List Context)
  | [] => none
  | c :: cs =>
    match lowestWaiting l cs with
    | some (x, rest) => some (x, c :: rest)
    | none => if c.waitsOn l then some (c, cs) else none

/-- A context aborted: removed, reported with the index of its WAIT, and selection made (R145). -/
def Device.abortContext (d : Device) (c : Context) (rest : List Context) : Device :=
  (({ d with cue := { d.cue with stack := rest } }).cueFault c.list (c.index - 1) .laneStopped).select

/-- Aborts the contexts that wait on a lane, lowest first (R145; log entry 21). -/
def Device.abortWaiting : Nat → Device → Fin 8 → Device
  | 0, d, _ => d
  | fuel + 1, d, l =>
    match lowestWaiting l d.cue.stack with
    | none => d
    | some (c, rest) => Device.abortWaiting fuel (d.abortContext c rest) l

/-- A context woken by a lane time later than its target (R144). -/
def Context.wake (c : Context) (l : Fin 8) (time : Nat) : Context :=
  match c.state with
  | .running => c
  | .waiting m target => if m = l ∧ target < time then { c with state := .running } else c

/-- The lane hands the Cue Engine its new lane time (R144). -/
def Device.wakeContexts (d : Device) (l : Fin 8) (time : Nat) : Device :=
  { d with cue := { d.cue with stack := d.cue.stack.map (·.wake l time) } }

/-! ## Stopping a lane (R45) -/

/-- A stopped lane's record (R45): what a stop and a playback clear both set. -/
def Lane.stopped (x : Lane) : Lane :=
  { x with state := .stopped, schedule := [], startDue := false, time := 0, carried := [],
           ampNow := gainAmplitude x.masterGain, ampTarget := gainAmplitude x.masterGain, rampLeft := 0,
           rampDue := false }

/-- The voices of the lane end STOPPED and its pending starts are cancelled STOPPED (R45). Each release of a reader makes its
tests before the next one (R83), so a pool GO of one release may stand before a stream GO of a later one, although R94 has one
event queue its stream cell first: this is the model's choice (log entry 38). -/
def Device.stopVoices (d : Device) (l : Fin 8) : Device :=
  (List.finRange 4).foldl (fun d v => (d.endSegment l v .stopped).cancelStart l v .stopped) d

/-- LANE_STOP in a state other than STOPPED (R45). -/
def Device.stopLane (d : Device) (l : Fin 8) : Device :=
  let d := ((d.stopVoices l).stopMarkers l).updLane l Lane.stopped
  let d := if (d.meter l).state = .idle then d else d.setMeter l (d.meter l).stop
  Device.abortWaiting d.cue.stack.length d l

end Sys2Proof.Machine
end

