-- ==== Sys2Proof/Machine/CueEngine.lean ====
section
/-!
DEFINITION. The Cue Engine's operations, and the steps of a context: NOP, WAIT, NOTICE, RAISE and the pop (06).
-/
namespace Sys2Proof.Machine

/-! ## The Event Map (R124 to R126) -/

/-- The cue list operand of a map entry: absent, a list, or out of range. -/
def listInRange (list : Option Nat) : Bool :=
  match list with
  | none => true
  | some n => n < 256

/-- The entry a MAP_WRITE carries (R211). -/
def mapEntryAt (p : List Byte) (once : Bool) : MapEntry :=
  { level := u8 p 1, list := (optU16 p 5).bind (fin? 256), notice := bitAt p 3 0, once := once, armed := bitAt p 3 1 }

/-- The checks of R124; a mode byte that is no mode is refused first (R209; log entry 14). -/
def opMapWrite : Op := needs 9 fun _ p s =>
  match boolEnumAt p 2, fin? 126 (u8 p 0) with
  | none, _ => refuse .badField s
  | some _, none => refuse .outOfRange s
  | some once, some k =>
    if 7 < u8 p 1 then refuse .outOfRange s
    else if listInRange (optU16 p 5) = false then refuse .outOfRange s
    else done { s.dev with cue := { s.dev.cue with map := put s.dev.cue.map k (mapEntryAt p once) } }

def execMapWrite (s : State) : Out := .next (requestStep 0x50 opMapWrite s)

/-- An operation on one event source, OUT_OF_RANGE for a source above 125. -/
def onSource (f : State → Fin 126 → OpOut) : Op := needs 1 fun _ p s =>
  match fin? 126 (u8 p 0) with
  | none => refuse .outOfRange s
  | some k => f s k

def pendingBytes (x : PendingEntry) : List Byte := b8 x.level ++ b16 x.list.val ++ b32 x.merge ++ [x.detail]

def opMapRead : Op := onSource fun s k =>
  let pending := s.dev.cue.pending.get k
  answer [.one (mapEntryBytes (s.dev.cue.map.get k) ++ bFlag pending.isSome ++ (match pending with
    | none => []
    | some x => pendingBytes x))] s

def execMapRead (s : State) : Out := .next (requestStep 0x51 opMapRead s)

/-- The armed flag of an entry written (R126). -/
def Device.armSource (d : Device) (k : Fin 126) (armed : Bool) : Device :=
  { d with cue := { d.cue with map := change d.cue.map k fun e => { e with armed := armed } } }

def opMapArm : Op := onSource fun s k => done (s.dev.armSource k true)

def execMapArm (via : Via) (s : State) : Out := .next (viaStep via 0x52 opMapArm s)

def opMapDisarm : Op := onSource fun s k => done (s.dev.armSource k false)

def execMapDisarm (via : Via) (s : State) : Out := .next (viaStep via 0x53 opMapDisarm s)

/-! ## The threshold, cue lists and the Action Store (R132, R136 to R138) -/

def opCueThreshold : Op := needs 1 fun _ p s =>
  if 7 < u8 p 0 then refuse .outOfRange s
  else done ({ s.dev with cue := { s.dev.cue with threshold := u8 p 0 } }).select

def execCueThreshold (s : State) : Out := .next (requestStep 0x54 opCueThreshold s)

/-- A list is held while a context names it (R136). -/
def Cue.held (c : Cue) (list : Fin 256) : Bool := c.stack.any (·.list = list)

def opListWrite : Op := needs 6 fun _ p s =>
  match fin? 256 (u16 p 0) with
  | none => refuse .outOfRange s
  | some n =>
    if 2047 < u16 p 2 ∨ 64 < u16 p 4 then refuse .outOfRange s
    else if 2048 < u16 p 2 + u16 p 4 then refuse .outOfRange s
    else if s.dev.cue.held n then refuse .inUse s
    else done { s.dev with cue := { s.dev.cue with
      lists := put s.dev.cue.lists n { first := u16 p 2, count := u16 p 4 } } }

def execListWrite (s : State) : Out := .next (requestStep 0x55 opListWrite s)

def opListRead : Op := needs 2 fun _ p s =>
  match fin? 256 (u16 p 0) with
  | none => refuse .outOfRange s
  | some n =>
    let x := s.dev.cue.lists.get n
    answer [.one (b16 x.first ++ b16 x.count ++ bFlag (s.dev.cue.held n))] s

def execListRead (s : State) : Out := .next (requestStep 0x56 opListRead s)

/-- The action records from byte 4 of a CUE_WRITE payload (R209, R211). -/
def recordsAt (p : List Byte) : List ActionRecord :=
  (List.range ((p.length - 4) / 16)).map fun i =>
    { kind := p.getD (4 + 16 * i) 0, operands := (p.drop (5 + 16 * i)).take 15 }

/-- A slot lies within the slots of a held list (R137). -/
def Cue.slotHeld (c : Cue) (slot : Nat) : Bool :=
  c.stack.any fun x => (c.lists.get x.list).first ≤ slot && slot < (c.lists.get x.list).first + (c.lists.get x.list).count

/-- Records written into consecutive slots. -/
def writeRecords (a : Vector ActionRecord 2048) (first : Nat) : List ActionRecord → Vector ActionRecord 2048
  | [] => a
  | x :: xs => writeRecords (put a (Fin.ofNat 2048 first) x) (first + 1) xs

def opCueWrite : Op := fun _ p s =>
  let records := recordsAt p
  if p.length < 20 ∨ (p.length - 4) % 16 ≠ 0 ∨ 15 < records.length then refuse .badField s
  else if 2048 < u16 p 0 + records.length then refuse .outOfRange s
  else if records.any (fun x => !actionKinds.contains x.kind) then refuse .badKind s
  else if (List.range records.length).any (fun i => s.dev.cue.slotHeld (u16 p 0 + i)) then refuse .inUse s
  else done { s.dev with cue := { s.dev.cue with actions := writeRecords s.dev.cue.actions (u16 p 0) records } }

def execCueWrite (s : State) : Out := .next (requestStep 0x57 opCueWrite s)

def opCueRead : Op := needs 6 fun _ p s =>
  if 2047 < u16 p 0 ∨ 2048 < u16 p 0 + u32 p 2 then refuse .outOfRange s
  else answer [.many ((List.range (u32 p 2)).map fun i =>
    actionBytes (s.dev.cue.actions.get (Fin.ofNat 2048 (u16 p 0 + i))))] s

def execCueRead (s : State) : Out := .next (requestStep 0x58 opCueRead s)

/-! ## CUE_RAISE, CUE_ABORT, CUE_STATUS (R142, R146, R147) -/

def opCueRaise : Op := needs 2 fun _ p s =>
  match fin? 4 (u8 p 0) with
  | none => refuse .outOfRange s
  | some n => done (s.dev.raise (srcSoft n) (p.getD 1 0))

def execCueRaise (via : Via) (s : State) : Out := .next (viaStep via 0x59 opCueRaise s)

/-- Every context of a level or above removed, and selection made (R146). -/
def Device.abortLevel (d : Device) (level : Nat) : Device :=
  ({ d with cue := { d.cue with stack := d.cue.stack.filter fun c => c.level < level } }).select

def opCueAbort : Op := needs 1 fun _ p s =>
  if u8 p 0 < 1 ∨ 7 < u8 p 0 then refuse .outOfRange s else done (s.dev.abortLevel (u8 p 0))

def execCueAbort (s : State) : Out := .next (requestStep 0x5A opCueAbort s)

def contextBytes (c : Context) : List Byte :=
  b8 c.source.val ++ b8 c.level ++ b16 c.list.val ++ [c.detail] ++ b32 c.merge ++ b16 c.index ++ (match c.state with
    | .running => b8 0 ++ bOpt8 none ++ bOptTime none
    | .waiting l t => b8 1 ++ b8 l.val ++ bOptTime (some t))
    ++ bOpt8 (c.reference.map fun r => r.1.val) ++ bOptTime (c.reference.map Prod.snd)

/-- The pending sources in order of number, each with its pending entry (R147). -/
def Cue.pendingItems (c : Cue) : List (List Byte) :=
  (List.finRange 126).filterMap fun k => (c.pending.get k).map fun x => b8 k.val ++ pendingBytes x

def opCueStatus : Op := fun _ _ s =>
  let c := s.dev.cue
  answer [.one (b8 c.engineLevel ++ b8 c.threshold), .many (c.stack.reverse.map contextBytes), .many c.pendingItems] s

def execCueStatus (s : State) : Out := .next (requestStep 0x5B opCueStatus s)

/-! ## Steps of a context (R133, R135, R139, R141, R143) -/

def opNop : Op := fun _ _ s => done s.dev

def execNop (s : State) : Out := .next (actionStep 0x00 opNop s)

/-- WAIT by lane state: the top context waits on the target, or is aborted on a STOPPED lane (R143). -/
def waitOn (s : State) (l : Fin 8) (n : Nat) : OpOut :=
  match s.dev.cue.stack with
  | [] => refuse .badField s
  | top :: rest =>
    let target := (s.dev.lane l).time + n
    if (s.dev.lane l).state = .stopped then done (s.dev.abortContext top rest)
    else if Config.laneTimeEnd ≤ target then refuse .outOfRange s
    else done { s.dev with cue := { s.dev.cue with
      stack := { top with state := .waiting l target, reference := some (l, target) } :: rest } }

def opWait : Op := needs 5 fun _ p s =>
  match fin? 8 (u8 p 0) with
  | none => refuse .outOfRange s
  | some l => waitOn s l (u32 p 1)

def execWait (s : State) : Out := .next (actionStep 0x5E opWait s)

/-- NOTICE: a USER notice with the code as its source and the context's event source as its detail (R141). -/
def opNotice : Op := needs 1 fun c p s =>
  match c with
  | .request => refuse .badKind s
  | .action source _ => done (s.dev.handNotice .user (u8 p 0) 0 (BitVec.ofNat 8 source.val))

def execNotice (s : State) : Out := .next (actionStep 0x5F opNotice s)

/-- The top context popped once its index has reached its list's count, and selection made (R135). -/
def Device.popContext (d : Device) : Device :=
  match d.cue.runningTop with
  | none => d
  | some (top, rest) =>
    if (d.cue.lists.get top.list).count ≤ top.index then ({ d with cue := { d.cue with stack := rest } }).select else d

def execContextPop (s : State) : Out := .next { s with dev := s.dev.popContext }

end Sys2Proof.Machine
end

