-- ==== Sys2Proof/Machine/Block.lean ====
section
/-!
DEFINITION. One block of a lane: what its voices do at each sample (R15 to R27, R84, R87, R88, R91), the mix (R43) and
the hand-offs that complete a boundary (R42, R85).
-/
namespace Sys2Proof.Machine

/-! ## The block in progress -/

/-- A reader as its voice moves it inside the block; the slot takes it at the hand-off (R85). `touched` says that it
read or stalled. -/
structure Cursor where
  slot    : Fin 16
  index   : Nat
  cell    : Seq
  offset  : Nat
  lacking : Bool
  read    : Bool
  touched : Bool
deriving DecidableEq, Repr

/-- A block in progress. `events` are its VOICE_END events in sample order; `out` its output samples; `powers` the
powers of the voice the meter measures. -/
structure Block where
  dev       : Device
  cursors   : Vector (Option Cursor) 4
  reports   : List Cursor
  released  : List (Fin 16 × Nat)
  events    : List (Fin 126 × Byte)
  out       : List Sample
  saturated : Bool
  powers    : List Val
deriving DecidableEq, Repr

/-- The cursor of a voice bound to a reader. -/
def Device.cursorOf (d : Device) (x : Voice) : Option Cursor :=
  match x.binding with
  | some (.stream s index) =>
    ((d.slot s).reader index).map fun r =>
      { slot := s, index := index, cell := r.cell, offset := r.offset, lacking := r.lacking, read := false,
        touched := false }
  | _ => none

def Block.start (d : Device) (l : Fin 8) : Block :=
  { dev := d, cursors := (d.lane l).voices.map d.cursorOf, reports := [], released := [], events := [], out := [],
    saturated := false, powers := [] }

/-! ## Pulses caused in the block (R156) -/

/-- A sample clock, as a moment, entered in pulse starts due. -/
def insertDue (t : Nat) : List Nat → List Nat
  | [] => [t]
  | x :: xs => if t < x then t :: x :: xs else if t = x then x :: xs else x :: insertDue t xs

/-- A cause whose sample the port carries at moment t, for the markers of a pulse condition. -/
def Device.causePulse (d : Device) (c : Condition) (t : Nat) : Device :=
  { d with markers := d.markers.map fun m =>
      if m.condition = c then { m with startsDue := insertDue t m.startsDue } else m }

/-! ## Segments ending and beginning inside a block -/

/-- The voice's segment ends at this sample: its reader is released with the hand-off, its VOICE_END raised with the
block's (R27, R83, R85). -/
def Block.endSegment (k : Block) (l : Fin 8) (v : Fin 4) (cause : EndCause) : Block :=
  let x := k.dev.voice l v
  let k := match k.cursors.get v with
    | none => k
    | some c => { k with cursors := put k.cursors v none
                         reports := if c.touched then k.reports ++ [c] else k.reports
                         released := k.released ++ [(c.slot, c.index)] }
  { k with dev := k.dev.updVoice l v (·.ended cause)
           events := if x.endEvent then k.events ++ [voiceEndEvent l v cause] else k.events }

/-- A segment that cannot be played ends at its first sample; the table's end event decides its VOICE_END (R22, R27). -/
def Block.failSegment (k : Block) (l : Fin 8) (v : Fin 4) (g : Fin 1024) (cause : EndCause) : Block :=
  { k with dev := k.dev.updVoice l v (·.ended cause)
           events := if (k.dev.segment g).hot.endEvent then k.events ++ [voiceEndEvent l v cause] else k.events }

/-- The voice's values at the first sample of a segment (R15). -/
def Voice.begins (x : Voice) (g : Fin 1024) (seg : Segment) (binding : Option Binding) : Voice :=
  { x with
    state := .playing
    current := some g
    hot := some seg.hot
    repeats := if seg.fixed.repeats = 0 then .endless else .left seg.fixed.repeats
    position := 0
    ampNow := gainAmplitude seg.hot.gain
    ampTarget := gainAmplitude seg.hot.gain
    rampLeft := 0
    gainOverride := false
    stopFade := none
    phase := if seg.hot.phaseContinue then x.phase else 0
    step := seg.hot.shift
    binding := binding
    firstRepeat := true
    due := .none }

def Block.play (k : Block) (l : Fin 8) (v : Fin 4) (g : Fin 1024) (binding : Option Binding) : Block :=
  let d := k.dev.updVoice l v (·.begins g (k.dev.segment g) binding)
  { k with dev := d, cursors := put k.cursors v (d.cursorOf (d.voice l v)) }

/-- A reader passes to the binding of its voice's segment (R82). -/
def Device.bindReader (d : Device) (s : Fin 16) (index : Nat) : Device := d.setSlot s ((d.slot s).rehold index false)

/-- The voice begins a segment, by a start with its reader claim, and binds its source (R17). It is a segment edge
(R155; log entry 18). -/
def Block.begin (k : Block) (l : Fin 8) (v : Fin 4) (t : Nat) (g : Fin 1024) (claim : Option (Fin 16 × Nat)) : Block :=
  let k := { k with dev := k.dev.causePulse (.segmentEdgePulse l) (k.dev.sampleClock l t) }
  let f := (k.dev.segment g).fixed
  match f.kind with
  | .none => k.failSegment l v g .sourceFault
  | .silence => k.play l v g none
  | .clip => if k.dev.clipBinds f then k.play l v g (some (.clip f.clip)) else k.failSegment l v g .sourceFault
  | .stream =>
    match claim with
    | none => k.failSegment l v g .noReader
    | some (s, index) => ({ k with dev := k.dev.bindReader s index }).play l v g (some (.stream s index))

/-- The voice chains to a segment; a reader is claimed at the chain sample (R21, R22). -/
def Block.chain (k : Block) (l : Fin 8) (v : Fin 4) (t : Nat) (g : Fin 1024) : Block :=
  let f := (k.dev.segment g).fixed
  if f.kind = .stream ∧ (k.dev.slot f.slot).claimResult = .ok then
    let x := k.dev.slot f.slot
    ({ k with dev := k.dev.setSlot f.slot (x.claim l v false) }).begin l v t g (some (f.slot, x.freeIndex))
  else k.begin l v t g none

/-- The cause of an end by finishing: STOPPED for a voice in FADING (R24, R91). -/
def Voice.finishCause (x : Voice) : EndCause := if x.state = .fading then .stopped else .complete

/-- The segment a finished voice chains to: next of its hot copy, unless FADING (R21). -/
def Voice.chainsTo (x : Voice) : Option (Fin 1024) :=
  if x.state = .fading then none
  else match x.hot with
    | none => none
    | some h => h.next

/-- The voice's segment is finished at this sample: it ends, and chains at the same sample (R21). -/
def Block.finish (k : Block) (l : Fin 8) (v : Fin 4) (t : Nat) : Block :=
  let x := k.dev.voice l v
  let k := k.endSegment l v x.finishCause
  match x.chainsTo with
  | none => k
  | some g => k.chain l v t g

/-- What is due at the voice's next sample (log entry 8). -/
def Block.takeDue (k : Block) (l : Fin 8) (v : Fin 4) (t : Nat) : Block :=
  match (k.dev.voice l v).due with
  | .none => k
  | .ended => k.finish l v t
  | .chain g => ({ k with dev := k.dev.updVoice l v fun x => { x with due := .none } }).chain l v t g

/-! ## Entries applied at their sample (R15, R16, R24 to R26, R47) -/

/-- A start applied: fresh or a splice (R15, R16). -/
def Block.applyStart (k : Block) (l : Fin 8) (v : Fin 4) (t : Nat) (g : Fin 1024) (claim : Option (Fin 16 × Nat)) :
    Block :=
  let d := (k.dev.causePulse (.voiceStartPulse l) (k.dev.sampleClock l t)).updVoice l v fun x => { x with pending := none }
  let k := { k with dev := d }
  let k := if (d.voice l v).current.isSome then k.endSegment l v .replaced else k
  k.begin l v t g claim

/-- The ramp length of the voice's segment. -/
def Device.rampOf (d : Device) (x : Voice) : Nat :=
  match x.current with
  | none => 0
  | some g => (d.segment g).fixed.ramp

/-- A stop applied (R24, R25). -/
def Block.applyStop (k : Block) (l : Fin 8) (v : Fin 4) (mode : Mode) : Block :=
  let x := k.dev.voice l v
  match x.state, mode with
  | .playing, .soft =>
    if k.dev.rampOf x = 0 then k.endSegment l v .stopped
    else { k with dev := k.dev.setVoice l v { x with state := .fading, stopFade := some (k.dev.rampOf x) } }
  | .fading, .soft => k
  | .stalled, _ | .playing, .hard | .fading, .hard => k.endSegment l v .stopped
  | .idle, _ | .pending, _ => k

/-- A new gain ramp from the present amplitude; a ramp of 0 samples is a step (R18). -/
def Voice.rampTo (x : Voice) (target : Val) (ramp : Nat) : Voice :=
  { x with ampTarget := target, rampLeft := ramp, ampNow := if ramp = 0 then target else x.ampNow }

/-- A gain applied (R26). -/
def Block.applyGain (k : Block) (l : Fin 8) (v : Fin 4) (gain : Int) (ramp : Nat) : Block :=
  let x := k.dev.voice l v
  match x.state with
  | .playing | .stalled | .fading =>
    { k with dev := k.dev.setVoice l v { x.rampTo (gainAmplitude gain) ramp with gainOverride := true } }
  | .idle | .pending => k

/-- A soft freeze applied to the lane (R47). -/
def Lane.softFreeze (x : Lane) : Lane :=
  if x.state = .running then
    { x with state := .freezing, ampTarget := Val.zero, rampLeft := x.freezeRamp,
             ampNow := if x.freezeRamp = 0 then Val.zero else x.ampNow }
  else x

/-- A taken entry applied at sample t (R41). A hard freeze is never taken here. -/
def Block.apply (k : Block) (l : Fin 8) (t : Nat) (e : Entry) : Block :=
  match e.kind with
  | .voiceStart v g claim => k.applyStart l v t g claim
  | .voiceStop v mode => k.applyStop l v mode
  | .voiceGain v gain ramp => k.applyGain l v gain ramp
  | .laneFreeze .soft => { k with dev := k.dev.updLane l Lane.softFreeze }
  | .laneFreeze .hard => k

/-! ## One sample of a voice (R18 to R20) -/

/-- The effective ramp (R20). -/
def effectiveRamp (f : Fixed) : Nat :=
  match f.length with
  | .samples n => min f.ramp (n / 2)
  | .untilEnd => f.ramp

/-- Whether the present repeat is faded out (R20). -/
def Voice.fadesOut (x : Voice) (f : Fixed) : Bool := f.fadeEach || x.repeats = .left 1

/-- The edge fade factor as a fraction (R20). -/
def Voice.edgeFade (x : Voice) (f : Fixed) : Nat × Nat :=
  let e := effectiveRamp f
  if x.position < e ∧ (f.fadeEach = true ∨ x.firstRepeat = true) then (x.position, e)
  else match f.length with
    | .untilEnd => (1, 1)
    | .samples n =>
      if 0 < e ∧ n ≤ x.position + e ∧ x.fadesOut f then (n - 1 - x.position, e) else (1, 1)

/-- The stop fade factor: remaining over the segment's ramp length in FADING, else 1 (R24). -/
def Voice.stopFactor (x : Voice) (f : Fixed) : Nat × Nat :=
  match x.stopFade with
  | none => (1, 1)
  | some left => (left, max f.ramp 1)

/-- The amplitude of the present sample: envelope, edge fade and stop fade (R18). -/
def Voice.amplitude (x : Voice) (f : Fixed) : Val :=
  scaleVal (x.stopFactor f).1 (x.stopFactor f).2 (scaleVal (x.edgeFade f).1 (x.edgeFade f).2 x.ampNow)

/-- Position and repeats after a sample (R19). A finished final repeat is due to end at the next sample. -/
def Voice.advance (x : Voice) (f : Fixed) : Voice :=
  match f.length with
  | .untilEnd => { x with position := x.position + 1 }
  | .samples n =>
    if x.position + 1 < n then { x with position := x.position + 1 }
    else match x.repeats with
      | .endless => { x with position := 0, firstRepeat := false }
      | .left r =>
        if 1 < r then { x with position := 0, repeats := .left (r - 1), firstRepeat := false }
        else { x with due := .ended }

/-- The stop fade after a sample; at 0 the segment is due to end (R24). -/
def Voice.fade (x : Voice) : Voice :=
  match x.stopFade with
  | none => x
  | some left => { x with stopFade := some (left - 1), due := if left ≤ 1 then .ended else x.due }

/-- The voice stepped after a sample (R18). -/
def Voice.stepSample (x : Voice) (f : Fixed) : Voice :=
  let (now, left) := rampStep x.ampNow x.ampTarget x.rampLeft
  ({ x with phase := x.phase + x.step, ampNow := now, rampLeft := left }.advance f).fade

/-- One contribution: I, Q and power. -/
structure Contribution where
  i     : Val
  q     : Val
  power : Val
deriving DecidableEq, Repr

def Contribution.zero : Contribution := { i := Val.zero, q := Val.zero, power := Val.zero }

/-- A source sample scaled and rotated (R18). Rotation keeps the power, so the power is exact without it. -/
def contribution (amp : Val) (x : Sample) (phase : BitVec 32) : Contribution :=
  let (i, q) := rotate amp x phase
  { i := i, q := q, power := scaleVal (x.i * x.i + x.q * x.q) 1 (mulVal amp amp) }

/-- A source sample played: the contribution, and the voice stepped. -/
def Block.emit (k : Block) (l : Fin 8) (v : Fin 4) (f : Fixed) (x : Sample) : Block × Contribution :=
  let y := k.dev.voice l v
  ({ k with dev := k.dev.setVoice l v (y.stepSample f) }, contribution (y.amplitude f) x y.phase)

/-! ## Stream reading (R84, R87, R88, R91) -/

/-- The reader after a read (R84). -/
def Cursor.advance (c : Cursor) (lacking : Bool) : Cursor :=
  { c with
    cell := if c.offset < 63 then c.cell else c.cell + 1
    offset := if c.offset < 63 then c.offset + 1 else 0
    lacking := lacking, read := true, touched := true }

/-- Whether a position is at or after the final sequence of a DRAINING slot (R91). -/
def Slot.atEnd (x : Slot) (cell : Seq) : Bool :=
  x.state = .draining && match x.final with
    | none => false
    | some f => atOrAfter cell f

/-- Whether a read's advance came to (F, 0) of a DRAINING slot (R91). -/
def Slot.cameToEnd (x : Slot) (c : Cursor) : Bool :=
  x.state = .draining && x.final = some c.cell && c.offset = 0

/-- A read that came to the end of the stream: the segment ends with its advance, and a chain begins at the following
sample (R91; log entry 8). -/
def Block.streamFinished (k : Block) (l : Fin 8) (v : Fin 4) : Block :=
  let x := k.dev.voice l v
  let k := k.endSegment l v x.finishCause
  match x.chainsTo with
  | none => k
  | some g => { k with dev := k.dev.updVoice l v fun y => { y with state := .playing, due := .chain g } }

/-- A sample read or passed by the reader (R84, R87). -/
def Block.readSample (k : Block) (l : Fin 8) (v : Fin 4) (f : Fixed) (c : Cursor) (x : Sample) (lacking : Bool) :
    Block × Contribution :=
  let c := c.advance lacking
  let (k, y) := ({ k with cursors := put k.cursors v (some c) }).emit l v f x
  (if (k.dev.slot c.slot).cameToEnd c then k.streamFinished l v else k, y)

/-- A read of an absent position under STALL: PLAYING stalls, FADING ends STOPPED (R88). -/
def Block.stall (k : Block) (l : Fin 8) (v : Fin 4) (c : Cursor) : Block :=
  let x := k.dev.voice l v
  if x.state = .fading then k.endSegment l v .stopped
  else { k with cursors := put k.cursors v (some { c with lacking := true, touched := true })
                dev := k.dev.setVoice l v { x with state := .stalled } }

/-- One stream sample of a voice (R84). -/
def Block.readStream (k : Block) (l : Fin 8) (v : Fin 4) (f : Fixed) (c : Cursor) : Block × Contribution :=
  let slot := k.dev.slot c.slot
  match lookAt c.cell slot.queue with
  | .data samples => k.readSample l v f c (samples.getD c.offset { i := 0, q := 0 }) false
  | .void => k.readSample l v f c { i := 0, q := 0 } false
  | .absent =>
    match slot.config.policy with
    | .zeroFill => k.readSample l v f c { i := 0, q := 0 } true
    | .stall => (k.stall l v c, Contribution.zero)

/-! ## One sample of the lane -/

/-- Whether the voice advances at this sample (R10). -/
def Voice.advances (x : Voice) : Bool := x.state = .playing || x.state = .fading

/-- One sample of a voice. A reader already at or after F ends its segment at this sample without reading, and a chain
plays from this sample (R91). -/
def Block.voiceSample : Nat → Block → Fin 8 → Fin 4 → Nat → Block × Contribution
  | 0, k, _, _, _ => (k, Contribution.zero)
  | fuel + 1, k, l, v, t =>
    let x := k.dev.voice l v
    match x.current with
    | none => (k, Contribution.zero)
    | some g =>
      if x.advances then
        let f := (k.dev.segment g).fixed
        match k.cursors.get v with
        | some c =>
          if (k.dev.slot c.slot).atEnd c.cell then Block.voiceSample fuel (k.finish l v t) l v t
          else k.readStream l v f c
        | none =>
          match x.binding with
          | some (.clip id) =>
            k.emit l v f (clipSample k.dev.coldResets k.dev.clips.memory (k.dev.clip id).extents (f.startOffset + x.position))
          | _ => k.emit l v f { i := 0, q := 0 }
      else (k, Contribution.zero)

/-- A component rounded and saturated, and whether it was saturated (R43). -/
def saturate (n : Int) : Int × Bool :=
  if 32767 < n then (32767, true) else if n < -32768 then (-32768, true) else (n, false)

/-- The lane's output sample from the sum of its contributions (R43). -/
def Lane.output (x : Lane) (i q : Val) : Sample × Bool :=
  let scale (s : Val) : Int × Bool := saturate (roundVal (mulVal (mulVal s x.ampNow) (gainAmplitude x.trim)))
  ({ i := (scale i).1, q := (scale q).1 }, (scale i).2 || (scale q).2)

/-- The master amplitude after a sample (R31). -/
def Lane.stepMaster (x : Lane) : Lane :=
  let (now, left) := rampStep x.ampNow x.ampTarget x.rampLeft
  { x with ampNow := now, rampLeft := left }

/-- Whether the meter measures this voice. -/
def MeterSource.isVoice (m : MeterSource) (v : Fin 4) : Bool :=
  match m with
  | .voice w => w = v
  | _ => false

/-- The four voices' sample added up (R43). -/
def Block.sumVoices (k : Block) (l : Fin 8) (t : Nat) : Block × Val × Val :=
  (List.finRange 4).foldl (fun (k, i, q) v =>
    let (k, c) := Block.voiceSample 3 k l v t
    let k := if (k.dev.meter l).source.isVoice v then { k with powers := k.powers ++ [c.power] } else k
    (k, addVal i c.i, addVal q c.q)) (k, Val.zero, Val.zero)

/-- Entries of this sample: those stamped at it, or before it at the block's first sample (R41). -/
def entriesAt (entries : List Entry) (b t : Nat) : List Entry :=
  entries.filter fun e => e.stamp = t || (t = b && e.stamp < b)

/-- One sample of the lane: what is due, the entries of the sample, the voices, the mix (log entry 9). -/
def Block.sample (l : Fin 8) (b : Nat) (entries : List Entry) (k : Block) (n : Nat) : Block :=
  let t := b + n
  let k := (List.finRange 4).foldl (fun k v => k.takeDue l v t) k
  let k := (entriesAt entries b t).foldl (fun k e => k.apply l t e) k
  let (k, i, q) := k.sumVoices l t
  let (x, sat) := (k.dev.lane l).output i q
  { k with dev := k.dev.updLane l Lane.stepMaster, out := k.out ++ [x], saturated := k.saturated || sat }

/-! ## Before the first sample -/

/-- A voice takes changed hot fields of its segment (R7). -/
def Voice.takeHot (x : Voice) (seg : Segment) : Voice :=
  match x.hot with
  | none => x
  | some old =>
    let y := if old.gain = seg.hot.gain ∨ x.gainOverride = true then x
      else x.rampTo (gainAmplitude seg.hot.gain) seg.fixed.ramp
    { y with hot := some seg.hot, step := if old.shift = seg.hot.shift then y.step else seg.hot.shift }

/-- The hot fields of the current segments of the lane's voices (R7). -/
def Device.takeHot (d : Device) (l : Fin 8) : Device :=
  d.updLane l fun x => { x with voices := x.voices.map fun y =>
    match y.current with
    | none => y
    | some g => y.takeHot (d.segment g) }

/-- A STALLED voice at a boundary (R88): it plays on, is due to end, or stays STALLED and reports lacking. One that stays
STALLED counts as stalled in the block and reports even where a stop or a splice ends its segment at the block's first
sample: the spec is silent there, and this is the model's choice (R85; log entry 36). -/
def Block.retry (k : Block) (l : Fin 8) (v : Fin 4) : Block :=
  let x := k.dev.voice l v
  if x.state = .stalled then
    match k.cursors.get v with
    | none => k
    | some c =>
      let slot := k.dev.slot c.slot
      if slot.atEnd c.cell then { k with dev := k.dev.setVoice l v { x with due := .ended } }
      else if lookAt c.cell slot.queue = .absent then
        { k with cursors := put k.cursors v (some { c with lacking := true, touched := true }) }
      else { k with dev := k.dev.setVoice l v { x with state := .playing } }
  else k

/-- At the block's first sample a master ramp that was due begins (R36, R50), and one of 0 samples steps (log entry 25). -/
def Lane.settleMaster (x : Lane) : Lane :=
  { x with rampDue := false, ampNow := if x.rampLeft = 0 then x.ampTarget else x.ampNow }

/-- The lane computes the block that begins at its lane time, with the entries taken (R41). -/
def Device.computeBlock (d : Device) (l : Fin 8) (entries : List Entry) : Block :=
  let b := (d.lane l).time
  let d := (d.takeHot l).updLane l Lane.settleMaster
  let k := (List.finRange 4).foldl (fun k v => k.retry l v) (Block.start d l)
  (List.range 64).foldl (Block.sample l b entries) k

/-! ## Hand-offs (R42, R85) -/

/-- The reports of a block: readers released inside it, in the order of their release, then readers still bound, voice 0 to
voice 3 (R85; this order, which is that of a hand-off's STREAM_UNDERRUN events, is log entry 16). -/
def Block.allReports (k : Block) : List Cursor :=
  k.reports ++ k.cursors.toList.filterMap fun c =>
    match c with
    | none => none
    | some c => if c.touched then some c else none

/-- One reported reader takes its position and lacking state (R85, R90). -/
def Device.takeReport (d : Device) (s : Fin 16) (c : Cursor) : Device :=
  let x := d.slot s
  match x.reader c.index with
  | none => d
  | some r =>
    let readers := x.readers.map fun y =>
      if y.index = c.index then { y with cell := c.cell, offset := c.offset, lacking := c.lacking } else y
    let counters := if c.lacking then { x.counters with underrun := satInc x.counters.underrun } else x.counters
    let d := d.setSlot s { x with readers := readers, counters := counters }
    if c.lacking && !r.lacking then d.raise (srcStreamUnderrun s) (BitVec.ofNat 8 (4 * r.lane.val + r.voice.val)) else d

/-- A reader released with the hand-off (R83, R85). -/
def Slot.leaveIndex (x : Slot) (index : Nat) : Slot :=
  match x.reader index with
  | none => x
  | some r => x.leave r

/-- A slot takes a lane's hand-off (R85). -/
def Device.handOff (d : Device) (s : Fin 16) (reports : List Cursor) (released : List Nat) : Device :=
  if reports = [] ∧ released = [] then d
  else
    let x := d.slot s
    let first := x.consumed = false ∧ reports.any (fun c => c.read && (x.reader c.index).isSome) = true
    let d := if first then d.setSlot s x.firstRead else d
    let d := reports.foldl (fun d c => d.takeReport s c) d
    let d := d.setSlot s (released.foldl Slot.leaveIndex (d.slot s))
    d.settleSlot s

/-- The hand-offs of a block to every slot, S0 to S15 (log entry 16). -/
def Block.handOffReaders (k : Block) (d : Device) : Device :=
  (List.finRange 16).foldl (fun d s =>
    d.handOff s (k.allReports.filter fun c => c.slot = s)
      ((k.released.filter fun r => r.1 = s).map Prod.snd)) d

/-- The lane's compare value tested after the block that began at b (R53). -/
def Device.compareTest (d : Device) (l : Fin 8) (b : Nat) : Device :=
  match (d.lane l).compare with
  | none => d
  | some c =>
    if c ≤ b + 63 then (d.updLane l fun x => { x with compare := none }).raise (srcLaneCompare l) 0 else d

/-- The power of an output sample. -/
def samplePower (x : Sample) : Val := scaleVal (x.i * x.i + x.q * x.q) 1 Val.one

/-- The powers handed to the meter by its source (R164). -/
def Block.meterPowers (k : Block) (source : MeterSource) : List Val :=
  match source with
  | .laneSum => k.out.map samplePower
  | .voice _ => k.powers
  | .off => []

/-- OVERRANGE of a block with a saturated component (R44). -/
def Device.overrange (d : Device) (l : Fin 8) (saturated : Bool) : Device :=
  if saturated then (d.updLane l fun x => { x with overrange := satInc x.overrange }).raise (srcOverrange l) 0 else d

/-- The boundary completed after the block that began at b (R42; log entry 16). After the block at 2^48 - 64 the lane
is stopped in place of advancing its time (R32); a meter result of that block is stored with lane time 2^48 - 64 (log
entry 16). -/
def Block.complete (k : Block) (l : Fin 8) (b : Nat) : Device :=
  let last : Bool := Config.laneTimeEnd ≤ b + 64
  let d := k.dev.updLane l fun x =>
    { x with carried := if x.quiet then [] else k.out, time := if last then x.time else b + 64 }
  let d := (k.handOffReaders d).compareTest l b
  let d := d.meterBlock l (k.meterPowers (d.meter l).source)
  let d := if last then d else d.wakeContexts l (b + 64)
  let d := (d.raiseAll k.events).overrange l k.saturated
  if last then d.stopLane l else d

/-! ## The boundary (R41) -/

/-- A hard freeze entry due at a lane time. -/
def Entry.hardFreezeBy (e : Entry) (b : Nat) : Bool := e.kind = .laneFreeze .hard && e.stamp ≤ b

/-- The schedule without the first entry that is a due hard freeze; `none` where there is none. -/
def dropHardFreeze (b : Nat) : List Entry → Option (List Entry)
  | [] => none
  | e :: es => if e.hardFreezeBy b then some es else (dropHardFreeze b es).map (e :: ·)

/-- Whether the boundary takes an entry: stamped before the block's end and no later hard freeze (R41). -/
def Entry.takenBy (e : Entry) (b : Nat) : Bool := e.stamp < b + 64 && e.kind ≠ .laneFreeze .hard

/-- A voice that holds quiet on (R41, R51). -/
def Voice.sounds (x : Voice) : Bool := x.state = .playing || x.state = .stalled || x.state = .fading

/-- Quiet released at a boundary (R41, R51). -/
def Lane.releaseQuiet (x : Lane) : Lane :=
  if x.quietPendingOff ∧ x.voices.toList.all (fun v => !v.sounds) then { x with quiet := false, quietPendingOff := false }
  else x

/-- A block boundary that computes a block (R41, R42). -/
def Device.runBlock (d : Device) (l : Fin 8) : Device :=
  let x := d.lane l
  let entries := x.schedule.takeWhile (·.takenBy x.time)
  let d := d.setLane l { x with schedule := x.schedule.dropWhile (·.takenBy x.time) }
  (d.computeBlock l entries).complete l x.time

/-- A block boundary of a RUNNING or FREEZING lane (R41). Quiet is released whether or not the lane freezes there. A finished
freeze ramp is acted on first, and a hard freeze due at the same boundary then stays in the schedule: R41 and R48 leave that
open, and it is the model's choice (log entry 39). -/
def Device.boundary (d : Device) (l : Fin 8) : Device :=
  let d := d.updLane l Lane.releaseQuiet
  let x := d.lane l
  if x.state = .freezing ∧ x.rampLeft = 0 then d.freezeLane l
  else
    match dropHardFreeze x.time x.schedule with
    | some rest =>
      let frozen : Lane := { x with schedule := rest, ampNow := Val.zero, ampTarget := Val.zero, rampLeft := 0,
                                    rampDue := false }
      (d.setLane l frozen).freezeLane l
    | none => d.runBlock l

end Sys2Proof.Machine
end

