-- ==== Sys2Proof/Machine/Voices.lean ====
section
/-!
DEFINITION. The Scene Program's operations: SEG_WRITE, SEG_HOT, SEG_READ, VOICE_START, VOICE_STOP, VOICE_GAIN and
VOICE_STATUS (01).
-/
namespace Sys2Proof.Machine

/-- A gain in range, in tenths of a dB (00 section 6.4). -/
def gainInRange (g : Int) : Bool := -900 ≤ g && g ≤ 60

/-- A next field in range: absent or 0 to 1023. -/
def nextInRange (next : Option Nat) : Bool :=
  match next with
  | none => true
  | some n => n < 1024

/-! ## SEG_WRITE (R4, R5) -/

/-- The length of a segment record; with UNTIL_END the length bytes are not read (R211). -/
def RawSegment.segLength (raw : RawSegment) : SegLength := if raw.untilEnd then .untilEnd else .samples raw.length

/-- The record as SEG_WRITE stores it: fields that do not apply to the kind are stored as 0 (R2, R4). -/
def RawSegment.stored (raw : RawSegment) (kind : SourceKind) : Segment :=
  { fixed := { kind := kind
               sourceId := if kind = .stream ∨ kind = .clip then raw.sourceId else 0
               startOffset := if kind = .clip then raw.startOffset else 0
               length := raw.segLength, repeats := raw.repeats, ramp := raw.ramp, fadeEach := raw.fadeEach }
    hot := { gain := raw.gain, shift := raw.shift, phaseContinue := raw.phaseContinue,
             next := raw.next.bind (fin? 1024), endEvent := raw.endEvent } }

/-- Checks 3 to 10 of R4 on a record of a known kind; `none` where all pass. -/
def Device.segWriteCheck (d : Device) (g : Fin 1024) (raw : RawSegment) (kind : SourceKind) : Option Result :=
  let new := raw.stored kind
  if kind = .stream ∧ 16 ≤ raw.sourceId then some .outOfRange
  else if raw.segLength = .samples 0 then some .badField
  else if raw.untilEnd = true ∧ kind ≠ .stream then some .badField
  else if kind = .stream ∧ raw.repeats ≠ 1 then some .badField
  else if gainInRange raw.gain = false then some .outOfRange
  else if nextInRange raw.next = false then some .outOfRange
  else if kind = .clip ∧ (d.clip new.fixed.clip).state = .ready ∧
      new.fixed.fits (d.clip new.fixed.clip).length = false then some .outOfRange
  else if new.fixed ≠ (d.segment g).fixed ∧ d.liveCount g ≠ 0 then some .inUse
  else none

def opSegWrite : Op := needs 26 fun _ p s =>
  let raw := rawSegmentAt p 2
  match fin? 1024 (u16 p 0) with
  | none => refuse .outOfRange s
  | some g =>
    match sourceKindOf raw.kind with
    | none => refuse .badField s
    | some kind =>
      match s.dev.segWriteCheck g raw kind with
      | some r => refuse r s
      | none => done { s.dev with segments := put s.dev.segments g (raw.stored kind) }

def execSegWrite (s : State) : Out := .next (requestStep 0x10 opSegWrite s)

/-! ## SEG_HOT (R6, R211) -/

/-- The operands of SEG_HOT: a value for each selected field. -/
structure HotWrite where
  gain          : Option Int
  shift         : Option (BitVec 32)
  phaseContinue : Option Bool
  next          : Option (Option Nat)
  endEvent      : Option Bool
deriving DecidableEq, Repr

def hotWriteAt (p : List Byte) : HotWrite :=
  { gain := if bitAt p 2 0 then some (s16 p 4) else none
    shift := if bitAt p 2 1 then some (BitVec.ofNat 32 (u32 p 6)) else none
    phaseContinue := if bitAt p 2 2 then some (bitAt p 3 2) else none
    next := if bitAt p 2 3 then some (optU16 p 10) else none
    endEvent := if bitAt p 2 4 then some (bitAt p 3 3) else none }

/-- The selected values are in range (R6). -/
def HotWrite.inRange (w : HotWrite) : Bool :=
  (match w.gain with
   | none => true
   | some g => gainInRange g) &&
  (match w.next with
   | none => true
   | some n => nextInRange n)

/-- The hot fields with the selected ones stored (R6). -/
def HotWrite.apply (w : HotWrite) (h : Hot) : Hot :=
  { gain := w.gain.getD h.gain, shift := w.shift.getD h.shift, phaseContinue := w.phaseContinue.getD h.phaseContinue,
    next := match w.next with
      | none => h.next
      | some n => n.bind (fin? 1024)
    endEvent := w.endEvent.getD h.endEvent }

def opSegHot : Op := needs 12 fun _ p s =>
  let w := hotWriteAt p
  match fin? 1024 (u16 p 0) with
  | none => refuse .outOfRange s
  | some g =>
    if w.inRange = false then refuse .outOfRange s
    else done { s.dev with segments := change s.dev.segments g fun x => { x with hot := w.apply x.hot } }

def execSegHot (via : Via) (s : State) : Out := .next (viaStep via 0x11 opSegHot s)

/-! ## SEG_READ (R8, R211) -/

def opSegRead : Op := needs 2 fun _ p s =>
  match fin? 1024 (u16 p 0) with
  | none => refuse .outOfRange s
  | some g => answer [.one (b16 g.val ++ segmentBytes (s.dev.segment g) ++ b16 (s.dev.liveCount g))] s

def execSegRead (s : State) : Out := .next (requestStep 0x12 opSegRead s)

/-! ## VOICE_START (R11 to R14) -/

/-- The reader that passes from the pending start a new start replaces, when both name one slot (R13). -/
def Voice.passedClaim (x : Voice) (f : Fixed) : Option (Fin 16 × Nat) :=
  match x.pending with
  | none => none
  | some p => match p.claim with
    | none => none
    | some (s, r) => if f.kind = .stream ∧ s = f.slot then some (s, r) else none

/-- Checks 3 to 7 of R11; `none` where all pass. -/
def Device.startCheck (d : Device) (l : Fin 8) (v : Fin 4) (g : Fin 1024) : Option Result :=
  let f := (d.segment g).fixed
  let x := d.voice l v
  if (d.lane l).state = .stopped then some .laneStopped
  else if f.kind = .none then some .badField
  else if f.kind = .clip ∧ (d.clip f.clip).state ≠ .ready then some .notReady
  else if x.pending = none ∧ (d.lane l).full = true then some .full
  else if f.kind = .stream ∧ x.passedClaim f = none ∧ (d.slot f.slot).claimResult ≠ .ok then
    some (d.slot f.slot).claimResult
  else none

/-- Effects 1 to 4 of R14: a pending start is replaced by a start on a segment. -/
def Device.replaceStart (d : Device) (l : Fin 8) (v : Fin 4) (f : Fixed) : Device :=
  let x := d.voice l v
  match x.pending with
  | none => d
  | some p =>
    let d := d.unschedule l v
    let d := if (x.passedClaim f).isSome then d else d.releaseClaim p
    (d.updVoice l v fun x => { x with pending := none, lastCause := some .replaced }).raiseAll
      [voiceEndEvent l v .replaced]

/-- The reader of a new start: one that passes to it, or a new claim (R13, R82). -/
def Device.claimFor (d : Device) (l : Fin 8) (v : Fin 4) (f : Fixed) (passed : Option (Fin 16 × Nat)) :
    Device × Option (Fin 16 × Nat) :=
  match passed with
  | some c => (d, some c)
  | none =>
    if f.kind = .stream then
      (d.setSlot f.slot ((d.slot f.slot).claim l v true), some (f.slot, (d.slot f.slot).freeIndex))
    else (d, none)

/-- A start accepted: it replaces a pending one, claims its reader, is stamped and placed (R12 to R14). -/
def Device.acceptStart (d : Device) (l : Fin 8) (v : Fin 4) (g : Fin 1024) (w : When) : Device :=
  let f := (d.segment g).fixed
  let passed := (d.voice l v).passedClaim f
  let (d, claim) := (d.replaceStart l v f).claimFor l v f passed
  let stamp := stampOf (d.lane l).time w
  (d.schedule l { stamp := stamp, kind := .voiceStart v g claim }).updVoice l v fun x =>
    { x with pending := some { segment := g, stamp := stamp, claim := claim },
             state := if x.state = .idle then .pending else x.state }

def opVoiceStart : Op := needs 11 fun c p s =>
  match whenAt p 4 with
  | none => refuse .badField s
  | some w =>
    match resolveWhen c w with
    | .error r => refuse r s
    | .ok w =>
      match fin? 8 (u8 p 0), fin? 4 (u8 p 1), fin? 1024 (u16 p 2) with
      | some l, some v, some g =>
        if w.isRel then refuse .badField s
        else match s.dev.startCheck l v g with
          | some r => refuse r s
          | none => done (s.dev.acceptStart l v g w)
      | _, _, _ => refuse .outOfRange s

def execVoiceStart (via : Via) (s : State) : Out := .next (viaStep via 0x13 opVoiceStart s)

/-! ## VOICE_STOP and VOICE_GAIN (R23, R26) -/

/-- Checks of the lane for an entry that acts on a voice: not STOPPED, and room in the schedule (R23, R26). -/
def Device.entryCheck (d : Device) (l : Fin 8) : Option Result :=
  if (d.lane l).state = .stopped then some .laneStopped
  else if (d.lane l).full = true then some .full
  else none

/-- An accepted entry, stamped and placed (R12, R23). -/
def Device.place (d : Device) (l : Fin 8) (w : When) (kind : EntryKind) : Device :=
  d.schedule l { stamp := stampOf (d.lane l).time w, kind := kind }

/-- The end of VOICE_STOP and VOICE_GAIN: the checks on when and on the lane, and the entry placed. -/
def placeEntry (s : State) (l : Fin 8) (w : When) (kind : EntryKind) : OpOut :=
  if w.isRel then refuse .badField s
  else match s.dev.entryCheck l with
    | some r => refuse r s
    | none => done (s.dev.place l w kind)

def opVoiceStop : Op := needs 10 fun c p s =>
  match modeAt p 2, whenAt p 3 with
  | some mode, some w =>
    match resolveWhen c w with
    | .error r => refuse r s
    | .ok w =>
      match fin? 8 (u8 p 0), fin? 4 (u8 p 1) with
      | some l, some v => placeEntry s l w (.voiceStop v mode)
      | _, _ => refuse .outOfRange s
  | _, _ => refuse .badField s

def execVoiceStop (via : Via) (s : State) : Out := .next (viaStep via 0x14 opVoiceStop s)

def opVoiceGain : Op := needs 13 fun c p s =>
  match whenAt p 6 with
  | none => refuse .badField s
  | some w =>
    match resolveWhen c w with
    | .error r => refuse r s
    | .ok w =>
      match fin? 8 (u8 p 0), fin? 4 (u8 p 1) with
      | some l, some v =>
        if gainInRange (s16 p 2) then placeEntry s l w (.voiceGain v (s16 p 2) (u16 p 4))
        else refuse .outOfRange s
      | _, _ => refuse .outOfRange s

def execVoiceGain (via : Via) (s : State) : Out := .next (viaStep via 0x15 opVoiceGain s)

/-! ## VOICE_STATUS (R30; widths by log entry 12) -/

/-- A hot copy, field by field; an absent one has every field absent. -/
def hotBytes : Option Hot → List Byte
  | some h => b16s h.gain ++ bWord h.shift ++ bFlag h.phaseContinue ++ bOpt16 (h.next.map Fin.val) ++ bFlag h.endEvent
  | none => bOpt16 none ++ bOpt32 none ++ bOpt8 none ++ bOpt16 none ++ bOpt8 none

/-- Repeat remaining in one byte; ENDLESS is 0, as R211 codes it in the segment record (log entry 12). -/
def repeatsByte : Repeats → List Byte
  | .left n => b8 n
  | .endless => b8 0

def bindingBytes : Option Binding → List Byte
  | none => bWord (Config.bindingCode 0 0 0)
  | some (.stream s r) => bWord (Config.bindingCode 1 s.val r)
  | some (.clip c) => bWord (Config.bindingCode 2 c.val 0)

/-- A reader claim: its slot and its reader index, each absent where there is no claim (R9; log entry 12). -/
def claimBytes (c : Option (Fin 16 × Nat)) : List Byte := bOpt8 (c.map fun x => x.1.val) ++ bOpt8 (c.map Prod.snd)

/-- The record of R9, field by field. -/
def voiceBytes (x : Voice) : List Byte :=
  b8 (voiceStateCode x.state) ++ bOpt16 (x.current.map Fin.val) ++ hotBytes x.hot ++ repeatsByte x.repeats
    ++ b32 x.position ++ bAmp x.ampNow ++ bAmp x.ampTarget ++ b16 x.rampLeft ++ bFlag x.gainOverride
    ++ bOpt16 x.stopFade ++ bWord x.phase ++ bWord x.step ++ bindingBytes x.binding
    ++ bOpt16 (x.pending.map fun p => p.segment.val) ++ bOptTime (x.pending.map PendingStart.stamp)
    ++ claimBytes (x.pending.bind PendingStart.claim)
    ++ bOpt8 (x.lastCause.map endCauseCode)

def opVoiceStatus : Op := needs 2 fun _ p s =>
  match fin? 8 (u8 p 0), fin? 4 (u8 p 1) with
  | some l, some v => answer [.one (voiceBytes (s.dev.voice l v) ++ b48 (s.dev.lane l).time)] s
  | _, _ => refuse .outOfRange s

def execVoiceStatus (s : State) : Out := .next (requestStep 0x16 opVoiceStatus s)

end Sys2Proof.Machine
end

