-- ==== Sys2Proof/Machine/Lanes.lean ====
section
/-!
DEFINITION. The lane and clock domain operations, and the events of a lane and of a domain (02).
-/
namespace Sys2Proof.Machine

/-- A command that changes the blocks alone. -/
def State.withDev (s : State) (d : Device) : State := { s with dev := d }

/-! ## LANE_CONFIG (R36) -/

/-- A new master gain acts by lane state (R36): in RUNNING its ramp is to begin at the lane's next block. A stored gain
written again begins no ramp (log entry 31). -/
def Lane.newGain (x : Lane) (gain : Int) : Lane :=
  match x.state with
  | .stopped | .armed => { x with masterGain := gain, ampNow := gainAmplitude gain, ampTarget := gainAmplitude gain }
  | .running =>
    if gain = x.masterGain then x
    else { x with masterGain := gain, ampTarget := gainAmplitude gain, rampLeft := x.freezeRamp, rampDue := true }
  | .freezing | .frozen => { x with masterGain := gain }

/-- The settings stored: a ramp that has not begun takes the new freeze ramp, a ramp in progress keeps its length (R36; log
entry 37). -/
def Lane.configure (x : Lane) (domain : DomainId) (ramp : Nat) (gain : Int) (meterInFreeze : Bool) : Lane :=
  ({ x with domain := domain, freezeRamp := ramp, meterInFreeze := meterInFreeze,
            rampLeft := if x.rampDue then ramp else x.rampLeft }).newGain gain

/-- The checks of R36; a domain byte that is no domain is refused first (R209; log entry 14). -/
def opLaneConfig : Op := needs 7 fun _ p s =>
  match domainAt p 1, fin? 8 (u8 p 0) with
  | none, _ => refuse .badField s
  | some _, none => refuse .outOfRange s
  | some i, some l =>
    if gainInRange (s16 p 4) = false then refuse .outOfRange s
    else if (s.dev.lane l).domain ≠ i ∧ (s.dev.lane l).state ≠ .stopped then refuse .busy s
    else done (s.dev.updLane l fun x => x.configure i (u16 p 2) (s16 p 4) (flagAt p 6))

def execLaneConfig (s : State) : Out := .next (requestStep 0x20 opLaneConfig s)

/-! ## LANE_ARM, LANE_START, LANE_STOP (R37, R38, R45) -/

/-- A start mode: IMMEDIATE, or TRIGGER with an argument that may be out of range. -/
def startModeAt (p : List Byte) (i : Nat) : Option (Option (Option (Fin 4))) :=
  match u8 p i with
  | 0 => some none
  | 1 => some (some (fin? 4 (u8 p (i + 1))))
  | _ => none

/-- An armed lane (R37). -/
def Lane.arm (x : Lane) (mode : StartMode) : Lane :=
  { x with state := .armed, startMode := mode, startDue := false,
           ampNow := gainAmplitude x.masterGain, ampTarget := gainAmplitude x.masterGain, rampLeft := 0,
           rampDue := false }

/-- Checks 3 and 4 of R37, and the arming. -/
def armLane (s : State) (l : Fin 8) (mode : StartMode) : OpOut :=
  if (s.dev.lane l).state ≠ .stopped then refuse .busy s
  else if (s.dev.domain (s.dev.lane l).domain).state ≠ .ready then refuse .notReady s
  else done (s.dev.updLane l (·.arm mode))

def opLaneArm : Op := needs 3 fun _ p s =>
  match startModeAt p 1, fin? 8 (u8 p 0) with
  | none, _ => refuse .badField s
  | some _, none => refuse .outOfRange s
  | some none, some l => armLane s l .immediate
  | some (some none), some _ => refuse .outOfRange s
  | some (some (some n)), some l => armLane s l (.trigger n)

def execLaneArm (s : State) : Out := .next (requestStep 0x21 opLaneArm s)

/-- An operation on one lane, OUT_OF_RANGE for a lane above 7. -/
def onLane (f : State → Fin 8 → OpOut) : Op := needs 1 fun _ p s =>
  match fin? 8 (u8 p 0) with
  | none => refuse .outOfRange s
  | some l => f s l

/-- LANE_START by lane state (R38). -/
def startLane (s : State) (l : Fin 8) : OpOut :=
  let x := s.dev.lane l
  if x.state = .stopped then refuse .laneStopped s
  else if x.state = .armed ∧ x.startMode = .immediate then done (s.dev.updLane l fun x => { x with startDue := true })
  else done s.dev

def opLaneStart : Op := onLane startLane

def execLaneStart (via : Via) (s : State) : Out := .next (viaStep via 0x22 opLaneStart s)

def opLaneStop : Op := onLane fun s l =>
  if (s.dev.lane l).state = .stopped then done s.dev else done (s.dev.stopLane l)

def execLaneStop (via : Via) (s : State) : Out := .next (viaStep via 0x23 opLaneStop s)

/-! ## LANE_FREEZE and LANE_RESUME (R46, R50) -/

/-- Checks 3 to 5 of R46, and the entry. R145 says that an aborted lane's later actions are each refused LANE_STOPPED; the
operations whose own rule gives another result in STOPPED (BUSY here; R45, R50 and R163 give OK) follow their own rule
(log entry 33). -/
def freezeEntry (s : State) (l : Fin 8) (mode : Mode) (w : When) : OpOut :=
  let x := s.dev.lane l
  if x.state = .stopped ∨ x.state = .armed then refuse .busy s
  else if x.state = .frozen then done s.dev
  else if x.full = true then refuse .full s
  else done (s.dev.place l w (.laneFreeze mode))

def opLaneFreeze : Op := needs 9 fun c p s =>
  match modeAt p 1, whenAt p 2 with
  | some mode, some w =>
    match resolveWhen c w with
    | .error r => refuse r s
    | .ok w =>
      match fin? 8 (u8 p 0) with
      | none => refuse .outOfRange s
      | some l => if w.isRel then refuse .badField s else freezeEntry s l mode w
  | _, _ => refuse .badField s

def execLaneFreeze (via : Via) (s : State) : Out := .next (viaStep via 0x24 opLaneFreeze s)

/-- A lane back in RUNNING, its master amplitude to ramp to the master gain from its next block (R50). -/
def Lane.resume (x : Lane) (from_ : Val) : Lane :=
  { x with state := .running, ampNow := from_, ampTarget := gainAmplitude x.masterGain, rampLeft := x.freezeRamp,
           rampDue := true }

/-- LANE_RESUME by lane state (R50). -/
def Device.resumeLane (d : Device) (l : Fin 8) : Device :=
  let x := d.lane l
  match x.state with
  | .frozen => (d.thawMarkers l).setLane l (x.resume Val.zero)
  | .freezing => d.setLane l (x.resume x.ampNow)
  | .stopped | .armed | .running => d

def opLaneResume : Op := onLane fun s l => done (s.dev.resumeLane l)

def execLaneResume (via : Via) (s : State) : Out := .next (viaStep via 0x25 opLaneResume s)

/-! ## LANE_QUIET, LANE_COMPARE_SET, LANE_STATUS (R51, R53, R54) -/

/-- The orders of LANE_QUIET. -/
inductive QuietOrder where
  | on
  | off
  | offForce
deriving DecidableEq, Repr

def quietOrderAt (p : List Byte) (i : Nat) : Option QuietOrder :=
  match u8 p i with
  | 0 => some .on
  | 1 => some .off
  | 2 => some .offForce
  | _ => none

/-- An order by the two flags (R51). -/
def Lane.orderQuiet (x : Lane) (o : QuietOrder) : Lane :=
  match o with
  | .on => { x with quiet := true, quietPendingOff := false }
  | .off => { x with quietPendingOff := x.quiet }
  | .offForce => { x with quiet := false, quietPendingOff := false }

def opLaneQuiet : Op := needs 2 fun _ p s =>
  match quietOrderAt p 1, fin? 8 (u8 p 0) with
  | none, _ => refuse .badField s
  | some _, none => refuse .outOfRange s
  | some o, some l => done (s.dev.updLane l (·.orderQuiet o))

def execLaneQuiet (s : State) : Out := .next (requestStep 0x26 opLaneQuiet s)

def opLaneCompareSet : Op := needs 8 fun _ p s =>
  match boolEnumAt p 1, fin? 8 (u8 p 0) with
  | none, _ => refuse .badField s
  | some _, none => refuse .outOfRange s
  | some present, some l =>
    done (s.dev.updLane l fun x => { x with compare := if present then some (u48 p 2) else none })

def execLaneCompareSet (s : State) : Out := .next (requestStep 0x27 opLaneCompareSet s)

/-- A schedule entry in a reply: kind, stamp, voice where it has one, and operands (R40, R54). A start's reader claim is its
slot and reader index, and no bytes where it holds none (log entry 12). -/
def entryBytes (e : Entry) : List Byte :=
  match e.kind with
  | .voiceStart v g claim => b8 0 ++ b48 e.stamp ++ b8 v.val ++ b16 g.val ++ (match claim with
    | none => []
    | some (s, r) => b8 s.val ++ b8 r)
  | .voiceStop v mode => b8 1 ++ b48 e.stamp ++ b8 v.val ++ b8 (modeCode mode)
  | .voiceGain v gain ramp => b8 2 ++ b48 e.stamp ++ b8 v.val ++ b16s gain ++ b16 ramp
  | .laneFreeze mode => b8 3 ++ b48 e.stamp ++ b8 (modeCode mode)

def laneBytes (x : Lane) (domain : DomainState) : List Byte :=
  b8 (laneStateCode x.state) ++ b8 (domainCode x.domain) ++ b8 (domainStateCode domain) ++ b48 x.time
    ++ startModeBytes x.startMode ++ bFlag x.startDue ++ b16 x.freezeRamp ++ b16s x.masterGain ++ bAmp x.ampNow
    ++ bAmp x.ampTarget ++ b16 x.rampLeft ++ bFlag x.meterInFreeze ++ bFlag x.quiet ++ bFlag x.quietPendingOff
    ++ bOptTime x.compare ++ b16s x.trim ++ b32 x.overrange

/-- The entry count of R54 is the count byte of R209 before the list of entries (log entry 12). -/
def opLaneStatus : Op := onLane fun s l =>
  let x := s.dev.lane l
  answer [.one (laneBytes x (s.dev.domain x.domain).state), .many (x.schedule.map entryBytes)] s

def execLaneStatus (s : State) : Out := .next (requestStep 0x28 opLaneStatus s)

/-! ## Clock domains (R34, R35) -/

/-- The lanes whose domain field names a domain. -/
def Device.lanesOf (d : Device) (i : DomainId) : List (Fin 8) :=
  (List.finRange 8).filter fun l => (d.lane l).domain = i

/-- The settle time of a code: 10 µs, 100 µs, 1 ms, 10 ms (R33). -/
def settleTime (code : Nat) : Nat := 10 ^ (code + 1) * Config.unitsPerMicro

def opDomainSet : Op := needs 3 fun _ p s =>
  match domainAt p 0 with
  | none => refuse .outOfRange s
  | some i =>
    if 7 < u8 p 1 then refuse .outOfRange s
    else if 3 < u8 p 2 then refuse .badField s
    else if (s.dev.lanesOf i).any (fun l => (s.dev.lane l).state ≠ .stopped) then refuse .busy s
    else done (s.dev.setDomain i { s.dev.domain i with
      state := .settling, rate := u8 p 1, settle := u8 p 2, settleEnds := some (s.dev.now + settleTime (u8 p 2)) })

def execDomainSet (s : State) : Out := .next (requestStep 0x29 opDomainSet s)

/-- The lanes of the domain are listed from L0 up: R35 gives no order, and this is the model's choice (log entry 12). -/
def opDomainStatus : Op := needs 1 fun _ p s =>
  match domainAt p 0 with
  | none => refuse .outOfRange s
  | some i =>
    let x := s.dev.domain i
    answer [.one (b8 (domainStateCode x.state) ++ b8 x.rate ++ b8 x.settle),
            .many ((s.dev.lanesOf i).map fun l => b8 l.val)] s

def execDomainStatus (s : State) : Out := .next (requestStep 0x2A opDomainStatus s)

/-- The settle timer expires: the domain becomes READY, its block edges begin, and DOMAIN_READY is raised (R35). -/
def Device.settleExpires (d : Device) (i : DomainId) : Device :=
  let x := d.domain i
  match x.state, x.settleEnds with
  | .settling, some moment =>
    let d := d.reach moment
    (d.setDomain i { x with state := .ready, settleEnds := none, readyAt := d.now }).raise (srcDomainReady i)
      (BitVec.ofNat 8 x.rate)
  | _, _ => d

def execSettleTimerExpiry (i : DomainId) (s : State) : Out := .next (s.withDev (s.dev.settleExpires i))

/-! ## Block edges (R33; log entry 32) -/

/-- The time from one block edge to the next: 64 samples at the rate of the rate code (R33). -/
def blockPeriod (rate : Nat) : Nat := 64 * dividerOf rate * Config.unitsPerCycle

/-- The first block edge at or after a moment: whole block periods, at least one, after the domain became READY (R33). -/
def Domain.edgeFrom (x : Domain) (moment : Nat) : Nat :=
  let p := blockPeriod x.rate
  x.readyAt + max 1 ((moment - x.readyAt + (p - 1)) / p) * p

/-- The lane's next block edge: the first of its domain at or after now that the lane has not taken (R33, R41). -/
def Device.nextEdge (d : Device) (l : Fin 8) : Nat :=
  (d.domain (d.lane l).domain).edgeFrom (max d.now ((d.lane l).lastEdge + 1))

/-- The lane's next block edge comes, and the lane takes it: one event of a lane for each edge (R33). -/
def Device.takeEdge (d : Device) (l : Fin 8) : Device :=
  (d.reach (d.nextEdge l)).updLane l fun x => { x with lastEdge := d.nextEdge l }

/-! ## Lane events (R38, R41, R49) -/

/-- A block edge of the lane's domain can occur: the domain is READY (R33). -/
def Device.hasEdges (d : Device) (l : Fin 8) : Bool := (d.domain (d.lane l).domain).state = .ready

/-- BLOCK_BOUNDARY at the lane's next block edge (R41); in another lane state there is none (log entry 1). -/
def Device.blockBoundary (d : Device) (l : Fin 8) : Device :=
  if d.hasEdges l ∧ ((d.lane l).state = .running ∨ (d.lane l).state = .freezing) then (d.takeEdge l).boundary l else d

def execBlockBoundary (l : Fin 8) (s : State) : Out := .next (s.withDev (s.dev.blockBoundary l))

/-- An ARMED lane started: RUNNING at lane time 0 (R38). -/
def Lane.start (x : Lane) : Lane := { x with state := .running, time := 0, startDue := false }

/-- An ARMED lane with start due set starts at its next block edge and takes its first boundary there (R38). -/
def Device.startAtEdge (d : Device) (l : Fin 8) : Device :=
  if d.hasEdges l ∧ (d.lane l).state = .armed ∧ (d.lane l).startDue = true then
    ((d.takeEdge l).updLane l Lane.start).boundary l
  else d

def execLaneStartsAtEdge (l : Fin 8) (s : State) : Out := .next (s.withDev (s.dev.startAtEdge l))

/-- A block edge of a FROZEN lane: a zero block for its meter with meter-in-freeze set (R49, R164). -/
def Device.frozenEdge (d : Device) (l : Fin 8) : Device :=
  if d.hasEdges l ∧ (d.lane l).state = .frozen ∧ (d.lane l).meterInFreeze = true then (d.takeEdge l).meterBlock l [] else d

def execFrozenEdge (l : Fin 8) (s : State) : Out := .next (s.withDev (s.dev.frozenEdge l))

end Sys2Proof.Machine
end

