-- ==== Sys2Proof/Machine/Markers.lean ====
section
/-!
DEFINITION. Markers: MARKER_CONFIG, MARKER_SET, MARKER_STATUS, and the begin and the end of a pulse (R154 to R160).
-/
namespace Sys2Proof.Machine

/-- A condition by its code, with an argument that may be out of range (R155, R209). -/
def conditionAt (p : List Byte) (i : Nat) : Option (Option Condition) :=
  let arg := u8 p (i + 1)
  match u8 p i with
  | 0 => some ((fin? 8 arg).map .laneRunning)
  | 1 => some ((fin? 8 arg).map .voiceStartPulse)
  | 2 => some ((fin? 8 arg).map .segmentEdgePulse)
  | 3 => some ((fin? 16 arg).map .streamUnderrun)
  | 4 => some ((fin? 4 arg).map .triggerLevel)
  | 5 => some (if 1 ≤ arg ∧ arg ≤ 7 then some (.cueLevelAtLeast arg) else none)
  | 6 => some (some .linkUp)
  | 7 => some (some .soft)
  | _ => none

/-- A marker newly configured: pulses and frozen hold are dropped, the soft level kept (R159). -/
def Marker.configure (m : Marker) (c : Condition) (activeLow : Bool) (drive : Drive) (width : Nat)
    (level : FrozenLevel) : Marker :=
  { m with condition := c, activeLow := activeLow, drive := drive, width := width, frozenLevel := level,
           pulse := .none, startsDue := [], frozenHold := none }

/-- MARKER_CONFIG accepted; a lane condition on a FROZEN lane takes its frozen level at once (R159). -/
def Device.configureMarker (d : Device) (n : Fin 6) (m : Marker) : Device :=
  d.setMarker n (if d.markerFrozen m then m.freeze d.now (d.conditionLevel false m) else m)

def opMarkerConfig : Op := needs 8 fun _ p s =>
  match conditionAt p 1, boolEnumAt p 3, driveAt p 4, frozenLevelAt p 7 with
  | some condition, some activeLow, some drive, some level =>
    match fin? 6 (u8 p 0), condition with
    | some n, some c =>
      if u16 p 5 < 1 ∨ 255 < u16 p 5 then refuse .outOfRange s
      else done (s.dev.configureMarker n ((s.dev.markers.get n).configure c activeLow drive (u16 p 5) level))
    | _, _ => refuse .outOfRange s
  | _, _, _, _ => refuse .badField s

def execMarkerConfig (s : State) : Out := .next (requestStep 0x62 opMarkerConfig s)

/-- MARKER_SET: ACTIVE 0, INACTIVE 1 (R160, R209). -/
def opMarkerSet : Op := needs 2 fun _ p s =>
  match boolEnumAt p 1, fin? 6 (u8 p 0) with
  | none, _ => refuse .badField s
  | some _, none => refuse .outOfRange s
  | some inactive, some n => done (s.dev.setMarker n { s.dev.markers.get n with softLevel := !inactive })

def execMarkerSet (via : Via) (s : State) : Out := .next (viaStep via 0x63 opMarkerSet s)

/-- What a pin shows (R158, R160). -/
inductive Pin where
  | high
  | low
  | highImpedance
deriving DecidableEq, Repr

/-- The pin state of a marker from its logical state, polarity and drive (R158). -/
def Marker.pin (m : Marker) (active : Bool) : Pin :=
  let high : Bool := active != m.activeLow
  match m.drive with
  | .driven => if high then .high else .low
  | .openDrain => if high then .highImpedance else .low
  | .off => .highImpedance

def pinCode : Pin → Nat
  | .high => 0
  | .low => 1
  | .highImpedance => 2

/-- ACTIVE 0, INACTIVE 1. -/
def levelCode (active : Bool) : Nat := if active then 0 else 1

/-- The time left in a pulse, or none (R160). -/
def Pulse.remaining (x : Pulse) (now : Nat) : Option Nat :=
  match x with
  | .none => Option.none
  | .running endsAt => some (endsAt - now)
  | .held left => some left

/-- Whether the bench link is UP (R155). -/
def State.linkUp (s : State) : Bool := s.port.bench.state = .up

def markerBytes (m : Marker) (now : Nat) (active : Bool) : List Byte :=
  conditionBytes m.condition ++ bFlag m.activeLow ++ b8 (driveCode m.drive) ++ b16 m.width
    ++ b8 (frozenLevelCode m.frozenLevel) ++ b8 (levelCode m.softLevel) ++ b8 (levelCode active)
    ++ bWord (Config.remainingCode (m.pulse.remaining now)) ++ bOpt8 (m.frozenHold.map levelCode)
    ++ b8 (pinCode (m.pin active))

def opMarkerStatus : Op := needs 1 fun _ p s =>
  match fin? 6 (u8 p 0) with
  | none => refuse .outOfRange s
  | some n =>
    let m := s.dev.markers.get n
    answer [.one (markerBytes m s.dev.now (s.dev.markerLogical s.linkUp m))] s

def execMarkerStatus (s : State) : Out := .next (requestStep 0x64 opMarkerStatus s)

/-! ## Pulses (R156) -/

/-- The first pulse start due begins, at its sample clock; none begins while the lane is FROZEN (R156, R157; log entries 3
and 26). -/
def Device.pulseBegin (d : Device) (n : Fin 6) : Device :=
  let m := d.markers.get n
  match m.startsDue with
  | [] => d
  | clock :: rest =>
    if d.markerFrozen m then d
    else
      let d := d.reach clock
      d.setMarker n { m with startsDue := rest, pulse := .running (d.now + m.width * Config.unitsPerMicro) }

def execPulseBegin (n : Fin 6) (s : State) : Out := .next (s.withDev (s.dev.pulseBegin n))

/-- The pulse remaining runs out (R156). -/
def Device.pulseEnd (d : Device) (n : Fin 6) : Device :=
  let m := d.markers.get n
  match m.pulse with
  | .running endsAt => (d.reach endsAt).setMarker n { m with pulse := .none }
  | .none | .held _ => d

def execPulseEnd (n : Fin 6) (s : State) : Out := .next (s.withDev (s.dev.pulseEnd n))

end Sys2Proof.Machine
end

