-- ==== Sys2Proof/Machine/Meters.lean ====
section
/-!
DEFINITION. Lane meters: METER_CONFIG, METER_START, METER_STOP and METER_READ (R161 to R163, R167).
-/
namespace Sys2Proof.Machine

/-- A meter source by its code, with an argument that may be out of range (R161, R209). -/
def meterSourceAt (p : List Byte) (i : Nat) : Option (Option MeterSource) :=
  match u8 p i with
  | 0 => some (some .laneSum)
  | 1 => some ((fin? 4 (u8 p (i + 1))).map .voice)
  | 2 => some (some .off)
  | _ => none

def thresholdInRange (x : Int) : Bool := -12000 ≤ x && x ≤ 1000

/-- A METER_CONFIG stored, acting by the meter's state (R162). -/
def Meter.configure (x : Meter) (source : MeterSource) (window : Nat) (continuous : Bool) (high low : Int) : Meter :=
  let y := { x with source := source, window := window, continuous := continuous, high := high, low := low }
  match x.state with
  | .idle =>
    if source = .off then { y with settlePending := false }
    else if source = x.source ∧ window = x.window then y
    else { y with settlePending := x.settlePending || x.source = .off || window ≠ x.window }
  | .measuring | .settling =>
    if source = .off then { y.stop with settlePending := false }
    else if source = x.source ∧ window = x.window then y
    else { y.discard with settlePending := false
                          state := if window ≠ x.window ∨ x.state = .settling then .settling else .measuring }

def opMeterConfig : Op := needs 9 fun _ p s =>
  match meterSourceAt p 1, boolEnumAt p 4 with
  | some source, some continuous =>
    match fin? 8 (u8 p 0) with
    | none => refuse .outOfRange s
    | some l =>
      if 3 < u8 p 3 then refuse .badField s
      else match source with
        | none => refuse .outOfRange s
        | some src =>
          if thresholdInRange (s16 p 5) = false ∨ thresholdInRange (s16 p 7) = false then refuse .outOfRange s
          else if s16 p 5 < s16 p 7 then refuse .badField s
          else done (s.dev.setMeter l ((s.dev.meter l).configure src (u8 p 3) continuous (s16 p 5) (s16 p 7)))
  | _, _ => refuse .badField s

def execMeterConfig (s : State) : Out := .next (requestStep 0x65 opMeterConfig s)

/-- A METER_START that passes (R163). -/
def Meter.start (x : Meter) : Meter :=
  if x.state = .idle then
    { x.discard with state := if x.settlePending then .settling else .measuring, settlePending := false }
  else x

def startMeter (s : State) (l : Fin 8) : OpOut :=
  if (s.dev.lane l).state = .stopped then refuse .laneStopped s
  else if (s.dev.meter l).source = .off then refuse .busy s
  else done (s.dev.setMeter l (s.dev.meter l).start)

def opMeterStart : Op := onLane startMeter

def execMeterStart (via : Via) (s : State) : Out := .next (viaStep via 0x66 opMeterStart s)

def opMeterStop : Op := onLane fun s l =>
  if (s.dev.meter l).state = .idle then done s.dev else done (s.dev.setMeter l (s.dev.meter l).stop)

def execMeterStop (via : Via) (s : State) : Out := .next (viaStep via 0x67 opMeterStop s)

def readMeter (s : State) (l : Fin 8) : OpOut :=
  let x := s.dev.meter l
  match x.result with
  | none =>
    { result := .notReady, data := pack [.one (b8 (meterStateCode x.state) ++ b32 x.counted)], dev := s.dev }
  | some (level, time) =>
    { result := .ok
      data := pack [.one (b16s level ++ b48 time ++ bFlag x.fresh ++ b8 (meterStateCode x.state)
        ++ meterSourceBytes x.source ++ b8 x.window ++ bFlag x.continuous)]
      dev := s.dev.setMeter l { x with fresh := false } }

def opMeterRead : Op := onLane readMeter

def execMeterRead (s : State) : Out := .next (requestStep 0x68 opMeterRead s)

end Sys2Proof.Machine
end

