-- ==== Sys2Proof/Machine/Clips.lean ====
section
/-!
DEFINITION. The Clip Store's operations and the CLIP_DATA cell: allocation and return of extents (R103, R104), loading,
sealing, aborting, deleting and inspecting a clip (05).
-/
namespace Sys2Proof.Machine

/-! ## The Free Extent List (R102 to R104) -/

/-- The pages of the first sixteen entries together: the most an allocation is granted (R103). -/
def openablePages (list : List Extent) : Nat := pagesOf (list.take 16)

/-- The walk of a granted allocation: the extents taken, and the list left (R103). -/
def allocate : Nat → List Extent → List Extent × List Extent
  | _, [] => ([], [])
  | need, x :: rest =>
    if x.count < need then
      let (taken, left) := allocate (need - x.count) rest
      (x :: taken, left)
    else if x.count = need then ([x], rest)
    else ([{ start := x.start, count := need }], { start := x.start + need, count := x.count - need } :: rest)

/-- An extent returned to the list in start-page order, joined with its neighbours (R104). -/
def returnExtent (x : Extent) : List Extent → List Extent
  | [] => [x]
  | y :: rest =>
    if y.start + y.count = x.start then
      match rest with
      | z :: more =>
        if x.start + x.count = z.start then { start := y.start, count := y.count + x.count + z.count } :: more
        else { start := y.start, count := y.count + x.count } :: rest
      | [] => [{ start := y.start, count := y.count + x.count }]
    else if x.start + x.count = y.start then { start := x.start, count := x.count + y.count } :: rest
    else if x.start < y.start then x :: y :: rest
    else y :: returnExtent x rest

/-- A clip's extents returned one after another, in clip order (R104). -/
def returnAll (extents list : List Extent) : List Extent := extents.foldl (fun l x => returnExtent x l) list

/-! ## Load slots (R107) -/

/-- The load slot that tracks a clip. -/
def ClipStore.loadSlotOf (k : ClipStore) (c : Fin 256) : Option (Fin 2 × LoadSlot) :=
  (List.finRange 2).findSome? fun i => match k.loadSlots.get i with
    | none => none
    | some x => if x.clip = c then some (i, x) else none

/-- The lower-numbered free load slot. -/
def ClipStore.freeLoadSlot (k : ClipStore) : Option (Fin 2) :=
  (List.finRange 2).find? fun i => (k.loadSlots.get i).isNone

/-- The load slots with a clip's one freed. -/
def ClipStore.freeLoad (k : ClipStore) (c : Fin 256) : Vector (Option LoadSlot) 2 :=
  k.loadSlots.map fun x => match x with
    | none => none
    | some y => if y.clip = c then none else some y

/-- An index joins a received set, kept rising. -/
def insertIndex (i : Nat) : List Nat → List Nat
  | [] => [i]
  | x :: xs => if i < x then i :: x :: xs else if i = x then x :: xs else x :: insertIndex i xs

/-- The lowest index not in a received set (R110). -/
def firstMissing (n : Nat) : List Nat → Nat
  | [] => n
  | x :: xs => if x = n then firstMissing (n + 1) xs else n

/-! ## CLIP_OPEN (R108) -/

/-- What an accepted CLIP_OPEN does (R108). -/
def ClipStore.openClip (k : ClipStore) (c : Fin 256) (length : Nat) (slot : Fin 2) : ClipStore :=
  let (extents, list) := allocate (pagesFor length) k.freeList
  { k with clips := put k.clips c { state := .loading, length := length, extents := extents }
           loadSlots := put k.loadSlots slot (some { clip := c, received := [] })
           freeList := list }

/-- Checks 3 to 5 of R108, and the open. -/
def openClip (s : State) (c : Fin 256) (length : Nat) : OpOut :=
  let k := s.dev.clips
  if (s.dev.clip c).state ≠ .empty then refuse .busy s
  else match k.freeLoadSlot with
    | none => refuse .full s
    | some slot =>
      if openablePages k.freeList < pagesFor length then
        { result := .noSpace, data := pack [.one (b32 (openablePages k.freeList))], dev := s.dev }
      else
        let after := k.openClip c length slot
        { result := .ok
          data := pack [.one (b8 slot.val ++ b32 (after.clips.get c).extents.length ++ b32 (cellsFor length))]
          dev := { s.dev with clips := after } }

def opClipOpen : Op := needs 6 fun _ p s =>
  match fin? 256 (u16 p 0) with
  | none => refuse .outOfRange s
  | some c => if u32 p 2 < 1 ∨ 67108864 < u32 p 2 then refuse .outOfRange s else openClip s c (u32 p 2)

def execClipOpen (s : State) : Out := .next (requestStep 0x40 opClipOpen s)

/-! ## CLIP_SEAL, CLIP_ABORT, CLIP_DELETE (R110, R111, R113) -/

/-- An operation on one clip, OUT_OF_RANGE for an id above 255. -/
def onClip (f : State → Fin 256 → OpOut) : Op := needs 2 fun _ p s =>
  match fin? 256 (u16 p 0) with
  | none => refuse .outOfRange s
  | some c => f s c

def ClipStore.sealClip (k : ClipStore) (c : Fin 256) : ClipStore :=
  { k with clips := change k.clips c fun x => { x with state := .ready }, loadSlots := k.freeLoad c }

/-- The received set of a clip's load slot. -/
def ClipStore.receivedOf (k : ClipStore) (c : Fin 256) : List Nat :=
  match k.loadSlotOf c with
  | none => []
  | some (_, x) => x.received

def sealClip (s : State) (c : Fin 256) : OpOut :=
  let x := s.dev.clip c
  let received := s.dev.clips.receivedOf c
  if x.state ≠ .loading then refuse .busy s
  else if received.length < cellsFor x.length then
    { result := .incomplete
      data := pack [.one (b32 (cellsFor x.length - received.length) ++ b32 (firstMissing 0 received))]
      dev := s.dev }
  else done { s.dev with clips := s.dev.clips.sealClip c }

def opClipSeal : Op := onClip sealClip

def execClipSeal (s : State) : Out := .next (requestStep 0x41 opClipSeal s)

/-- A clip's extents returned, its load slot freed, and the clip EMPTY with length 0 (R111, R113). -/
def ClipStore.removeClip (k : ClipStore) (c : Fin 256) : ClipStore :=
  { k with clips := put k.clips c Clip.reset, loadSlots := k.freeLoad c,
           freeList := returnAll (k.clips.get c).extents k.freeList }

def abortClip (s : State) (c : Fin 256) : OpOut :=
  if (s.dev.clip c).state ≠ .loading then refuse .busy s
  else done { s.dev with clips := s.dev.clips.removeClip c }

def opClipAbort : Op := onClip abortClip

def execClipAbort (s : State) : Out := .next (requestStep 0x42 opClipAbort s)

def deleteClip (s : State) (c : Fin 256) : OpOut :=
  if (s.dev.clip c).state ≠ .ready then refuse .busy s
  else if s.dev.clipRefs c ≠ 0 then refuse .inUse s
  else done { s.dev with clips := s.dev.clips.removeClip c }

def opClipDelete : Op := onClip deleteClip

def execClipDelete (s : State) : Out := .next (requestStep 0x43 opClipDelete s)

/-! ## CLIP_STATUS and CLIP_SPACE (R114, R115) -/

/-- An extent in reply data: its start page in 2 bytes and its page count in 4 (R102, R209; log entry 12). -/
def extentBytes (x : Extent) : List Byte := b16 x.start ++ b32 x.count

/-- The further items of a LOADING clip (R114). -/
def loadBytes (k : ClipStore) (c : Fin 256) (n : Nat) : List Byte :=
  match k.loadSlotOf c with
  | none => []
  | some (i, x) =>
    b8 i.val ++ b32 x.received.length ++ b32 (n - x.received.length)
      ++ bOpt32 (if firstMissing 0 x.received < n then some (firstMissing 0 x.received) else none)

def opClipStatus : Op := onClip fun s c =>
  let x := s.dev.clip c
  let n := cellsFor x.length
  answer [.one (b8 (clipStateCode x.state) ++ b32 x.length ++ b32 n), .many (x.extents.map extentBytes),
          .one (b32 (pagesOf x.extents) ++ b32 (s.dev.clipRefs c)),
          .one (if x.state = .loading then loadBytes s.dev.clips c n else [])] s

def execClipStatus (s : State) : Out := .next (requestStep 0x44 opClipStatus s)

def largestEntry (list : List Extent) : Nat := list.foldl (fun n x => max n x.count) 0

def ClipStore.freeLoadSlots (k : ClipStore) : Nat := (k.loadSlots.toList.filter Option.isNone).length

def opClipSpace : Op := fun _ _ s =>
  let k := s.dev.clips
  answer [.one (b32 (pagesOf k.freeList) ++ b32 k.freeList.length ++ b32 (largestEntry k.freeList)
            ++ b32 (openablePages k.freeList) ++ b32 k.freeLoadSlots),
          .many ((k.freeList.take 32).map extentBytes)] s

def execClipSpace (s : State) : Out := .next (requestStep 0x45 opClipSpace s)

/-! ## CLIP_DATA (R109) -/

/-- A cell of a LOADING clip written through its extents, and its index received (R109). -/
def ClipStore.writeCell (k : ClipStore) (c : Fin 256) (slot : Fin 2) (x : LoadSlot) (i : Nat) (payload : List Byte) :
    ClipStore :=
  let fresh : Bool := !x.received.contains i
  { k with
    memory := memWriteRun k.memory (sampleAddress (k.clips.get c).extents (64 * i)) payload
    loadSlots := put k.loadSlots slot (some { x with received := insertIndex i x.received })
    counters := if fresh then { k.counters with cellsWritten := satInc k.counters.cellsWritten }
      else { k.counters with duplicate := satInc k.counters.duplicate } }

def ClipStore.countNotLoading (k : ClipStore) : ClipStore :=
  { k with counters := { k.counters with notLoading := satInc k.counters.notLoading } }

def ClipStore.countBadIndex (k : ClipStore) : ClipStore :=
  { k with counters := { k.counters with badIndex := satInc k.counters.badIndex } }

/-- A CLIP_DATA cell for a clip (R109). -/
def ClipStore.takeCell (k : ClipStore) (c : Fin 256) (i : Nat) (payload : List Byte) : ClipStore :=
  let x := k.clips.get c
  if x.state ≠ .loading then k.countNotLoading
  else if cellsFor x.length ≤ i then k.countBadIndex
  else match k.loadSlotOf c with
    | none => k.countNotLoading
    | some (slot, load) => k.writeCell c slot load i payload

/-- A CLIP_DATA cell handed to the Clip Store; one whose byte 2 is not 0 names no clip (R208). -/
def Device.takeClipData (d : Device) (wordA : BitVec 16) (i : Nat) (payload : List Byte) : Device :=
  { d with clips :=
      if wordA.toNat < 256 then d.clips.takeCell (Fin.ofNat 256 wordA.toNat) i payload else d.clips.countBadIndex }

end Sys2Proof.Machine
end

