-- ==== Sys2Proof/Machine/Streams.lean ====
section
/-!
DEFINITION. The Stream Intake's operations and its arrivals: the Tag Table, opening and closing a slot, POOL_CONFIG, and
how SAMPLE and STREAM_END cells are taken (03).
-/
namespace Sys2Proof.Machine

/-! ## The Tag Table (R55 to R57) -/

/-- TO_SLOT 0, DISCARD 1 (R56). -/
def tagActionAt (p : List Byte) (i : Nat) : Option Bool := (boolEnumAt p i).map fun b => !b

/-- Another valid entry has this property. -/
def Intake.otherTag (k : Intake) (n : Fin 32) (f : TagEntry → Bool) : Bool :=
  (List.finRange 32).any fun m => m ≠ n && (k.tags.get m).valid && f (k.tags.get m)

/-- The slot of a stored entry, while it feeds an open one (R56 check 7). -/
def Intake.feedsOpen (k : Intake) (e : TagEntry) : Bool :=
  (List.finRange 16).any fun s => e.feeds s && (k.slots.get s).isOpen

/-- Checks 3 to 7 of R56; `none` where all pass. -/
def Intake.tagWriteCheck (k : Intake) (n : Fin 32) (e : TagEntry) : Option Result :=
  if e.valid = true ∧ (e.tag = 0x0000 ∨ e.tag = 0xFFFF) then some .badField
  else if e.toSlot = true ∧ 16 ≤ e.slot then some .outOfRange
  else if e.valid = true ∧ k.otherTag n (·.tag = e.tag) = true then some .inUse
  else if e.valid = true ∧ e.toSlot = true ∧ k.otherTag n (fun x => x.toSlot && x.slot = e.slot) = true then some .inUse
  else if k.feedsOpen (k.tags.get n) = true ∧ k.tags.get n ≠ e then some .inUse
  else none

def opTagWrite : Op := needs 7 fun _ p s =>
  match tagActionAt p 5, fin? 32 (u16 p 0) with
  | none, _ => refuse .badField s
  | some _, none => refuse .outOfRange s
  | some toSlot, some n =>
    let e : TagEntry := { valid := flagAt p 2, tag := BitVec.ofNat 16 (u16 p 3), toSlot := toSlot,
                          slot := if toSlot then u8 p 6 else 0 }
    match s.dev.intake.tagWriteCheck n e with
    | some r => refuse r s
    | none => done { s.dev with intake := { s.dev.intake with tags := put s.dev.intake.tags n e } }

def execTagWrite (s : State) : Out := .next (requestStep 0x30 opTagWrite s)

def opTagRead : Op := needs 2 fun _ p s =>
  match fin? 32 (u16 p 0) with
  | none => refuse .outOfRange s
  | some n =>
    let e := s.dev.intake.tags.get n
    answer [.one (bFlag e.valid ++ b16 e.tag.toNat ++ b8 (if e.toSlot then 0 else 1) ++ b8 e.slot)] s

def execTagRead (s : State) : Out := .next (requestStep 0x31 opTagRead s)

/-! ## STREAM_OPEN (R61, R62) -/

/-- Checks 2 to 7 of R61 on a configuration; `none` where all pass. -/
def SlotConfig.check (c : SlotConfig) : Option Result :=
  if c.quota < 1 ∨ 4096 < c.quota then some .outOfRange
  else if c.prime < 1 ∨ c.quota < c.prime then some .outOfRange
  else if c.high < 1 ∨ c.quota < c.high then some .outOfRange
  else if c.high ≤ c.low then some .badField
  else if c.gapLimit < 1 then some .outOfRange
  else none

/-- A slot set up by an accepted STREAM_OPEN (R62). -/
def Slot.opened (x : Slot) (c : SlotConfig) : Slot :=
  { x with state := .filling, config := c, e := c.firstExpected, h := c.firstExpected, queue := [], readers := [],
           hold := false, final := none, endCause := none, counters := SlotCounters.zero, consumed := false,
           earlyLeave := false }

/-- The configuration operands, with the policy read (R61). -/
def configAt (p : List Byte) (policy : Policy) : SlotConfig :=
  { quota := u32 p 1, prime := u32 p 5, high := u32 p 9, low := u32 p 13, gapLimit := u8 p 17, policy := policy,
    firstExpected := BitVec.ofNat 32 (u32 p 19) }

def opStreamOpen : Op := needs 23 fun _ p s =>
  match policyAt p 18, fin? 16 (u8 p 0) with
  | none, _ => refuse .badField s
  | some _, none => refuse .outOfRange s
  | some policy, some n =>
    match (configAt p policy).check with
    | some r => refuse r s
    | none =>
      if (s.dev.slot n).isOpen then refuse .busy s
      else if s.dev.intake.slotTag n = none then refuse .notReady s
      else done (s.dev.setSlot n ((s.dev.slot n).opened (configAt p policy)))

def execStreamOpen (s : State) : Out := .next (requestStep 0x32 opStreamOpen s)

/-! ## STREAM_CLOSE (R63) -/

/-- An accepted close of an open slot: the readers' voices end CLOSED (R63, R29, R94). -/
def Device.closeSlot (d : Device) (n : Fin 16) : Device :=
  (d.shutSlot n .closed (d.slot n).endCause).endSlotVoices n .closed

def closeStream (s : State) (n : Fin 16) (force : Bool) : OpOut :=
  let x := s.dev.slot n
  if x.isOpen = false then done (s.dev.setSlot n { x with state := .closed })
  else if x.readers ≠ [] ∧ force = false then refuse .inUse s
  else done (s.dev.closeSlot n)

def opStreamClose : Op := needs 2 fun _ p s =>
  match fin? 16 (u8 p 0) with
  | none => refuse .outOfRange s
  | some n => closeStream s n (flagAt p 1)

def execStreamClose (s : State) : Out := .next (requestStep 0x33 opStreamClose s)

/-! ## STREAM_STATUS and POOL_CONFIG (R64, R77) -/

def queueEntryBytes : QueueEntry → List Byte
  | .data p _ => b8 0 ++ bWord p
  | .void f c => b8 1 ++ bWord f ++ b32 c

/-- A reader in reply data: its position, then its holder, the lane and voice and whether it is the pending start (R64). The
sample offset, 0 to 63, takes 1 byte: R209 gives it no sort, and this width is the model's choice (log entry 12). -/
def readerBytes (r : Reader) : List Byte :=
  bWord r.cell ++ b8 r.offset ++ b8 r.lane.val ++ b8 r.voice.val ++ bFlag r.pending

def slotBytes (x : Slot) (tag : Option (BitVec 16)) : List Byte :=
  b8 (slotStateCode x.state) ++ bOpt16 (tag.map BitVec.toNat) ++ b32 x.config.quota ++ b32 x.config.prime
    ++ b32 x.config.high ++ b32 x.config.low ++ b8 x.config.gapLimit ++ b8 (policyCode x.config.policy)
    ++ bWord x.config.firstExpected ++ bWord x.e ++ bWord x.h ++ b32 x.held ++ b32 x.queue.length ++ bFlag x.hold
    ++ bOpt32 (x.final.map BitVec.toNat) ++ bOpt8 (x.endCause.map streamCauseCode)

/-- The readers are listed in the order in which they were claimed: the spec gives no order, and this is the model's choice
(R64; log entry 12). -/
def opStreamStatus : Op := needs 1 fun _ p s =>
  match fin? 16 (u8 p 0) with
  | none => refuse .outOfRange s
  | some n =>
    let x := s.dev.slot n
    answer [.one (slotBytes x (s.dev.intake.slotTag n)), .many (x.readers.map readerBytes),
            .many ((x.queue.take 16).map queueEntryBytes)] s

def execStreamStatus (s : State) : Out := .next (requestStep 0x34 opStreamStatus s)

/-- R and Y stored, and the pool flow state tested against them (R77, R95). -/
def Intake.configurePool (k : Intake) (reserve hysteresis : Nat) : Intake :=
  ({ k with pool := { k.pool with reserve := reserve, hysteresis := hysteresis } }).poolFlowTest

def opPoolConfig : Op := needs 8 fun _ p s =>
  if 4095 < u32 p 0 ∨ u32 p 4 < 1 ∨ 4096 < u32 p 0 + u32 p 4 then refuse .outOfRange s
  else done { s.dev with intake := s.dev.intake.configurePool (u32 p 0) (u32 p 4) }

def execPoolConfig (s : State) : Out := .next (requestStep 0x35 opPoolConfig s)

/-! ## Arrivals (R66 to R73) -/

/-- The classes of an arrival (R66). -/
inductive ArrivalClass where
  | late
  | stale
  | inOrder
  | gap
  | breaking
deriving DecidableEq, Repr

/-- The class of a sequence number against E and H, rows in order (R66). -/
def Slot.classify (x : Slot) (q : Seq) : ArrivalClass :=
  if precedes q x.h then .late
  else if precedes q x.e then .stale
  else if q = x.e then .inOrder
  else if precedes x.e q ∧ (q - x.e).toNat ≤ x.config.gapLimit then .gap
  else .breaking

/-- The longest span of a queue, E - H (R69). -/
def spanLimit : Nat := 1073741824

def Slot.countLate (x : Slot) : Slot := { x with counters := { x.counters with late := satInc x.counters.late } }

def Slot.countStale (x : Slot) : Slot := { x with counters := { x.counters with stale := satInc x.counters.stale } }

def Slot.countPastEnd (x : Slot) : Slot :=
  { x with counters := { x.counters with pastEnd := satInc x.counters.pastEnd } }

/-- The positions E to q - 1 marked missing: a void run, counted, and E becomes q (R68). With q = E nothing is
missing. -/
def Slot.fillGap (x : Slot) (q : Seq) : Slot :=
  let n := (q - x.e).toNat
  if n = 0 then x
  else { x with queue := addVoid x.e n x.queue, e := q,
                counters := { x.counters with gapVoids := satAdd x.counters.gapVoids n } }

/-- One position lost to the quota (R69). -/
def Slot.overQuotaVoid (x : Slot) : Slot :=
  { x with queue := addVoid x.e 1 x.queue, e := x.e + 1,
           counters := { x.counters with overQuota := satInc x.counters.overQuota } }

/-- One position lost to an empty pool (R69). -/
def Slot.poolEmptyVoid (x : Slot) : Slot :=
  { x with queue := addVoid x.e 1 x.queue, e := x.e + 1,
           counters := { x.counters with poolEmpty := satInc x.counters.poolEmpty } }

/-- A cell stored in a DATA entry (R69). -/
def Slot.store (x : Slot) (samples : List Sample) : Slot :=
  { x with queue := x.queue ++ [.data x.e samples], e := x.e + 1,
           counters := { x.counters with accepted := satInc x.counters.accepted } }

/-- A buffer taken from the pool. -/
def Intake.takeBuffer (k : Intake) : Intake := { k with pool := { k.pool with free := k.pool.free - 1 } }

/-- A slot in FILLING whose held reaches the prime level becomes PRIMED (R75). -/
def Device.primeTest (d : Device) (n : Fin 16) : Device :=
  let x := d.slot n
  if x.state = .filling ∧ x.config.prime ≤ x.held then
    (d.setSlot n { x with state := .primed }).raise (srcStreamPrimed n) 0
  else d

/-- A cell taken at E: a void for the quota, a void for the pool, or stored, with the flow tests and the prime test
(R69, R75, R93, R95). -/
def Device.takeCell (d : Device) (n : Fin 16) (samples : List Sample) : Device :=
  let x := d.slot n
  if x.held = x.config.quota then d.setSlot n x.overQuotaVoid
  else if d.intake.pool.free = 0 then d.setSlot n x.poolEmptyVoid
  else
    let k := (((d.intake.setSlot n (x.store samples)).takeBuffer).slotFlowTest n).poolFlowTest
    ({ d with intake := k }).primeTest n

/-- A SAMPLE cell for a slot in FILLING, PRIMED or RUNNING (R66 to R70). -/
def Device.arriveOpen (d : Device) (n : Fin 16) (q : Seq) (samples : List Sample) : Device :=
  let x := d.slot n
  match x.classify q with
  | .late => d.setSlot n x.countLate
  | .stale => d.setSlot n x.countStale
  | .breaking => d.breakSlot n
  | .inOrder | .gap =>
    if spanLimit < (q + 1 - x.h).toNat then d.breakSlot n
    else (d.setSlot n (x.fillGap q)).takeCell n samples

/-- A SAMPLE cell for a DRAINING slot (R73). -/
def Slot.arriveDraining (x : Slot) (q : Seq) : Slot :=
  if precedes q x.h then x.countLate
  else if precedes q x.e then x.countStale
  else x.countPastEnd

/-- The slot becomes DRAINING with F stored; a slot in FILLING has not primed, and raises STREAM_PRIMED (R72, R75). -/
def Device.drain (d : Device) (n : Fin 16) (f : Seq) : Device :=
  let x := d.slot n
  let e := d.setSlot n { x.fillGap f with state := .draining, final := some f }
  if x.state = .filling then e.raise (srcStreamPrimed n) 0 else e

/-- A STREAM_END cell for a slot in FILLING, PRIMED or RUNNING (R72). -/
def Device.endOpen (d : Device) (n : Fin 16) (f : Seq) : Device :=
  let x := d.slot n
  match x.classify f with
  | .late => d.setSlot n x.countLate
  | .stale => d.setSlot n x.countStale
  | .breaking => d.breakSlot n
  | .inOrder => d.drain n f
  | .gap => if spanLimit < (f - x.h).toNat then d.breakSlot n else d.drain n f

/-- A STREAM_END cell for a DRAINING slot (R73). -/
def Device.endDraining (d : Device) (n : Fin 16) (f : Seq) : Device :=
  let x := d.slot n
  if x.final = some f then d.setSlot n x.countStale else d.breakSlot n

/-- The outcome of a tag's lookup (R58). -/
inductive Lookup where
  | unknown
  | discard
  | slot (n : Fin 16)
deriving DecidableEq, Repr

def Intake.lookup (k : Intake) (tag : BitVec 16) : Lookup :=
  match k.tags.toList.find? fun e => e.valid && e.tag = tag with
  | none => .unknown
  | some e => if e.toSlot then .slot (Fin.ofNat 16 e.slot) else .discard

/-- A SAMPLE or STREAM_END cell disposed of by its tag (R58). -/
def Device.lookupCell (d : Device) (tag : BitVec 16) (take : Fin 16 → Device) : Device :=
  match d.intake.lookup tag with
  | .unknown => { d with intake := { d.intake with unknownTag := satInc d.intake.unknownTag } }
  | .discard => d
  | .slot n =>
    if (d.slot n).isOpen then take n
    else { d with intake := { d.intake with closedStream := satInc d.intake.closedStream } }

/-- A SAMPLE cell handed to the Intake (R58, R66, R73). -/
def Device.takeSample (d : Device) (tag : BitVec 16) (q : Seq) (samples : List Sample) : Device :=
  d.lookupCell tag fun n =>
    if (d.slot n).state = .draining then d.setSlot n ((d.slot n).arriveDraining q) else d.arriveOpen n q samples

/-- A STREAM_END cell handed to the Intake (R58, R72, R73). -/
def Device.takeStreamEnd (d : Device) (tag : BitVec 16) (f : Seq) : Device :=
  d.lookupCell tag fun n => if (d.slot n).state = .draining then d.endDraining n f else d.endOpen n f

/-! ## Link UP (R98) -/

/-- Each open slot's flow state is queued, and a pool hold (R98). -/
def Intake.announce (k : Intake) : Intake :=
  let k := (List.finRange 16).foldl (fun k n =>
    let x := k.slots.get n
    if x.isOpen then k.queueSlotFlow n x.hold else k) k
  if k.pool.hold then k.queuePoolFlow true else k

end Sys2Proof.Machine
end

