-- ==== Sys2Proof/Machine/Link.lean ====
section
/-!
DEFINITION. The Bench Link Port: symbols and alignment (R170), the link states and the OFFER exchange (R171 to R174),
cells with their CRC and checks (R175 to R178), addressing and forwarding (R179, R180), merging and holding (R181 to
R183), and the upstream arbiter (R184).
-/
namespace Sys2Proof.Machine

/-! ## Access -/

def Port.link (p : Port) : LinkId → Link
  | .bench => p.bench
  | .chain => p.chain

def Port.setLink (p : Port) (id : LinkId) (x : Link) : Port :=
  match id with
  | .bench => { p with bench := x }
  | .chain => { p with chain := x }

def State.link (s : State) (id : LinkId) : Link := s.port.link id

def State.setLink (s : State) (id : LinkId) (x : Link) : State := { s with port := s.port.setLink id x }

def State.updLink (s : State) (id : LinkId) (f : Link → Link) : State := s.setLink id (f (s.link id))

/-- A link counter changed. -/
def State.count (s : State) (id : LinkId) (f : LinkCounters → LinkCounters) : State :=
  s.updLink id fun x => { x with counters := f x.counters }

/-- A link in OFFERING or UP assembles cells (R175). -/
def Link.assembles (x : Link) : Bool := x.state = .offering || x.state = .up

/-! ## The counters of R186 -/

def LinkCounters.addCrcErr (c : LinkCounters) : LinkCounters := { c with crcErr := satInc c.crcErr }

def LinkCounters.addLenErr (c : LinkCounters) : LinkCounters := { c with lenErr := satInc c.lenErr }

def LinkCounters.addCodeErr (c : LinkCounters) : LinkCounters := { c with codeErr := satInc c.codeErr }

def LinkCounters.addFrameErr (c : LinkCounters) : LinkCounters := { c with frameErr := satInc c.frameErr }

def LinkCounters.addKindErr (c : LinkCounters) : LinkCounters := { c with kindErr := satInc c.kindErr }

def LinkCounters.addNotUp (c : LinkCounters) : LinkCounters := { c with notUpDrop := satInc c.notUpDrop }

def LinkCounters.addRoleErr (c : LinkCounters) : LinkCounters := { c with roleErr := satInc c.roleErr }

def LinkCounters.addAbort (c : LinkCounters) : LinkCounters := { c with txAbort := satInc c.txAbort }

def LinkCounters.addUp (c : LinkCounters) : LinkCounters := { c with upCount := satInc c.upCount }

def LinkCounters.addLoss (c : LinkCounters) : LinkCounters := { c with lossCount := satInc c.lossCount }

def LinkCounters.addIn (c : LinkCounters) : LinkCounters := { c with cellsIn := satInc c.cellsIn }

def LinkCounters.addOut (c : LinkCounters) : LinkCounters := { c with cellsOut := satInc c.cellsOut }

/-! ## Cells: bytes, CRC (R176), formats (R206 to R208) -/

/-- One bit through the division by x^16 + x^12 + x^5 + 1. -/
def crcBit (r : BitVec 16) (b : Bool) : BitVec 16 :=
  if r.getMsbD 0 != b then (r <<< 1) ^^^ 0x1021 else r <<< 1

/-- One byte, most significant bit first. -/
def crcByte (r : BitVec 16) (x : Byte) : BitVec 16 := (List.range 8).foldl (fun r i => crcBit r (x.getMsbD i)) r

/-- The remainder over bytes, from FFFFh. -/
def crcOf (bytes : List Byte) : BitVec 16 := bytes.foldl crcByte 0xFFFF

/-- A 16-bit word as two bytes, high byte first. -/
def bytes16 (w : BitVec 16) : List Byte := [w.extractLsb' 8 8, w.extractLsb' 0 8]

/-- The header and payload bytes of a cell (R206). -/
def cellBody (c : Cell) : List Byte := [c.kind, c.addr] ++ bytes16 c.wordA ++ bWord c.wordB ++ c.payload

/-- The bytes of a cell as sent between START and END, with its CRC (R176). -/
def cellBytes (c : Cell) : List Byte := cellBody c ++ bytes16 (~~~ crcOf (cellBody c))

/-- The cell of closed bytes, which passed checks 1 and 2 of R177. -/
def cellOf (bytes : List Byte) : Cell :=
  { kind := bytes.getD 0 0, addr := bytes.getD 1 0, wordA := BitVec.ofNat 16 (u16 bytes 2),
    wordB := BitVec.ofNat 32 (u32 bytes 4), payload := (bytes.drop 8).take (bytes.length - 10) }

/-- The unit address of a header: the low four bits of byte 1 (R206). -/
def addressOf (addr : Byte) : Nat := addr.toNat % 16

/-- The address this unit puts in the cells it originates (R179). -/
def Port.ownAddress (p : Port) : Byte :=
  match p.address with
  | none => 15
  | some a => BitVec.ofNat 8 a.val

/-- The kind is known and may arrive in this direction on this link (R178). -/
def kindArrives (id : LinkId) (c : Cell) : Bool :=
  if c.kind = 0x01 ∨ c.kind = 0x02 ∨ c.kind = 0x03 ∨ c.kind = 0x04 then id = .bench
  else if c.kind = 0x0C then if c.wordA = 0 then id = .bench else id = .chain
  else if c.kind = 0x08 ∨ c.kind = 0x09 then id = .chain
  else c.kind = 0x0F

/-- The payload length is the length given for the kind (R207). -/
def lengthFits (c : Cell) : Bool :=
  let n := c.payload.length
  let entries := (c.wordA.extractLsb' 8 8).toNat
  if c.kind = 0x01 ∨ c.kind = 0x03 then n = 256
  else if c.kind = 0x04 ∨ c.kind = 0x08 then n ≤ 256 && n % 4 = 0
  else if c.kind = 0x09 then 1 ≤ entries && entries ≤ 32 && n = 8 * entries
  else n = 0

/-- Checks 3 to 5 of R177: the counter of the first that fails. -/
def cellFault (id : LinkId) (state : LinkState) (c : Cell) : Option (LinkCounters → LinkCounters) :=
  if kindArrives id c = false then some LinkCounters.addKindErr
  else if lengthFits c = false then some LinkCounters.addLenErr
  else if c.kind ≠ 0x0F ∧ state ≠ .up then some LinkCounters.addNotUp
  else none

/-! ## The cells this unit originates (R172, R208, R210) -/

/-- A flag as bit 0 of byte 4, the first byte of word B. -/
def flagWord (b : Bool) : BitVec 32 := if b then 0x01000000 else 0

/-- An OFFER: role UNIT, rate capability 2, and the link's seen field (R172, R208). -/
def Port.offerCell (p : Port) (seen : Bool) : Cell :=
  { kind := 0x0F, addr := p.ownAddress, wordA := 0x0002, wordB := flagWord seen, payload := [] }

/-- A FLOW cell (R208). -/
def Port.flowCell (p : Port) (subject : BitVec 16) (hold : Bool) : Cell :=
  { kind := 0x0C, addr := p.ownAddress, wordA := subject, wordB := flagWord hold, payload := [] }

/-- The subject of a flow outbox entry: a stream tag, or FFFFh for ALL. -/
def FlowEntry.subjectWord (e : FlowEntry) : BitVec 16 :=
  match e.subject with
  | .slot _ => e.tag
  | .all => 0xFFFF

/-- Zero bytes to a multiple of 4 (R209). -/
def fillWord (bytes : List Byte) : List Byte := bytes ++ List.replicate ((4 - bytes.length % 4) % 4) 0

/-- A REPLY cell (R190, 10 section 10.3). -/
def Port.replyCell (p : Port) (r : Reply) : Cell :=
  { kind := 0x08, addr := p.ownAddress, wordA := r.tag ++ r.kind,
    wordB := resultCode r.result ++ (if r.lost then (1 : Byte) else 0) ++ BitVec.ofNat 8 r.lostCount ++ (0 : Byte),
    payload := fillWord r.data }

/-- A notice entry (R210). -/
def noticeBytes (n : Notice) : List Byte :=
  [noticeKindCode n.kind, BitVec.ofNat 8 n.source, BitVec.ofNat 8 n.count, n.aux, n.detail, 0, 0, 0]

/-- A NOTICE cell of every entry of the queue (R198, R210). -/
def Port.noticeCell (p : Port) (b : NoticeBox) : Cell :=
  { kind := 0x09, addr := p.ownAddress,
    wordA := BitVec.ofNat 8 b.queue.length ++ (if b.lost then (1 : Byte) else 0),
    wordB := BitVec.ofNat 8 (if b.lost then b.lostCount else 0) ++ (0 : BitVec 24),
    payload := b.queue.flatMap noticeBytes }

/-! ## Leaving OFFERING and UP (R171, R174, R180) -/

/-- A sending cut off: TX_ABORT rises, and the end of the UNIT_RESET reply is noted (R174, R192). -/
def State.cutOff (s : State) (id : LinkId) : State :=
  match (s.link id).sending with
  | none => s
  | some x =>
    let s := (s.count id LinkCounters.addAbort).updLink id fun y => { y with sending := none }
    if x.resetReply then { s with agent := { s.agent with resetSent := true } } else s

/-- The bench link leaves UP: held is cleared, its queues are kept (R174). -/
def State.benchLeavesUp (s : State) : State :=
  let s := s.cutOff .bench
  { s with port := { s.port with held := false } }

/-- The chain link leaves UP: both queues are flushed and counted, and the hold-sent state returns to GO (R180 to
R182). -/
def State.chainLeavesUp (s : State) : State :=
  let s := s.cutOff .chain
  let p := s.port
  { s with port := { p with
      forward := [], merge := [], holdSent := false, flowPlace := none
      counters := { p.counters with fwdFlush := satAdd p.counters.fwdFlush p.forward.length
                                    mergeFlush := satAdd p.counters.mergeFlush p.merge.length } } }

/-- The link leaves OFFERING or UP: LOSS_COUNT rises, a cell in progress is discarded (R171, R175). An OFFER being sent
in OFFERING is dropped without a count (log entry 20). -/
def State.leaves (s : State) (id : LinkId) : State :=
  let s := match (s.link id).state, id with
    | .up, .bench => s.benchLeavesUp
    | .up, .chain => s.chainLeavesUp
    | _, _ => s
  if (s.link id).assembles then
    (s.count id LinkCounters.addLoss).updLink id fun x => { x with receiving := none, sending := none }
  else s

/-- A link in a new state with the counter 0, seen clear and the agreed rate absent (R171). -/
def Link.restart (x : Link) (state : LinkState) : Link :=
  { x with state := state, counter := 0, seen := false, rate := none }

/-- DOWN sees a signal (R171). -/
def State.signalPresent (s : State) (id : LinkId) : State :=
  if (s.link id).state = .down then s.updLink id (·.restart .aligning) else s

def execSignalPresent (id : LinkId) (s : State) : Out := .next (s.signalPresent id)

/-- The signal is gone (R171). -/
def State.signalAbsent (s : State) (id : LinkId) : State :=
  if (s.link id).state = .down then s else (s.leaves id).updLink id (·.restart .down)

def execSignalAbsent (id : LinkId) (s : State) : Out := .next (s.signalAbsent id)

/-- ALIGNING has reached 15: OFFERING, with the first OFFER due at once (R171, R172; log entry 28). -/
def Link.enterOffering (x : Link) (now : Nat) : Link :=
  { x with state := .offering, counter := 15, seen := false, offerAt := now }

def State.alignmentReached (s : State) (id : LinkId) : State :=
  if (s.link id).state = .aligning then s.updLink id (·.enterOffering s.dev.now) else s

def execAlignmentReached (id : LinkId) (s : State) : Out := .next (s.alignmentReached id)

/-- The counter has reached 0 in OFFERING or UP (R171; log entry 28). -/
def State.alignmentLost (s : State) (id : LinkId) : State :=
  if (s.link id).assembles then (s.leaves id).updLink id (·.restart .aligning) else s

def execAlignmentLost (id : LinkId) (s : State) : Out := .next (s.alignmentLost id)

/-! ## OFFER (R172 to R174) -/

/-- The next OFFER of a link in OFFERING, one each 10 µs (R172). -/
def State.offerSend (s : State) (id : LinkId) : State :=
  let x := s.link id
  if x.state = .offering ∧ x.sending = none then
    let s := { s with dev := s.dev.reach x.offerAt }
    s.setLink id { x with sending := some { cell := s.port.offerCell x.seen, resetReply := false }
                          offerAt := s.dev.now + 10 * Config.unitsPerMicro }
  else s

def execOfferSend (id : LinkId) (s : State) : Out := .next (s.offerSend id)

/-- The port reports the bench link UP to the Stream Intake (R98, R174). -/
def State.announce (s : State) : State := { s with dev := { s.dev with intake := s.dev.intake.announce } }

/-- The link becomes UP (R173). -/
def State.becomesUp (s : State) (id : LinkId) (rate : Nat) : State :=
  let s := (s.count id LinkCounters.addUp).updLink id fun x =>
    { x with state := .up, rate := some (min 2 rate), answerDue := true }
  match id with
  | .bench => s.announce
  | .chain => s

/-- A peer OFFER with seen clear taken in UP: the peer begins again (R173; log entry 20). -/
def State.upAnew (s : State) (id : LinkId) : State :=
  let s := s.updLink id fun x => { x with answerDue := true }
  match id with
  | .bench => ({ s with port := { s.port with held := false } }).count .bench LinkCounters.addUp |>.announce
  | .chain => { s with port := { s.port with holdSent := false, flowPlace := none } }

/-- A peer OFFER that passed R177 (R173, R208). -/
def State.takeOffer (s : State) (id : LinkId) (c : Cell) : State :=
  let server := c.wordA.getLsbD 8
  let peerSeen := c.wordB.getLsbD 24
  if id = .chain ∧ server = true then s.count .chain LinkCounters.addRoleErr
  else
    let state := (s.link id).state
    let s := s.updLink id fun x =>
      { x with peerServer := some server, peerAddr := some (addressOf c.addr), seen := true }
    if state = .offering ∧ peerSeen = true then s.becomesUp id (c.wordA.extractLsb' 0 8).toNat
    else if state = .up ∧ peerSeen = false then s.upAnew id
    else s

/-! ## Cells taken (R178 to R183) -/

/-- A cell to be forwarded (R180). -/
def State.forwardCell (s : State) (c : Cell) : State :=
  let p := s.port
  if p.chain.state = .up ∧ p.forward.length < 32 then { s with port := { p with forward := p.forward ++ [c] } }
  else { s with port := { p with counters := { p.counters with fwdDrop := satInc p.counters.fwdDrop } } }

/-- A request joins the request queue, or is lost (R188). -/
def Agent.arrive (a : Agent) (r : Request) : Agent :=
  if a.requests.length < 16 then { a with requests := a.requests ++ [r] }
  else { a with reqDropped := satInc a.reqDropped, lost := true, lostCount := satByte a.lostCount }

/-- A cell for this unit handed to its owning block (R179). -/
def State.ownCell (s : State) (c : Cell) : State :=
  if c.kind = 0x01 then { s with dev := s.dev.takeSample c.wordA c.wordB (samplesOf c.payload) }
  else if c.kind = 0x02 then { s with dev := s.dev.takeStreamEnd c.wordA c.wordB }
  else if c.kind = 0x03 then { s with dev := s.dev.takeClipData c.wordA c.wordB.toNat c.payload }
  else { s with agent := s.agent.arrive { tag := c.wordA.extractLsb' 8 8, kind := c.wordA.extractLsb' 0 8,
                                          payload := c.payload } }

/-- Whether a cell carries this unit's own address (R179). -/
def Port.owns (p : Port) (addr : Byte) : Bool :=
  match p.address with
  | none => false
  | some a => a.val = addressOf addr

/-- A downstream cell of an addressed kind disposed of by its address (R179). -/
def State.addressed (s : State) (c : Cell) : State :=
  if s.port.owns c.addr then s.ownCell c
  else if addressOf c.addr = 15 then (s.ownCell c).forwardCell c
  else s.forwardCell c

/-- FLOW(LINK) on the bench link (R183, R208). -/
def State.takeFlowLink (s : State) (c : Cell) : State :=
  { s with port := { s.port with held := c.wordB.getLsbD 24 } }

/-- The chain hold test after an arrival: GO and 24 cells (R182). -/
def Port.holdTest (p : Port) : Port :=
  if p.holdSent = false ∧ p.merge.length = 24 then { p with holdSent := true, flowPlace := some true } else p

/-- The chain hold test after a grant: HOLD and 8 cells (R182). -/
def Port.releaseTest (p : Port) : Port :=
  if p.chain.state = .up ∧ p.holdSent = true ∧ p.merge.length = 8 then
    { p with holdSent := false, flowPlace := some false }
  else p

/-- An upstream cell from the chain link (R181). -/
def State.mergeCell (s : State) (c : Cell) : State :=
  let p := s.port
  if p.merge.length < 32 then { s with port := ({ p with merge := p.merge ++ [c] }).holdTest }
  else { s with port := { p with counters := { p.counters with mergeDrop := satInc p.counters.mergeDrop } } }

/-- A cell that passed every check, taken by the link (R178). -/
def State.takeCell (s : State) (id : LinkId) (c : Cell) : State :=
  if c.kind = 0x0F then s.takeOffer id c
  else match id with
    | .chain => s.mergeCell c
    | .bench => if c.kind = 0x0C then s.takeFlowLink c else s.addressed c

/-- A whole cell with a good CRC received on a link in OFFERING or UP: checks 3 to 5 of R177, then taken. -/
def State.receiveCell (s : State) (id : LinkId) (c : Cell) : State :=
  if (s.link id).assembles then
    match cellFault id (s.link id).state c with
    | some f => s.count id f
    | none => (s.count id LinkCounters.addIn).takeCell id c
  else s

/-- A cell closed by END: all the checks of R177. -/
def State.closeCell (s : State) (id : LinkId) (bytes : List Byte) : State :=
  if bytes.length < 10 then s.count id LinkCounters.addLenErr
  else if crcOf bytes ≠ 0x1D0F then s.count id LinkCounters.addCrcErr
  else s.receiveCell id (cellOf bytes)

def execOffer (id : LinkId) (addr : Byte) (wordA : BitVec 16) (wordB : BitVec 32) (s : State) : Out :=
  .next (s.receiveCell id { kind := 0x0F, addr := addr, wordA := wordA, wordB := wordB, payload := [] })

def execSample (addr : Byte) (tag : BitVec 16) (q : Seq) (payload : List Byte) (s : State) : Out :=
  .next (s.receiveCell .bench { kind := 0x01, addr := addr, wordA := tag, wordB := q, payload := payload })

def execStreamEnd (addr : Byte) (tag : BitVec 16) (final : Seq) (s : State) : Out :=
  .next (s.receiveCell .bench { kind := 0x02, addr := addr, wordA := tag, wordB := final, payload := [] })

def execClipData (addr : Byte) (wordA : BitVec 16) (index : BitVec 32) (payload : List Byte) (s : State) : Out :=
  .next (s.receiveCell .bench { kind := 0x03, addr := addr, wordA := wordA, wordB := index, payload := payload })

def execRequest (addr tag kind : Byte) (wordB : BitVec 32) (payload : List Byte) (s : State) : Out :=
  .next (s.receiveCell .bench { kind := 0x04, addr := addr, wordA := tag ++ kind, wordB := wordB, payload := payload })

def execFlowLink (addr : Byte) (wordB : BitVec 32) (s : State) : Out :=
  .next (s.receiveCell .bench { kind := 0x0C, addr := addr, wordA := 0, wordB := wordB, payload := [] })

def execChainUpstreamCell (c : Cell) (s : State) : Out := .next (s.receiveCell .chain c)

/-! ## The transmitters (R180, R184, R186) -/

/-- The sending of a cell begins on a link. -/
def State.send (s : State) (id : LinkId) (c : Cell) (resetReply : Bool) : State :=
  s.updLink id fun x => { x with sending := some { cell := c, resetReply := resetReply } }

/-- An OFFER due as an answer is sent ahead of any other cell (R173). -/
def State.sendAnswer (s : State) (id : LinkId) : State :=
  (s.send id (s.port.offerCell (s.link id).seen) false).updLink id fun x => { x with answerDue := false }

/-- The chain transmitter, free while the chain link is UP, sends its next cell (R180). -/
def State.chainTransmit (s : State) : State :=
  let p := s.port
  if p.chain.state = .up ∧ p.chain.sending = none then
    if p.chain.answerDue then s.sendAnswer .chain
    else match p.flowPlace with
      | some hold => ({ s with port := { p with flowPlace := none } }).send .chain (p.flowCell 0 hold) false
      | none =>
        match p.forward with
        | [] => s
        | c :: rest => ({ s with port := { p with forward := rest } }).send .chain c false
  else s

def execChainTransmit (s : State) : Out := .next s.chainTransmit

/-- Whether a rotating class is ready (R184). -/
def State.classReady (s : State) : Class → Bool
  | .reply => !s.agent.replies.isEmpty
  | .notice => s.dev.notices.sendReady s.dev.now
  | .chain => !s.port.merge.isEmpty

/-- The ring after a mark: REPLY, NOTICE, CHAIN, REPLY (R184). -/
def ringAfter : Class → List Class
  | .reply => [.notice, .chain, .reply]
  | .notice => [.chain, .reply, .notice]
  | .chain => [.reply, .notice, .chain]

/-- The Notice Queue after its cell is built (R198). -/
def NoticeBox.sent (b : NoticeBox) : NoticeBox :=
  { b with queue := [], urgent := false, lost := false, lostCount := 0, cells := satInc b.cells }

/-- A grant of a rotating class: its oldest cell leaves its queue and its sending begins (R184, R190, R198, R181). -/
def State.grant (s : State) (k : Class) : State :=
  let s := { s with port := { s.port with mark := k } }
  match k with
  | .reply =>
    match s.agent.replies with
    | [] => s
    | r :: rest => ({ s with agent := { s.agent with replies := rest } }).send .bench (s.port.replyCell r) (r.kind = 0x72)
  | .notice =>
    ({ s with dev := { s.dev with notices := s.dev.notices.sent } }).send .bench (s.port.noticeCell s.dev.notices) false
  | .chain =>
    match s.port.merge with
    | [] => s
    | c :: rest => ({ s with port := ({ s.port with merge := rest }).releaseTest }).send .bench c false

/-- A grant of FLOW: the oldest outbox entry (R97, R184). -/
def State.grantFlow (s : State) (e : FlowEntry) (rest : List FlowEntry) : State :=
  ({ s with dev := { s.dev with intake := { s.dev.intake with outbox := rest } } }).send .bench
    (s.port.flowCell e.subjectWord e.hold) false

/-- The upstream arbiter at a free transmitter of an UP bench link (R173, R184). -/
def State.upstreamGrant (s : State) : State :=
  if s.port.bench.state = .up ∧ s.port.bench.sending = none then
    if s.port.bench.answerDue then s.sendAnswer .bench
    else match s.dev.intake.outbox with
      | e :: rest => s.grantFlow e rest
      | [] =>
        if s.port.held then s
        else match (ringAfter s.port.mark).find? s.classReady with
          | none => s
          | some k => s.grant k
  else s

def execUpstreamGrant (s : State) : Out := .next s.upstreamGrant

/-- A sending completes (R186); the end of the UNIT_RESET reply is noted (R192; log entry 22). -/
def State.cellSent (s : State) (id : LinkId) : State :=
  match (s.link id).sending with
  | none => s
  | some x =>
    let s := (s.count id LinkCounters.addOut).updLink id fun y => { y with sending := none }
    if x.resetReply then { s with agent := { s.agent with resetSent := true } } else s

def execCellSent (id : LinkId) (s : State) : Out := .next (s.cellSent id)

/-! ## Symbols (R170, R175) -/

/-- The alignment counter after a symbol (R170). -/
def alignStep (counter : Nat) : Symbol → Nat
  | .codeError => counter - 3
  | _ => min 15 (counter + 1)

/-- The longest cell: header, payload and CRC (R207). -/
def longestCell : Nat := 266

def State.setReceiving (s : State) (id : LinkId) (bytes : Option (List Byte)) : State :=
  s.updLink id fun x => { x with receiving := bytes }

/-- A cell discarded and counted; the receiver waits for the next START (R175). -/
def State.discard (s : State) (id : LinkId) (f : LinkCounters → LinkCounters) : State :=
  (s.count id f).setReceiving id none

/-- A symbol outside a cell (R175). -/
def State.symbolOutside (s : State) (id : LinkId) : Symbol → State
  | .start => s.setReceiving id (some [])
  | .stop => s.count id LinkCounters.addFrameErr
  | .data _ | .idle | .codeError => s

/-- A symbol inside a cell (R175). -/
def State.symbolInside (s : State) (id : LinkId) (bytes : List Byte) : Symbol → State
  | .start => (s.count id LinkCounters.addFrameErr).setReceiving id (some [])
  | .stop => (s.setReceiving id none).closeCell id bytes
  | .idle => s.discard id LinkCounters.addFrameErr
  | .codeError => s.discard id LinkCounters.addCodeErr
  | .data b =>
    if longestCell ≤ bytes.length then s.discard id LinkCounters.addLenErr
    else s.setReceiving id (some (bytes ++ [b]))

/-- The receiver of a link that assembles cells takes a symbol (R175). -/
def State.assemble (s : State) (id : LinkId) (x : Symbol) : State :=
  match (s.link id).receiving with
  | none => s.symbolOutside id x
  | some bytes => s.symbolInside id bytes x

/-- A symbol on a link in OFFERING or UP: the alignment counter steps, the symbol acts on the cells, and a counter at 0
loses alignment (R170, R171). -/
def State.withSymbol (s : State) (id : LinkId) (x : Symbol) (act : State → State) : State :=
  let n := alignStep (s.link id).counter x
  let s := act (s.updLink id fun y => { y with counter := n })
  if n = 0 then s.alignmentLost id else s

/-- One decoded symbol: the counter steps, a link in OFFERING or UP assembles its cell, and a counter that reaches 15
in ALIGNING or 0 in OFFERING or UP moves the link (R170, R171, R175; log entry 19). -/
def State.decodedSymbol (s : State) (id : LinkId) (x : Symbol) : State :=
  match (s.link id).state with
  | .down => s
  | .aligning =>
    let n := alignStep (s.link id).counter x
    let s := s.updLink id fun y => { y with counter := n }
    if n = 15 then s.alignmentReached id else s
  | .offering | .up => s.withSymbol id x fun s => s.assemble id x

def execDecodedSymbol (id : LinkId) (x : Symbol) (s : State) : Out := .next (s.decodedSymbol id x)

/-! ## Bad cells (R175, R177) -/

/-- Why a closed cell is discarded: the counter of the first check of R177 that fails. -/
def closedFault (id : LinkId) (state : LinkState) (bytes : List Byte) : Option (LinkCounters → LinkCounters) :=
  if bytes.length < 10 then some LinkCounters.addLenErr
  else if crcOf bytes ≠ 0x1D0F then some LinkCounters.addCrcErr
  else cellFault id state (cellOf bytes)

/-- A bad cell discarded and counted, on a link that assembles cells: what R175's table gives the symbol that cuts the cell
off, or R177 a closed cell that fails a check; one that passes every check is no bad cell (log entry 19). -/
def State.badCell (s : State) (id : LinkId) (bad : BadCell) : State :=
  if (s.link id).assembles then
    match bad with
    | .startInside => s.symbolInside id [] .start
    | .idleInside => s.symbolInside id [] .idle
    | .endOutside => s.symbolOutside id .stop
    | .codeErrorInside => s.withSymbol id .codeError fun s => s.symbolInside id [] .codeError
    | .tooLong => s.discard id LinkCounters.addLenErr
    | .closed bytes =>
      match closedFault id (s.link id).state bytes with
      | none => s
      | some f => s.discard id f
  else s

def execBadCell (id : LinkId) (bad : BadCell) (s : State) : Out := .next (s.badCell id bad)

/-! ## LINK_STATUS (R187) -/

def roleCode (server : Bool) : Nat := if server then 1 else 0

def linkBytes (x : Link) : List Byte :=
  b8 (linkStateCode x.state) ++ b32 x.counter ++ bFlag x.seen ++ bOpt8 (x.peerServer.map roleCode) ++ bOpt8 x.peerAddr
    ++ bOpt8 x.rate ++ bFlag x.answerDue

/-- The unit address, whose width R209 does not give, takes 1 byte as in IDENTIFY (log entry 12). -/
def opLinkStatus : Op := fun _ _ s =>
  let p := s.port
  answer [.one (linkBytes p.bench ++ linkBytes p.chain ++ bOpt8 (p.address.map Fin.val) ++ b8 (originCode p.origin)
    ++ bFlag p.held ++ bFlag p.holdSent ++ bOpt8 (p.flowPlace.map fun h => if h then 1 else 0)
    ++ b32 p.forward.length ++ b32 p.merge.length ++ bFlag (!s.dev.intake.outbox.isEmpty)
    ++ bFlag (s.classReady .reply) ++ bFlag (s.classReady .notice) ++ bFlag (s.classReady .chain)
    ++ b8 (classCode p.mark))] s

def execLinkStatus (s : State) : Out := .next (requestStep 0x70 opLinkStatus s)

end Sys2Proof.Machine
end

