-- ==== Sys2Proof/Machine/Management.lean ====
section
/-!
DEFINITION. The Management Agent's own operations: STATS_READ, NOTICE_CONFIG, the Identity Store and IDENTIFY, a
request of no known kind, and the Agent's timers (09).
-/
namespace Sys2Proof.Machine

/-! ## STATS_READ (R80, R116, R186, R205) -/

/-- The groups of STATS_READ. -/
inductive Group where
  | intake
  | clip
  | link
  | agent
deriving DecidableEq, Repr

def groupAt (p : List Byte) (i : Nat) : Option Group :=
  match u8 p i with
  | 0 => some .intake
  | 1 => some .clip
  | 2 => some .link
  | 3 => some .agent
  | _ => none

def slotCounterBytes (x : Slot) : List Byte :=
  b8 (slotStateCode x.state) ++ b32 x.counters.accepted ++ b32 x.counters.late ++ b32 x.counters.stale
    ++ b32 x.counters.overQuota ++ b32 x.counters.poolEmpty ++ b32 x.counters.gapVoids ++ b32 x.counters.pastEnd
    ++ b32 x.counters.underrun

def intakeStats (k : Intake) : List Item :=
  [.one (b32 k.unknownTag ++ b32 k.closedStream ++ b32 k.pool.free ++ b32 k.pool.reserve ++ b32 k.pool.hysteresis),
   .many (k.slots.toList.map slotCounterBytes)]

/-- A busy load slot: its clip, received count and N (R116). -/
def loadStats (k : ClipStore) (x : LoadSlot) : List Byte :=
  b16 x.clip.val ++ b32 x.received.length ++ b32 (cellsFor (k.clips.get x.clip).length)

/-- The busy load slots stand with load slot 0 before load slot 1: R116 gives no order, and this is the model's choice (log
entry 12). -/
def clipStats (k : ClipStore) : List Item :=
  [.one (b32 k.counters.notLoading ++ b32 k.counters.badIndex ++ b32 k.counters.duplicate ++ b32 k.counters.cellsWritten
    ++ b32 (pagesOf k.freeList) ++ b32 k.freeList.length),
   .many ((k.loadSlots.toList.filterMap id).map (loadStats k))]

/-- The counters of one link in the order of R186; ROLE_ERR is kept for the chain link alone. -/
def linkStats (c : LinkCounters) (chain : Bool) : List Byte :=
  b32 c.crcErr ++ b32 c.lenErr ++ b32 c.codeErr ++ b32 c.frameErr ++ b32 c.kindErr ++ b32 c.notUpDrop
    ++ (if chain then b32 c.roleErr else []) ++ b32 c.txAbort ++ b32 c.upCount ++ b32 c.lossCount ++ b32 c.cellsIn
    ++ b32 c.cellsOut

def portStats (p : Port) : List Item :=
  [.one (linkStats p.bench.counters false ++ linkStats p.chain.counters true ++ b32 p.counters.fwdDrop
    ++ b32 p.counters.fwdFlush ++ b32 p.counters.mergeDrop ++ b32 p.counters.mergeFlush)]

def agentStats (a : Agent) (b : NoticeBox) (now : Nat) : List Item :=
  [.one (b32 a.reqTaken ++ b32 a.reqDropped ++ b32 b.dropped ++ b32 b.cells ++ b32 a.requests.length
    ++ b32 a.replies.length ++ b32 b.queue.length ++ bFlag a.lost ++ b32 a.lostCount ++ bFlag b.lost ++ b32 b.lostCount
    ++ b16 b.batch ++ b16 b.holdoff ++ b8 b.urgentLevel ++ bFlag b.urgent ++ bFlag (b.sendReady now)
    ++ bFlag a.resetWait)]

def opStatsRead : Op := needs 1 fun _ p s =>
  match groupAt p 0 with
  | none => refuse .badField s
  | some .intake => answer (intakeStats s.dev.intake) s
  | some .clip => answer (clipStats s.dev.clips) s
  | some .link => answer (portStats s.port) s
  | some .agent => answer (agentStats s.agent s.dev.notices s.dev.now) s

def execStatsRead (s : State) : Out := .next (requestStep 0x36 opStatsRead s)

/-! ## NOTICE_CONFIG (R199) and the holdoff timer (R197) -/

def opNoticeConfig : Op := needs 5 fun _ p s =>
  if u16 p 0 < 1 ∨ 32 < u16 p 0 ∨ u8 p 4 < 1 ∨ 8 < u8 p 4 then refuse .outOfRange s
  else done { s.dev with notices := { s.dev.notices with batch := u16 p 0, holdoff := u16 p 2, urgentLevel := u8 p 4 } }

def execNoticeConfig (s : State) : Out := .next (requestStep 0x71 opNoticeConfig s)

/-- The oldest entry has waited for the holdoff (R197). -/
def Device.holdoffExpires (d : Device) : Device :=
  match d.notices.queue with
  | [] => d
  | oldest :: _ => d.reach (oldest.joined + d.notices.holdoff * Config.unitsPerMicro)

def execNoticeHoldoffExpiry (s : State) : Out := .next { s with dev := s.dev.holdoffExpires }

/-! ## The Identity Store (R200 to R204) -/

/-- Checks 2 and 3 of R202: the value by its field. -/
def storeValueCheck (field : Fin 10) (value : Int) : Option Result :=
  if field.val = 0 then if 0 ≤ value ∧ value ≤ 14 then none else some .outOfRange
  else if field.val = 9 then if value = 1 then none else some .badField
  else if -60 ≤ value ∧ value ≤ 60 then none else some .outOfRange

/-- Checks 2 to 6 of R202; `none` where all pass. -/
def IdentityStore.programCheck (k : IdentityStore) (field : Fin 10) (value : Int) : Option Result :=
  match storeValueCheck field value with
  | some r => some r
  | none =>
    if k.lock = true then some .locked
    else if k.program.isSome then some .busy
    else if (k.fields.get field).marked then some .busy
    else none

/-- The program time, 4 ms (R202). -/
def programTime : Nat := 4000 * Config.unitsPerMicro

def opStoreProgram : Op := needs 3 fun _ p s =>
  match fin? 10 (u8 p 0) with
  | none => refuse .outOfRange s
  | some field =>
    match s.dev.store.programCheck field (s16 p 1) with
    | some r => refuse r s
    | none =>
      { result := .accepted, data := []
        dev := { s.dev with store := { s.dev.store with
          program := some { field := field, value := s16 p 1, endsAt := s.dev.now + programTime } } } }

def execStoreProgram (s : State) : Out := .next (requestStep 0x74 opStoreProgram s)

/-- The program timer expires: the field takes its value and mark, and STORE_DONE is handed on (R203). -/
def Device.programExpires (d : Device) : Device :=
  match d.store.program with
  | none => d
  | some x =>
    let d := d.reach x.endsAt
    ({ d with store := { d.store with
        fields := put d.store.fields x.field { value := x.value, marked := true }, program := none } }).handNotice
      .storeDone x.field.val 0 (resultCode .ok)

def execProgramTimerExpiry (s : State) : Out := .next { s with dev := s.dev.programExpires }

def fieldBytes (x : StoreField) : List Byte := b16s x.value ++ bFlag x.marked

def programBytes (x : Option Programming) (now : Nat) : List Byte :=
  match x with
  | none => b8 0 ++ bOpt8 none ++ bOpt16 none ++ bWord (Config.remainingCode none)
  | some y => b8 1 ++ b8 y.field.val ++ b16s y.value ++ bWord (Config.remainingCode (some (y.endsAt - now)))

/-- The ten fields stand one after another with no count before them (R204; log entry 12). -/
def opStoreRead : Op := fun _ _ s =>
  answer [.one (s.dev.store.fields.toList.flatMap fieldBytes ++ programBytes s.dev.store.program s.dev.now)] s

def execStoreRead (s : State) : Out := .next (requestStep 0x75 opStoreRead s)

/-- ZP-1620 in character codes. -/
def partName : List Nat := [0x5A, 0x50, 0x2D, 0x31, 0x36, 0x32, 0x30]

/-- Zembor in character codes. -/
def familyName : List Nat := [0x5A, 0x65, 0x6D, 0x62, 0x6F, 0x72]

/-- The eight trims stand one after another with no count before them, and the unit address takes 1 byte, for which R209 gives
no sort: both are the model's choice (R204; log entry 12). -/
def opIdentify : Op := fun _ _ s =>
  answer [.one (bName partName ++ bName familyName ++ b8 1 ++ bOpt8 (s.port.address.map Fin.val)
    ++ b8 (originCode s.port.origin) ++ s.dev.lanes.toList.flatMap (fun x => b16s x.trim) ++ bFlag s.dev.store.lock)] s

def execIdentify (s : State) : Out := .next (requestStep 0x76 opIdentify s)

/-! ## A request of no known kind (R189, R191) -/

/-- Check 1 of R209: a kind byte that names no request kind is answered BAD_KIND. -/
def unknownKindStep (s : State) : State :=
  match s.agent.take with
  | none => s
  | some (r, a) =>
    if requestKinds.contains r.kind then s else { s with agent := a.reply r .badKind [] }

def execUnknownRequestKind (s : State) : Out := .next (unknownKindStep s)

end Sys2Proof.Machine
end

