-- ==== Sys2Proof/Machine/Resets.lean ====
section
/-!
DEFINITION. The three resets: cold reset with the values loaded from the Identity Store (R201), the UNIT_RESET request
and the unit reset it brings (R192, R193, R185, R96, R120), and PLAYBACK_CLEAR (R194).
-/
namespace Sys2Proof.Machine

/-! ## Cold reset (00 section 6.10, R201) -/

/-- The unit address of the straps; 15 leaves the unit without one (R179). -/
def strapAddress (straps : BitVec 4) : Option (Fin 15) := fin? 15 straps.toNat

/-- The effective unit address with its origin (R201). -/
def IdentityStore.address (k : IdentityStore) (straps : BitVec 4) : Option (Fin 15) × Origin :=
  if (k.fields.get 0).marked then (fin? 15 (k.fields.get 0).value.toNat, .store)
  else (strapAddress straps, if (strapAddress straps).isSome then .straps else .none)

/-- The effective trim of a lane (R201). -/
def IdentityStore.trim (k : IdentityStore) (l : Fin 8) : Int :=
  let f := k.fields.get ⟨1 + l.val, by omega⟩
  if f.marked then f.value else 0

/-- The store after a cold reset: its contents kept, programming ended, the effective lock loaded (R201, R203). -/
def IdentityStore.coldReset (k : IdentityStore) : IdentityStore :=
  { k with program := none, lock := (k.fields.get 9).marked }

/-- A cold reset (R201): every block at its cold reset values; the contents of clip memory become undefined (R101). -/
def State.coldReset (s : State) (straps inputs : BitVec 4) : State :=
  let k := s.dev.store
  { s with
    dev := Device.reset s.dev.now (s.dev.coldResets + 1) (Vector.ofFn k.trim) k.coldReset inputs
    port := Port.reset (k.address straps).1 (k.address straps).2
    agent := Agent.reset }

def execColdReset (straps inputs : BitVec 4) (s : State) : Out := .next (s.coldReset straps inputs)

/-! ## UNIT_RESET (R192) -/

/-- UNIT_RESET taken: its reply is placed, and the Agent enters the reset wait. -/
def unitResetStep (s : State) : State :=
  match s.agent.take with
  | none => s
  | some (r, a) =>
    if r.kind = 0x72 then { s with agent := { a.reply r .ok [] with resetWait := true, resetSent := false } } else s

def execUnitReset (s : State) : Out := .next (unitResetStep s)

/-! ## The unit reset performed (R192) -/

/-- The Stream Intake at a unit reset: all cleared, and one pool GO cell if the pool was holding (R55, R59, R78, R96). -/
def Intake.unitReset (k : Intake) : Intake := if k.pool.hold then Intake.reset.queuePoolFlow false else Intake.reset

/-- LOADING clips are aborted, READY clips kept, counters zeroed (R120). -/
def ClipStore.unitReset (k : ClipStore) : ClipStore :=
  let k := (List.finRange 256).foldl (fun k c => if (k.clips.get c).state = .loading then k.removeClip c else k) k
  { k with counters := ClipCounters.zero }

/-- The blocks at a unit reset. The lane trims, the clips and the Identity Store are kept. -/
def Device.unitReset (d : Device) (inputs : BitVec 4) : Device :=
  { Device.reset d.now d.coldResets (d.lanes.map Lane.trim) d.store inputs with
    intake := d.intake.unitReset, clips := d.clips.unitReset }

/-- A link at a unit reset: its state kept, its counters zeroed, and a cell being received goes on being received (R185; log
entry 34). -/
def Link.unitReset (x : Link) : Link := { x with counters := LinkCounters.zero }

/-- The port at a unit reset (R185). -/
def Port.unitReset (p : Port) : Port :=
  { p with bench := p.bench.unitReset, chain := p.chain.unitReset, held := false, holdSent := false,
           flowPlace := if p.holdSent then some false else p.flowPlace,
           forward := [], merge := [], mark := .chain, counters := PortCounters.zero }

/-- The Agent at a unit reset (R193). Its reply queue is empty by then (R192). -/
def Agent.unitReset (a : Agent) : Agent := { Agent.reset with replies := a.replies }

/-- Whether the sending of the UNIT_RESET reply is the moment: it has ended, or ends now (R192; log entry 22). -/
def State.resetDue (s : State) : Bool :=
  s.agent.resetWait && (s.agent.resetSent || match s.port.bench.sending with
    | none => false
    | some x => x.resetReply)

/-- The reply's sending ends, if it has not, and every block takes its unit reset values at once (R192). -/
def State.performUnitReset (s : State) (inputs : BitVec 4) : State :=
  let s := if s.agent.resetSent then s else s.cellSent .bench
  { s with dev := s.dev.unitReset inputs, port := s.port.unitReset, agent := s.agent.unitReset }

def execUnitResetPerformed (inputs : BitVec 4) (s : State) : Out :=
  .next (if s.resetDue then s.performUnitReset inputs else s)

/-! ## PLAYBACK_CLEAR (R194) -/

/-- A slot at a playback clear (R59, R94). -/
def Slot.clear (x : Slot) : Slot := { x with state := .closed, queue := [], readers := [], hold := false }

/-- A waiting stream flow cell has its state set to GO in place (R94). -/
def FlowEntry.clear (e : FlowEntry) : FlowEntry :=
  match e.subject with
  | .slot _ => { e with hold := false }
  | .all => e

/-- The Stream Intake at a playback clear (R78, R94, R96). -/
def Intake.clear (k : Intake) : Intake :=
  let cleared := { k with slots := k.slots.map Slot.clear, outbox := k.outbox.map FlowEntry.clear,
                          pool := { k.pool with free := 4096, hold := false } }
  if k.pool.hold then cleared.queuePoolFlow false else cleared

/-- A lane at a playback clear, its voices at their reset values with cause CLEARED (R9, R31, R45). -/
def Lane.clear (x : Lane) : Lane := { x.stopped with voices := Vector.replicate 4 (Voice.reset (some .cleared)) }

/-- A meter at a playback clear (R161). -/
def Meter.clear (x : Meter) : Meter := { x.stop with result := none, fresh := false }

/-- A marker at a playback clear: as a LANE_STOP of its lane does (R154, R156, R157). -/
def Marker.clear (m : Marker) (wasFrozen : Bool) : Marker :=
  match m.condition.lane with
  | none => m
  | some _ => if wasFrozen then { m with startsDue := [], frozenHold := none, pulse := .none } else { m with startsDue := [] }

/-- Every block at a playback clear (R194). -/
def Device.playbackClear (d : Device) : Device :=
  { d with
    lanes := d.lanes.map Lane.clear
    intake := d.intake.clear
    cue := { d.cue with pending := Vector.replicate 126 none, stack := [] }
    markers := d.markers.map fun m => m.clear (d.markerFrozen m)
    meters := d.meters.map Meter.clear }

def opPlaybackClear : Op := fun _ _ s => done s.dev.playbackClear

def execPlaybackClear (s : State) : Out := .next (requestStep 0x73 opPlaybackClear s)

end Sys2Proof.Machine
end

