-- ==== Sys2Proof/Machine/Triggers.lean ====
section
/-!
DEFINITION. Triggers: TRIG_CONFIG, TRIG_STATUS and the tick of a qualifier (R149 to R153).
-/
namespace Sys2Proof.Machine

/-- The tick period of a code: 50 ns, 1 µs, 20 µs (R149). -/
def tickPeriod (code : Nat) : Nat :=
  match code with
  | 0 => Config.unitsPerFiftyNano
  | 1 => Config.unitsPerMicro
  | _ => 20 * Config.unitsPerMicro

/-- A TRIG_CONFIG stored (R152). -/
def Trigger.configure (x : Trigger) (now tick depth : Nat) (rise fall : Bool) : Trigger :=
  { x with
    tickCode := tick, depth := depth, riseEnable := rise, fallEnable := fall
    counter := if depth = x.depth ∧ tick = x.tickCode then x.counter else if x.filtered then depth else 0
    nextTick := if tick = x.tickCode then x.nextTick else now + tickPeriod tick }

def opTrigConfig : Op := needs 5 fun _ p s =>
  match fin? 4 (u8 p 0) with
  | none => refuse .outOfRange s
  | some n =>
    if 2 < u8 p 1 then refuse .badField s
    else if u8 p 2 < 1 ∨ 31 < u8 p 2 then refuse .outOfRange s
    else
      let x := (s.dev.triggers.get n).configure s.dev.now (u8 p 1) (u8 p 2) (flagAt p 3) (flagAt p 4)
      done { s.dev with triggers := put s.dev.triggers n x }

def execTrigConfig (s : State) : Out := .next (requestStep 0x60 opTrigConfig s)

/-- The lanes ARMED on a trigger (R39, R153). -/
def Device.armedOn (d : Device) (n : Fin 4) : List (Fin 8) :=
  (List.finRange 8).filter fun l => (d.lane l).state = .armed && (d.lane l).startMode = .trigger n

/-- A trigger record in reply data; the sample and the filtered level are flags, high 1 (R153; log entry 12). -/
def triggerBytes (x : Trigger) : List Byte :=
  b8 x.tickCode ++ b8 x.depth ++ bFlag x.riseEnable ++ bFlag x.fallEnable ++ bFlag x.sample ++ b32 x.counter
    ++ bFlag x.filtered ++ b32 x.riseCount ++ b32 x.fallCount

def opTrigStatus : Op := needs 1 fun _ p s =>
  match fin? 4 (u8 p 0) with
  | none => refuse .outOfRange s
  | some n =>
    answer [.one (triggerBytes (s.dev.triggers.get n)), .many ((s.dev.armedOn n).map fun l => b8 l.val)] s

def execTrigStatus (s : State) : Out := .next (requestStep 0x61 opTrigStatus s)

/-! ## The tick (R150, R151) -/

/-- The counter steps by the sample held, and the input is sampled again (R150). The next tick comes one period on. -/
def Trigger.step (x : Trigger) (high : Bool) : Trigger :=
  { x with
    counter := if x.sample then (if x.counter < x.depth then x.counter + 1 else x.counter) else x.counter - 1
    sample := high
    nextTick := x.nextTick + tickPeriod x.tickCode }

/-- Start due set on every lane ARMED on the trigger (R39). -/
def Device.markArmed (d : Device) (n : Fin 4) : Device :=
  { d with lanes := d.lanes.map fun x =>
      if x.state = .armed ∧ x.startMode = .trigger n then { x with startDue := true } else x }

/-- A qualified rise (R151). -/
def Device.rise (d : Device) (n : Fin 4) (x : Trigger) : Device :=
  let d := ({ d with triggers := put d.triggers n { x with filtered := true, riseCount := satInc x.riseCount } }).markArmed n
  if x.riseEnable then d.raise (srcTriggerRise n) 0 else d

/-- A qualified fall (R151). -/
def Device.fall (d : Device) (n : Fin 4) (x : Trigger) : Device :=
  let d := { d with triggers := put d.triggers n { x with filtered := false, fallCount := satInc x.fallCount } }
  if x.fallEnable then d.raise (srcTriggerFall n) 0 else d

/-- The tick of a trigger, with the input level it samples (R150). -/
def Device.tick (d : Device) (n : Fin 4) (high : Bool) : Device :=
  let old := d.triggers.get n
  let x := old.step high
  let d := d.reach old.nextTick
  if x.filtered = false ∧ x.counter = x.depth then d.rise n x
  else if x.filtered = true ∧ x.counter = 0 then d.fall n x
  else { d with triggers := put d.triggers n x }

def execTriggerTick (n : Fin 4) (high : Bool) (s : State) : Out := .next (s.withDev (s.dev.tick n high))

end Sys2Proof.Machine
end

