-- ==== Sys2Proof/Machine/Dispatch.lean ====
section
/-!
DEFINITION. One arm for each command.
-/
namespace Sys2Proof.Machine

/-- The command's effect on everything but the queue. -/
def exec (i : Instr) (s : State) : Host.Outcome State Fault Refusal :=
  match i with
  | .segWrite => Sys2Proof.Machine.execSegWrite s
  | .segHot via => Sys2Proof.Machine.execSegHot via s
  | .segRead => Sys2Proof.Machine.execSegRead s
  | .voiceStart via => Sys2Proof.Machine.execVoiceStart via s
  | .voiceStop via => Sys2Proof.Machine.execVoiceStop via s
  | .voiceGain via => Sys2Proof.Machine.execVoiceGain via s
  | .voiceStatus => Sys2Proof.Machine.execVoiceStatus s
  | .laneConfig => Sys2Proof.Machine.execLaneConfig s
  | .laneArm => Sys2Proof.Machine.execLaneArm s
  | .laneStart via => Sys2Proof.Machine.execLaneStart via s
  | .laneStop via => Sys2Proof.Machine.execLaneStop via s
  | .laneFreeze via => Sys2Proof.Machine.execLaneFreeze via s
  | .laneResume via => Sys2Proof.Machine.execLaneResume via s
  | .laneQuiet => Sys2Proof.Machine.execLaneQuiet s
  | .laneCompareSet => Sys2Proof.Machine.execLaneCompareSet s
  | .laneStatus => Sys2Proof.Machine.execLaneStatus s
  | .domainSet => Sys2Proof.Machine.execDomainSet s
  | .domainStatus => Sys2Proof.Machine.execDomainStatus s
  | .tagWrite => Sys2Proof.Machine.execTagWrite s
  | .tagRead => Sys2Proof.Machine.execTagRead s
  | .streamOpen => Sys2Proof.Machine.execStreamOpen s
  | .streamClose => Sys2Proof.Machine.execStreamClose s
  | .streamStatus => Sys2Proof.Machine.execStreamStatus s
  | .poolConfig => Sys2Proof.Machine.execPoolConfig s
  | .statsRead => Sys2Proof.Machine.execStatsRead s
  | .clipOpen => Sys2Proof.Machine.execClipOpen s
  | .clipSeal => Sys2Proof.Machine.execClipSeal s
  | .clipAbort => Sys2Proof.Machine.execClipAbort s
  | .clipDelete => Sys2Proof.Machine.execClipDelete s
  | .clipStatus => Sys2Proof.Machine.execClipStatus s
  | .clipSpace => Sys2Proof.Machine.execClipSpace s
  | .mapWrite => Sys2Proof.Machine.execMapWrite s
  | .mapRead => Sys2Proof.Machine.execMapRead s
  | .mapArm via => Sys2Proof.Machine.execMapArm via s
  | .mapDisarm via => Sys2Proof.Machine.execMapDisarm via s
  | .cueThreshold => Sys2Proof.Machine.execCueThreshold s
  | .listWrite => Sys2Proof.Machine.execListWrite s
  | .listRead => Sys2Proof.Machine.execListRead s
  | .cueWrite => Sys2Proof.Machine.execCueWrite s
  | .cueRead => Sys2Proof.Machine.execCueRead s
  | .cueRaise via => Sys2Proof.Machine.execCueRaise via s
  | .cueAbort => Sys2Proof.Machine.execCueAbort s
  | .cueStatus => Sys2Proof.Machine.execCueStatus s
  | .trigConfig => Sys2Proof.Machine.execTrigConfig s
  | .trigStatus => Sys2Proof.Machine.execTrigStatus s
  | .markerConfig => Sys2Proof.Machine.execMarkerConfig s
  | .markerSet via => Sys2Proof.Machine.execMarkerSet via s
  | .markerStatus => Sys2Proof.Machine.execMarkerStatus s
  | .meterConfig => Sys2Proof.Machine.execMeterConfig s
  | .meterStart via => Sys2Proof.Machine.execMeterStart via s
  | .meterStop via => Sys2Proof.Machine.execMeterStop via s
  | .meterRead => Sys2Proof.Machine.execMeterRead s
  | .linkStatus => Sys2Proof.Machine.execLinkStatus s
  | .noticeConfig => Sys2Proof.Machine.execNoticeConfig s
  | .unitReset => Sys2Proof.Machine.execUnitReset s
  | .playbackClear => Sys2Proof.Machine.execPlaybackClear s
  | .storeProgram => Sys2Proof.Machine.execStoreProgram s
  | .storeRead => Sys2Proof.Machine.execStoreRead s
  | .identify => Sys2Proof.Machine.execIdentify s
  | .unknownRequestKind => Sys2Proof.Machine.execUnknownRequestKind s
  | .nop => Sys2Proof.Machine.execNop s
  | .wait => Sys2Proof.Machine.execWait s
  | .notice => Sys2Proof.Machine.execNotice s
  | .contextPop => Sys2Proof.Machine.execContextPop s
  | .blockBoundary l => Sys2Proof.Machine.execBlockBoundary l s
  | .laneStartsAtEdge l => Sys2Proof.Machine.execLaneStartsAtEdge l s
  | .frozenEdge l => Sys2Proof.Machine.execFrozenEdge l s
  | .settleTimerExpiry domain => Sys2Proof.Machine.execSettleTimerExpiry domain s
  | .triggerTick n h => Sys2Proof.Machine.execTriggerTick n h s
  | .pulseBegin n => Sys2Proof.Machine.execPulseBegin n s
  | .pulseEnd n => Sys2Proof.Machine.execPulseEnd n s
  | .noticeHoldoffExpiry => Sys2Proof.Machine.execNoticeHoldoffExpiry s
  | .programTimerExpiry => Sys2Proof.Machine.execProgramTimerExpiry s
  | .coldReset a b => Sys2Proof.Machine.execColdReset a b s
  | .unitResetPerformed b => Sys2Proof.Machine.execUnitResetPerformed b s
  | .signalPresent id => Sys2Proof.Machine.execSignalPresent id s
  | .signalAbsent id => Sys2Proof.Machine.execSignalAbsent id s
  | .alignmentReached id => Sys2Proof.Machine.execAlignmentReached id s
  | .alignmentLost id => Sys2Proof.Machine.execAlignmentLost id s
  | .offerSend id => Sys2Proof.Machine.execOfferSend id s
  | .badCell id x => Sys2Proof.Machine.execBadCell id x s
  | .offer id a w x => Sys2Proof.Machine.execOffer id a w x s
  | .sample a t q p => Sys2Proof.Machine.execSample a t q p s
  | .streamEnd a t f => Sys2Proof.Machine.execStreamEnd a t f s
  | .clipData addr wordA index payload => Sys2Proof.Machine.execClipData addr wordA index payload s
  | .request a t k x p => Sys2Proof.Machine.execRequest a t k x p s
  | .flowLink a x => Sys2Proof.Machine.execFlowLink a x s
  | .chainUpstreamCell c => Sys2Proof.Machine.execChainUpstreamCell c s
  | .chainTransmit => Sys2Proof.Machine.execChainTransmit s
  | .upstreamGrant => Sys2Proof.Machine.execUpstreamGrant s
  | .cellSent id => Sys2Proof.Machine.execCellSent id s
  | .decodedSymbol id x => Sys2Proof.Machine.execDecodedSymbol id x s

end Sys2Proof.Machine
end

