-- ==== Sys2Proof/Machine/Step.lean ====
section
/-!
DEFINITION. One step: the command at the front of the queue, or one idle cycle of the reference clock.
-/
namespace Sys2Proof.Machine

/-- Takes the command at the front of the queue and answers its outcome on the rest; with an empty queue the block
idles for one cycle of the reference clock (log entry 2). -/
def step (s : State) : Host.Outcome State Fault Refusal :=
  match s.pending with
  | [] => .next s.idle
  | c :: rest => exec c { s with pending := rest }

/-- The state with the command that a table word spells at the front of its queue; no row gives bits, so none does. -/
def State.withFetchWord (s : State) (nbits w : Nat) : State :=
  match Sys2Proof.decodeTableWord nbits w with
  | some c => { s with pending := c :: s.pending }
  | none => s

end Sys2Proof.Machine
end

