-- ==== Sys2Proof/Safety.lean ====
section
/-!
DEFINITION. The words that statements use: a command that finds its operands, the state an operation finds and the state
it leaves, and the properties that every step keeps.
-/
namespace Sys2Proof.Machine

/-! ## A command that finds its operands (log entry 1) -/

/-- The operands `p` of an operation of this kind are at hand: the oldest request is of this kind and the Agent may take
it (R189), or the next action of the RUNNING top context is of this kind (R133). -/
def asked (via : Via) (kind : Byte) (s : State) (p : List Byte) : Bool :=
  match via with
  | .request =>
    s.agent.replies.length < 8 && !s.agent.resetWait && match s.agent.requests with
      | [] => false
      | r :: _ => r.kind = kind && r.payload = p
  | .action =>
    match s.dev.cue.stack with
    | [] => false
    | top :: _ =>
      top.state = .running && top.index < (s.dev.cue.lists.get top.list).count
        && (s.dev.cue.actionAt top.list top.index).kind = kind && (s.dev.cue.actionAt top.list top.index).operands = p

/-- The state an operation finds: the request taken and counted (R189), or the action index raised (R133). -/
def begun (via : Via) (s : State) : State :=
  match via with
  | .request =>
    match s.agent.requests with
    | [] => s
    | _ :: rest => { s with agent := { s.agent with requests := rest, reqTaken := satInc s.agent.reqTaken } }
  | .action =>
    match s.dev.cue.stack with
    | [] => s
    | top :: rest =>
      { s with dev := { s.dev with cue := { s.dev.cue with stack := { top with index := top.index + 1 } :: rest } } }

/-- Who invokes the operation: the Agent, or the top context with its event source and its reference. -/
def callerOf (via : Via) (s : State) : Caller :=
  match via with
  | .request => .request
  | .action =>
    match s.dev.cue.stack with
    | [] => .request
    | top :: _ => .action top.source top.reference

/-- The reply of a request with the Agent's lost report (R190). -/
def replyOf (a : Agent) (r : Request) (result : Result) (data : List Byte) : Reply :=
  { tag := r.tag, kind := r.kind, result := result, data := data, lost := a.lost,
    lostCount := if a.lost then a.lostCount else 0 }

/-- The state an operation leaves: the blocks `d`; and a request's reply placed with the lost report sent (R190), or for a
refused action its CUE_FAULT notice handed to the Agent (R134). -/
def concluded (via : Via) (s : State) (d : Device) (result : Result) (data : List Byte) : State :=
  match via with
  | .request =>
    match s.agent.requests with
    | [] => s
    | r :: rest =>
      { s with
        dev := d
        agent := { s.agent with
          requests := rest, reqTaken := satInc s.agent.reqTaken
          replies := s.agent.replies ++ [replyOf s.agent r result data]
          lost := false, lostCount := 0 } }
  | .action =>
    match s.dev.cue.stack with
    | [] => s
    | top :: _ => { s with dev := if result = .ok then d else d.cueFault top.list top.index result }

/-! ## Cells on the links -/

/-- A cell of an addressed kind comes to this unit alone: the bench link is UP and the header holds this unit's own
address, which is not the broadcast address (R179). -/
def State.hears (s : State) (addr : Byte) : Bool := s.port.bench.state = .up && s.port.owns addr

/-- The port after a cell on a link has passed every check and nothing more is done with it: CELLS_IN rises (R186). -/
def State.heard (s : State) (id : LinkId) : State :=
  match id with
  | .bench => { s with port := { s.port with bench := { s.port.bench with
      counters := { s.port.bench.counters with cellsIn := satInc s.port.bench.counters.cellsIn } } } }
  | .chain => { s with port := { s.port with chain := { s.port.chain with
      counters := { s.port.chain.counters with cellsIn := satInc s.port.chain.counters.cellsIn } } } }

/-! ## Block edges -/

/-- `e` is the lane's next block edge (R33): whole block periods, at least one, after the lane's domain became READY, the
first at or after now that the lane has not taken (log entry 32). A block period is 64 samples at the reference clock of 125
units a cycle divided by the divider of the rate code. -/
def isNextEdge (d : Device) (l : Fin 8) (e : Nat) : Prop :=
  let x := d.domain (d.lane l).domain
  let divider := match x.rate with
    | 0 => 4
    | 1 => 6
    | 2 => 8
    | 3 => 12
    | 4 => 16
    | 5 => 24
    | 6 => 32
    | _ => 48
  let edge (k : Nat) : Nat := x.readyAt + k * (64 * divider * 125)
  (∃ k, 1 ≤ k ∧ e = edge k) ∧ d.now ≤ e ∧ (d.lane l).lastEdge < e ∧
    ∀ k, 1 ≤ k → d.now ≤ edge k → (d.lane l).lastEdge < edge k → e ≤ edge k

/-- The blocks at a lane's next block edge `e`, with the lane as `x`: the clock has come to the edge and the lane has taken
it. -/
def Device.atEdge (d : Device) (l : Fin 8) (e : Nat) (x : Lane) : Device :=
  { d with now := e, lanes := put d.lanes l { x with lastEdge := e } }

/-! ## Segments in a block -/

/-- How a segment begins on a voice by its source (R17, R22): with a binding it plays, or it fails with a cause. The claim is
that of the start, or the one a chain has just made. -/
def Device.bindingOf (d : Device) (f : Fixed) (claim : Option (Fin 16 × Nat)) : Except EndCause (Option Binding) :=
  match f.kind with
  | .none => .error .sourceFault
  | .silence => .ok none
  | .clip => if d.clipBinds f then .ok (some (.clip f.clip)) else .error .sourceFault
  | .stream =>
    match claim with
    | none => .error .noReader
    | some (s, index) => .ok (some (.stream s index))

/-! ## What every step keeps -/

/-- A lane's schedule holds at most 16 entries by non-decreasing stamp, and the entry of every pending start (R40, R9). -/
def Lane.scheduled (x : Lane) : Bool :=
  x.schedule.length ≤ 16 && (x.schedule.map Entry.stamp).Pairwise (· ≤ ·)
    && (List.finRange 4).all fun v => (x.voices.get v).pending.isNone || x.schedule.any (·.startsVoice v)

/-- A slot holds no more buffers than its quota (R69), and at most 8 readers with indices 0 to 7, each its own (R81). -/
def Slot.fits (x : Slot) : Bool :=
  x.held ≤ x.config.quota && x.readers.length ≤ 8 && x.readers.all (·.index < 8) && (x.readers.map Reader.index).Nodup

/-- The queues, sets and levels lie within the sizes and the orders that the manual gives them: 16 requests (R188), 8 replies
(R190), 32 notices, no two of one kind and source (R195, R196), 32 cells in each chain queue (R180, R181), 4 contexts whose
levels rise strictly to the top (R128), threshold 0 to 7 (R132), alignment counters 0 to 15 (R170), one waiting flow cell for
each subject (R97), and every lane's schedule and every slot within its own (R40, R69, R81). -/
def State.bounded (s : State) : Bool :=
  s.agent.requests.length ≤ 16 && s.agent.replies.length ≤ 8 && s.dev.notices.queue.length ≤ 32
    && (s.dev.notices.queue.map fun n => (n.kind, n.source)).Nodup
    && s.port.forward.length ≤ 32 && s.port.merge.length ≤ 32 && s.dev.cue.stack.length ≤ 4
    && (s.dev.cue.stack.map Context.level).Pairwise (· > ·)
    && s.dev.cue.threshold ≤ 7 && s.port.bench.counter ≤ 15 && s.port.chain.counter ≤ 15
    && (s.dev.intake.outbox.map FlowEntry.subject).Nodup
    && s.dev.lanes.toList.all Lane.scheduled && s.dev.intake.slots.toList.all Slot.fits

/-- The bytes of clip memory stand in canonical form (log entry 5). -/
def State.memoryCanonical (s : State) : Bool := Memory.wf s.dev.clips.memory

/-- How many of a list of extents cover a page. -/
def covers (extents : List Extent) (page : Nat) : Nat :=
  (extents.filter fun x => x.start ≤ page && page < x.start + x.count).length

/-- How often the clips together hold a page. -/
def ClipStore.clipCover (k : ClipStore) (page : Nat) : Nat :=
  (k.clips.toList.map fun x => covers x.extents page).sum

/-- The law of the Free Extent List: entries of 1 or more pages in rising order, none overlapping or adjacent, within the
65536 pages (R102). -/
def risesApart (low : Nat) : List Extent → Bool
  | [] => true
  | x :: rest => low ≤ x.start && 1 ≤ x.count && x.start + x.count ≤ 65536 && risesApart (x.start + x.count + 1) rest

/-- Every page of clip memory is in the Free Extent List or in one clip, and in one place only; the list keeps its law
(R102). Every extent of a clip has a page, and an EMPTY clip has no extents (R105). -/
def ClipStore.accounted (k : ClipStore) : Prop :=
  (∀ page, covers k.freeList page + k.clipCover page = if page < 65536 then 1 else 0) ∧
  risesApart 0 k.freeList = true ∧
  ∀ c : Fin 256, ((k.clips.get c).state = .empty → (k.clips.get c).extents = []) ∧
    ∀ x ∈ (k.clips.get c).extents, 1 ≤ x.count

/-- The buffers of the Cell Pool are free or held by a slot's DATA entries, 4096 in all; a slot that is not open has an
empty queue (R65, R76). -/
def Intake.accounted (k : Intake) : Prop :=
  k.pool.free + (k.slots.toList.map Slot.held).sum = 4096 ∧
  ∀ n : Fin 16, (k.slots.get n).isOpen = false → (k.slots.get n).queue = []

end Sys2Proof.Machine
end

