-- ==== Sys2Proof/WellFormed.lean ====
section
/-!
DEFINITION. Which commands are well formed: the lengths and the directions that their operands must have (R178, R207).
-/
namespace Sys2Proof

/-- A payload of whole words, 0 to 256 bytes (R207). -/
def wholeWords (payload : List Byte) : Bool := payload.length ≤ 256 && payload.length % 4 = 0

/-- An upstream cell: FLOW with a tag or ALL, REPLY, or NOTICE, each of its length (R178, R207). -/
def Cell.upstream (c : Cell) : Bool :=
  let entries := (c.wordA.extractLsb' 8 8).toNat
  if c.kind = 0x0C then c.wordA ≠ 0 && c.payload.isEmpty
  else if c.kind = 0x08 then wholeWords c.payload
  else c.kind = 0x09 && 1 ≤ entries && entries ≤ 32 && c.payload.length = 8 * entries

/-- The closed bytes of a bad cell are no longer than the longest cell (R175). -/
def BadCell.wellFormed : BadCell → Bool
  | .closed bytes => bytes.length ≤ 266
  | _ => true

/-- The operands of a command are as the spec gives them; commands without such operands are well formed. -/
def Instr.wellFormed : Instr → Bool
  | .sample _ _ _ payload => payload.length = 256
  | .clipData _ _ _ payload => payload.length = 256
  | .request _ _ _ _ payload => wholeWords payload
  | .chainUpstreamCell c => c.upstream
  | .badCell _ bad => bad.wellFormed
  | _ => true

end Sys2Proof
end

