-- ==== Sys2Proof/Certificates/Slice0/Obligations.lean ====
section
/-!
DEFINITION. The statements. `asked via kind s p` says that an operation of this kind finds its operands `p`; `begun via s`
is the state it finds and `concluded via s d result data` the state it leaves with the blocks `d` (Safety.lean). Where a
statement gives the whole next state as an equation, everything it does not name is unchanged: that is its frame.
-/
open Sys2Proof Sys2Proof.Machine

/-! ## Words of the statements -/

/-- The schedule with an entry placed after every entry whose stamp is earlier than or equal to its own (R12, R40). -/
def Sys2Proof.Machine.placed (e : Entry) (schedule : List Entry) : List Entry :=
  schedule.takeWhile (·.stamp ≤ e.stamp) ++ e :: schedule.dropWhile (·.stamp ≤ e.stamp)

/-- The stamp of NEXT or AT on a lane (R12). -/
def Sys2Proof.Machine.stampAt (x : Lane) (w : When) : Nat :=
  match w with
  | .at t => t
  | _ => x.time

/-- Nothing outside playback changes between two sets of blocks: the moment, the segments, the domains, the clips, the
triggers and the Identity Store are the same. -/
def Sys2Proof.Machine.Device.Steadies (d e : Device) : Prop :=
  e.now = d.now ∧ e.coldResets = d.coldResets ∧ e.segments = d.segments ∧ e.domainA = d.domainA ∧
  e.domainB = d.domainB ∧ e.clips = d.clips ∧ e.triggers = d.triggers ∧ e.store = d.store

/-- A voice whose segment has ended with a cause: PENDING if a start is pending, else IDLE, with no segment, hot copy, stop
fade or binding; its other fields are kept (R27; log entry 24). -/
def Sys2Proof.Machine.Voice.stoppedBy (x : Voice) (cause : EndCause) : Voice :=
  { x with state := if x.pending.isSome then .pending else .idle, current := none, hot := none, stopFade := none
           binding := none, lastCause := some cause, due := .none }

/-- A voice at the first sample of a segment: its values by R15, with its binding and its last end cause; phase and pending
start are kept where R15 keeps them. -/
def Sys2Proof.Machine.Voice.playingOn (x : Voice) (g : Fin 1024) (seg : Segment) (binding : Option Binding)
    (cause : Option EndCause) : Voice :=
  let amp := gainAmplitude seg.hot.gain
  { state := .playing, current := some g, hot := some seg.hot
    repeats := if seg.fixed.repeats = 0 then .endless else .left seg.fixed.repeats
    position := 0, ampNow := amp, ampTarget := amp, rampLeft := 0, gainOverride := false, stopFade := none
    phase := if seg.hot.phaseContinue then x.phase else 0
    step := seg.hot.shift, binding := binding, pending := x.pending, lastCause := cause, firstRepeat := true, due := .none }

/-- A stream queue with a void run added at its end; a VOID entry that ends the queue is extended (R65). -/
def Sys2Proof.Machine.withVoid (first : Seq) (count : Nat) (queue : List QueueEntry) : List QueueEntry :=
  match queue.getLast? with
  | some (.void f c) => queue.dropLast ++ [.void f (c + count)]
  | _ => queue ++ [.void first count]

/-- A slot with the positions from E to `s` marked missing: a void run, counted, and E becomes `s` (R68). -/
def Sys2Proof.Machine.Slot.missingTo (x : Slot) (s : Seq) : Slot :=
  let n := (s - x.e).toNat
  if n = 0 then x
  else
    { x with
      queue := withVoid x.e n x.queue, e := s
      counters := { x.counters with gapVoids := min (x.counters.gapVoids + n) 4294967295 } }

/-- A slot broken: BROKEN with an empty queue, no readers and end cause BREAK, E, H and its counters kept, no voice reading it
and no pending start claiming it (R70, R29). -/
def Sys2Proof.Machine.Device.breaks (d : Device) (n : Fin 16) (e : Device) : Prop :=
  let x := d.slot n
  let y := e.slot n
  y.state = .broken ∧ y.queue = [] ∧ y.readers = [] ∧ y.endCause = some .broken ∧ y.e = x.e ∧ y.h = x.h ∧
  y.counters = x.counters ∧ e.intake.tags = d.intake.tags ∧
  (∀ l v, ((e.voice l v).current.isSome = true → (e.voice l v).reads n = false) ∧ (e.voice l v).claims n = false) ∧
  d.Steadies e

/-- The commands that the Agent performs by taking a request. -/
def Sys2Proof.Machine.takesRequest (c : Instr) : Bool :=
  match c with
  | .segHot via | .voiceStart via | .voiceStop via | .voiceGain via | .laneStart via | .laneStop via
  | .laneFreeze via | .laneResume via | .mapArm via | .mapDisarm via | .cueRaise via | .markerSet via
  | .meterStart via | .meterStop via => via = .request
  | .nop | .wait | .notice | .contextPop | .blockBoundary _ | .laneStartsAtEdge _ | .frozenEdge _
  | .settleTimerExpiry _ | .triggerTick _ _ | .pulseBegin _ | .pulseEnd _ | .noticeHoldoffExpiry
  | .programTimerExpiry | .coldReset _ _ | .unitResetPerformed _ | .signalPresent _ | .signalAbsent _
  | .alignmentReached _ | .alignmentLost _ | .offerSend _ | .badCell _ _ | .offer _ _ _ _ | .sample _ _ _ _
  | .streamEnd _ _ _ | .clipData _ _ _ _ | .request _ _ _ _ _ | .flowLink _ _ | .chainUpstreamCell _
  | .chainTransmit | .upstreamGrant | .cellSent _ | .decodedSymbol _ _ => false
  | _ => true

/-- The shortest payload of each request layout, with the kind byte of the request (R191, R209). -/
def Sys2Proof.Machine.layoutLengths : List (Instr × Byte × Nat) :=
  [(.segWrite, 0x10, 26), (.segHot .request, 0x11, 12), (.segRead, 0x12, 2), (.voiceStart .request, 0x13, 11),
   (.voiceStop .request, 0x14, 10), (.voiceGain .request, 0x15, 13), (.voiceStatus, 0x16, 2), (.laneConfig, 0x20, 7),
   (.laneArm, 0x21, 3), (.laneStart .request, 0x22, 1), (.laneStop .request, 0x23, 1), (.laneFreeze .request, 0x24, 9),
   (.laneResume .request, 0x25, 1), (.laneQuiet, 0x26, 2), (.laneCompareSet, 0x27, 8), (.laneStatus, 0x28, 1),
   (.domainSet, 0x29, 3), (.domainStatus, 0x2A, 1), (.tagWrite, 0x30, 7), (.tagRead, 0x31, 2),
   (.streamOpen, 0x32, 23), (.streamClose, 0x33, 2), (.streamStatus, 0x34, 1), (.poolConfig, 0x35, 8)] ++
  [(.statsRead, 0x36, 1), (.clipOpen, 0x40, 6), (.clipSeal, 0x41, 2), (.clipAbort, 0x42, 2), (.clipDelete, 0x43, 2),
   (.clipStatus, 0x44, 2), (.mapWrite, 0x50, 9), (.mapRead, 0x51, 1), (.mapArm .request, 0x52, 1),
   (.mapDisarm .request, 0x53, 1), (.cueThreshold, 0x54, 1), (.listWrite, 0x55, 6), (.listRead, 0x56, 2),
   (.cueWrite, 0x57, 20), (.cueRead, 0x58, 6), (.cueRaise .request, 0x59, 2), (.cueAbort, 0x5A, 1),
   (.trigConfig, 0x60, 5), (.trigStatus, 0x61, 1), (.markerConfig, 0x62, 8), (.markerSet .request, 0x63, 2),
   (.markerStatus, 0x64, 1), (.meterConfig, 0x65, 9), (.meterStart .request, 0x66, 1), (.meterStop .request, 0x67, 1),
   (.meterRead, 0x68, 1), (.noticeConfig, 0x71, 5), (.storeProgram, 0x74, 3)]

/-! ## The queue of commands -/

/-- A step takes the command at the front of the queue and answers its outcome on the queue's rest (log entry 2). -/
def Obligations.StepRunsTheFrontCommand : Prop :=
  ∀ (c : Instr) (rest : List Instr) (s : State), step { s with pending := c :: rest } = exec c { s with pending := rest }

/-- No command stops the machine (log entry 30: the model's reading, that every command has an effect in every state), and
none touches the queue behind it. With an empty queue a step lets one cycle of the reference clock pass: 125 of the model's
units (log entries 2, 3: the model's choice). -/
def Obligations.EveryStepGoesOn : Prop :=
  (∀ (c : Instr) (s : State), ∃ t, exec c s = .next t ∧ t.pending = s.pending) ∧
  ∀ s : State, s.pending = [] → step s = .next { s with dev := { s.dev with now := s.dev.now + 125 } }

/-! ## Requests (R189, R209) -/

/-- While the reply queue is full, or the Agent waits for a reset, or no request is held, the Agent takes none (R189). -/
def Obligations.AgentTakesNoRequestWhileBlocked : Prop :=
  ∀ (c : Instr) (s : State), takesRequest c = true →
    (8 ≤ s.agent.replies.length ∨ s.agent.resetWait = true ∨ s.agent.requests = []) → exec c s = .next s

/-- A request whose payload is shorter than its layout is answered BAD_FIELD, and one whose kind names no operation is
answered BAD_KIND; neither changes a block (R189, R209). That the layout of POOL_CONFIG is 8 bytes and that of CUE_READ 6 is
the model's reading (log entry 13). -/
def Obligations.UnknownAndShortRequestsAreRefused : Prop :=
  (∀ (x : Instr × Byte × Nat) (s : State) (p : List Byte), x ∈ layoutLengths → asked .request x.2.1 s p = true →
     p.length < x.2.2 → exec x.1 s = .next (concluded .request s s.dev .badField [])) ∧
  (∀ (s : State) (kind : Byte) (p : List Byte), asked .request kind s p = true → kind ∉ requestKinds →
     exec .unknownRequestKind s = .next (concluded .request s s.dev .badKind []))

/-! ## Scene Program (01) -/

/-- SEG_WRITE: the checks of R4 in order; the first that fails gives the result and changes nothing; a write that passes
them all stores every field, with the fields that do not apply to the kind stored as 0. -/
def Obligations.SegWriteChecksInOrderAndStores : Prop :=
  ∀ (s : State) (p : List Byte), asked .request 0x10 s p = true → 26 ≤ p.length →
    let raw := rawSegmentAt p 2
    (1024 ≤ u16 p 0 → exec .segWrite s = .next (concluded .request s s.dev .outOfRange [])) ∧
    (u16 p 0 < 1024 → 4 ≤ raw.kind → exec .segWrite s = .next (concluded .request s s.dev .badField [])) ∧
    ∀ (g : Fin 1024) (kind : SourceKind), u16 p 0 = g.val → sourceKindOf raw.kind = some kind →
      let new : Segment :=
        { fixed := { kind := kind
                     sourceId := if kind = .stream ∨ kind = .clip then raw.sourceId else 0
                     startOffset := if kind = .clip then raw.startOffset else 0
                     length := if raw.untilEnd = true then .untilEnd else .samples raw.length
                     repeats := raw.repeats, ramp := raw.ramp, fadeEach := raw.fadeEach }
          hot := { gain := raw.gain, shift := raw.shift, phaseContinue := raw.phaseContinue
                   next := raw.next.bind (fin? 1024), endEvent := raw.endEvent } }
      let clip := s.dev.clip new.fixed.clip
      let result : Result :=
        if kind = .stream ∧ 15 < raw.sourceId then .outOfRange
        else if raw.untilEnd = false ∧ raw.length = 0 then .badField
        else if raw.untilEnd = true ∧ kind ≠ .stream then .badField
        else if kind = .stream ∧ raw.repeats ≠ 1 then .badField
        else if raw.gain < -900 ∨ 60 < raw.gain then .outOfRange
        else if raw.next.any (fun n => 1023 < n) = true then .outOfRange
        else if kind = .clip ∧ clip.state = .ready ∧ clip.length < raw.startOffset + raw.length then .outOfRange
        else if new.fixed ≠ (s.dev.segment g).fixed ∧ s.dev.liveCount g ≠ 0 then .inUse
        else .ok
      exec .segWrite s = .next (concluded .request s
        (if result = .ok then { s.dev with segments := put s.dev.segments g new } else s.dev) result [])

/-- SEG_HOT: a bad segment number, selected gain or selected next gives OUT_OF_RANGE and changes nothing; else the selected
hot fields are stored and the others kept, whatever the live count (R6). -/
def Obligations.SegHotStoresTheSelectedFields : Prop :=
  ∀ (via : Via) (s : State) (p : List Byte), asked via 0x11 s p = true → 12 ≤ p.length →
    let d := (begun via s).dev
    let badGain : Prop := bitAt p 2 0 = true ∧ (s16 p 4 < -900 ∨ 60 < s16 p 4)
    let badNext : Prop := bitAt p 2 3 = true ∧ u16 p 10 ≠ 0xFFFF ∧ 1023 < u16 p 10
    (1023 < u16 p 0 ∨ badGain ∨ badNext → exec (.segHot via) s = .next (concluded via s d .outOfRange [])) ∧
    ∀ g : Fin 1024, u16 p 0 = g.val → ¬ badGain → ¬ badNext →
      let old := d.segment g
      let hot : Hot :=
        { gain := if bitAt p 2 0 then s16 p 4 else old.hot.gain
          shift := if bitAt p 2 1 then BitVec.ofNat 32 (u32 p 6) else old.hot.shift
          phaseContinue := if bitAt p 2 2 then bitAt p 3 2 else old.hot.phaseContinue
          next := if bitAt p 2 3 then (optU16 p 10).bind (fin? 1024) else old.hot.next
          endEvent := if bitAt p 2 4 then bitAt p 3 3 else old.hot.endEvent }
      exec (.segHot via) s =
        .next (concluded via s { d with segments := put d.segments g { old with hot := hot } } .ok [])

/-- SEG_READ returns the record as stored and its live count; a number above 1023 gives OUT_OF_RANGE; no state changes
(R8). -/
def Obligations.SegReadReturnsTheRecord : Prop :=
  ∀ (s : State) (p : List Byte), asked .request 0x12 s p = true → 2 ≤ p.length →
    (1023 < u16 p 0 → exec .segRead s = .next (concluded .request s s.dev .outOfRange [])) ∧
    ∀ g : Fin 1024, u16 p 0 = g.val →
      exec .segRead s = .next (concluded .request s s.dev .ok
        (b16 g.val ++ segmentBytes (s.dev.segment g) ++ b16 (s.dev.liveCount g)))

/-- VOICE_START: the checks of R11 in order. A refused start changes nothing but its reply or its report. A when byte above 2
is BAD_FIELD first of all (R209; log entry 14). A REL of an action becomes AT from the context's reference; past 2^32 - 1, or
past the lane time's range, it gives OUT_OF_RANGE, and with no reference BAD_FIELD (R140, R209); that this comes before the
other checks is the model's reading (log entry 15). -/
def Obligations.VoiceStartChecksInOrder : Prop :=
  (∀ (via : Via) (s : State) (p : List Byte), asked via 0x13 s p = true → 11 ≤ p.length →
    let d := (begun via s).dev
    (2 < u8 p 4 → exec (.voiceStart via) s = .next (concluded via s d .badField [])) ∧
    ∀ (w : When) (r : Result), whenAt p 4 = some w → resolveWhen (callerOf via s) w = .error r →
      exec (.voiceStart via) s = .next (concluded via s d r [])) ∧
  (∀ w : When, resolveWhen .request w = .ok w) ∧
  (∀ (source : Fin 126) (reference : Option (Fin 8 × Nat)) (d t : Nat),
    let of := resolveWhen (.action source reference)
    of .next = .ok .next ∧ of (.at t) = .ok (.at t) ∧
    (4294967295 < d → of (.rel d) = .error .outOfRange) ∧
    (d ≤ 4294967295 → reference = none → of (.rel d) = .error .badField) ∧
    ∀ l u, d ≤ 4294967295 → reference = some (l, u) →
      of (.rel d) = if 281474976710656 ≤ u + d then .error .outOfRange else .ok (.at (u + d))) ∧
  ∀ (via : Via) (s : State) (p : List Byte) (w w' : When), asked via 0x13 s p = true → 11 ≤ p.length →
    whenAt p 4 = some w → resolveWhen (callerOf via s) w = .ok w' →
    let d := (begun via s).dev
    (7 < u8 p 0 ∨ 3 < u8 p 1 ∨ 1023 < u16 p 2 →
      exec (.voiceStart via) s = .next (concluded via s d .outOfRange [])) ∧
    ∀ (l : Fin 8) (v : Fin 4) (g : Fin 1024), u8 p 0 = l.val → u8 p 1 = v.val → u16 p 2 = g.val →
      let f := (d.segment g).fixed
      let x := d.voice l v
      let passes := x.pending.any fun q => q.claim.any fun c => c.1 = f.slot
      let result : Result :=
        if w'.isRel then .badField
        else if (d.lane l).state = .stopped then .laneStopped
        else if f.kind = .none then .badField
        else if f.kind = .clip ∧ (d.clip f.clip).state ≠ .ready then .notReady
        else if x.pending = none ∧ 16 ≤ (d.lane l).schedule.length then .full
        else if f.kind = .stream ∧ passes = false then
          match (d.slot f.slot).state with
          | .filling | .primed => if (d.slot f.slot).readers.length < 8 then .ok else .full
          | .running | .draining => .streamRunning
          | .closed | .ended | .broken => .notReady
        else .ok
      (result ≠ .ok → exec (.voiceStart via) s = .next (concluded via s d result [])) ∧
      (result = .ok → ∃ e, exec (.voiceStart via) s = .next (concluded via s e .ok []))

/-- An accepted VOICE_START of a voice without a pending start: it is stamped and placed in the schedule, the voice's
pending start is this start, an IDLE voice becomes PENDING, and a STREAM segment claims a reader at the slot's head (R12,
R13, R82). Nothing else changes. The start applied at its sample clears the pending start and begins the segment with the
values of R15, bound as R17 gives; a voice with a current segment first ends it with cause REPLACED (R16), and a binding that
fails ends the voice at once with its cause (R15, R17), each with its VOICE_END by its own end event (R27); it is a voice
start and a segment edge for the lane's pulse markers (R155; log entry 18), to begin at the clock at which the port carries its
sample: sample clocks are the reference clock divided by the divider of the rate code (R33, R156), the first of a block at the
edge itself (log entry 26). No other voice changes. -/
def Obligations.VoiceStartEntersTheSchedule : Prop :=
  (∀ (via : Via) (s : State) (p : List Byte) (w w' : When) (l : Fin 8) (v : Fin 4) (g : Fin 1024),
     asked via 0x13 s p = true → 11 ≤ p.length → whenAt p 4 = some w → resolveWhen (callerOf via s) w = .ok w' →
     w'.isRel = false → u8 p 0 = l.val → u8 p 1 = v.val → u16 p 2 = g.val →
     let d := (begun via s).dev
     let f := (d.segment g).fixed
     let lane := d.lane l
     let x := d.voice l v
     let slot := d.slot f.slot
     lane.state ≠ .stopped → f.kind ≠ .none → (f.kind = .clip → (d.clip f.clip).state = .ready) → x.pending = none →
     lane.schedule.length < 16 →
     (f.kind = .stream → (slot.state = .filling ∨ slot.state = .primed) ∧ slot.readers.length < 8) →
     let stamp := stampAt lane w'
     let claim := if f.kind = .stream then some (f.slot, slot.freeIndex) else none
     let lane' : Lane :=
       { lane with
         schedule := placed { stamp := stamp, kind := .voiceStart v g claim } lane.schedule
         voices := put lane.voices v
           { x with pending := some { segment := g, stamp := stamp, claim := claim }
                    state := if x.state = .idle then .pending else x.state } }
     let slot' : Slot :=
       { slot with readers := slot.readers ++
           [{ index := slot.freeIndex, lane := l, voice := v, pending := true, cell := slot.h, offset := 0,
              lacking := false }] }
     exec (.voiceStart via) s = .next (concluded via s
       { d with lanes := put d.lanes l lane'
                intake := if f.kind = .stream then { d.intake with slots := put d.intake.slots f.slot slot' }
                  else d.intake } .ok [])) ∧
  ∀ (k : Block) (l : Fin 8) (v : Fin 4) (t stamp : Nat) (g : Fin 1024) (claim : Option (Fin 16 × Nat)),
    let x := k.dev.voice l v
    let seg := k.dev.segment g
    let started := k.apply l t { stamp := stamp, kind := .voiceStart v g claim }
    let cleared : Voice := { x with pending := none }
    let spliced : List (Fin 126 × Byte) :=
      if x.current.isSome = true ∧ x.hot.any Hot.endEvent = true then [(srcVoiceEnd l v, 2)] else []
    (∀ b, k.dev.bindingOf seg.fixed claim = .ok b →
      started.dev.voice l v =
        cleared.playingOn g seg b (if x.current.isSome = true then some .replaced else x.lastCause) ∧
      started.events = k.events ++ spliced) ∧
    (∀ cause, k.dev.bindingOf seg.fixed claim = .error cause →
      started.dev.voice l v = cleared.stoppedBy cause ∧
      started.events = k.events ++ spliced ++
        (if seg.hot.endEvent then [(srcVoiceEnd l v, BitVec.ofNat 8 (endCauseCode cause))] else [])) ∧
    (∀ c, x.current.isSome = true → k.cursors.get v = some c → (c.slot, c.index) ∈ started.released) ∧
    (∀ m w, m ≠ l ∨ w ≠ v → started.dev.voice m w = k.dev.voice m w) ∧
    ∀ n, let m := k.dev.markers.get n
      let m' := started.dev.markers.get n
      let lane := k.dev.lane l
      let divider := match (k.dev.domain lane.domain).rate with
        | 0 => 4
        | 1 => 6
        | 2 => 8
        | 3 => 12
        | 4 => 16
        | 5 => 24
        | 6 => 32
        | _ => 48
      let clock := lane.lastEdge + (t - lane.time) * (divider * 125)
      (m.condition = .voiceStartPulse l ∨ m.condition = .segmentEdgePulse l →
        m' = { m with startsDue := m'.startsDue } ∧ ∀ u, u ∈ m'.startsDue ↔ u = clock ∨ u ∈ m.startsDue) ∧
      (m.condition ≠ .voiceStartPulse l → m.condition ≠ .segmentEdgePulse l → m' = m)

/-- A VOICE_START accepted for a voice with a pending start: the earlier entry leaves the schedule, its reader is released
unless it passes to the new start, VOICE_END is raised with cause REPLACED (detail 2), and the new start is placed (R14,
R13). -/
def Obligations.VoiceStartReplacesAPendingStart : Prop :=
  ∀ (via : Via) (s : State) (p : List Byte) (w w' : When) (l : Fin 8) (v : Fin 4) (g : Fin 1024) (q : PendingStart),
    asked via 0x13 s p = true → 11 ≤ p.length → whenAt p 4 = some w → resolveWhen (callerOf via s) w = .ok w' →
    w'.isRel = false → u8 p 0 = l.val → u8 p 1 = v.val → u16 p 2 = g.val →
    let d := (begun via s).dev
    let f := (d.segment g).fixed
    let passes : Bool := q.claim.any fun c => f.kind = .stream && c.1 = f.slot
    (d.lane l).state ≠ .stopped → f.kind ≠ .none → (f.kind = .clip → (d.clip f.clip).state = .ready) →
    (d.voice l v).pending = some q →
    (f.kind = .stream → passes = false →
      ((d.slot f.slot).state = .filling ∨ (d.slot f.slot).state = .primed) ∧ (d.slot f.slot).readers.length < 8) →
    let d := d.unschedule l v
    let d := if passes then d
      else match q.claim with
        | none => d
        | some (n, i) => d.releaseReader n i
    let d := (d.updVoice l v fun x => { x with pending := none, lastCause := some .replaced }).raise (srcVoiceEnd l v) 2
    let slot := d.slot f.slot
    let claim := if passes then q.claim else if f.kind = .stream then some (f.slot, slot.freeIndex) else none
    let slot' : Slot :=
      { slot with readers := slot.readers ++
          [{ index := slot.freeIndex, lane := l, voice := v, pending := true, cell := slot.h, offset := 0,
             lacking := false }] }
    let lane := d.lane l
    let x := d.voice l v
    let stamp := stampAt lane w'
    let x' : Voice :=
      { x with pending := some { segment := g, stamp := stamp, claim := claim }
               state := if x.state = .idle then .pending else x.state }
    let lane' : Lane :=
      { lane with schedule := placed { stamp := stamp, kind := .voiceStart v g claim } lane.schedule
                  voices := put lane.voices v x' }
    let intake' : Intake :=
      if f.kind = .stream ∧ passes = false then { d.intake with slots := put d.intake.slots f.slot slot' } else d.intake
    exec (.voiceStart via) s =
      .next (concluded via s { d with lanes := put d.lanes l lane', intake := intake' } .ok [])

/-- What a checked VOICE_STOP or VOICE_GAIN does: the checks on the lane in order, and the entry placed (R23, R26). -/
def Sys2Proof.Machine.entersSchedule (d : Device) (l : Fin 8) (w : When) (kind : EntryKind) : Device × Result :=
  let lane := d.lane l
  let lane' : Lane := { lane with schedule := placed { stamp := stampAt lane w, kind := kind } lane.schedule }
  if w.isRel then (d, .badField)
  else if lane.state = .stopped then (d, .laneStopped)
  else if 16 ≤ lane.schedule.length then (d, .full)
  else ({ d with lanes := put d.lanes l lane' }, .ok)

/-- VOICE_STOP and VOICE_GAIN: the checks of R23 and of R26, and the entry placed in the schedule. A mode or a when byte that
is no code is refused before the ranges (R209; log entry 14), and a REL that does not resolve is refused there too (R140; its
place is log entry 15). A stop applied ends a STALLED voice, or any voice if HARD, with cause STOPPED, and fades a PLAYING one
over the ramp of its segment if SOFT, a ramp of 0 samples ending it at once (R24, R25); a gain applied ramps the voice's
amplitude (R26). In a voice of another state neither has an effect. -/
def Obligations.VoiceStopAndGainEnterTheSchedule : Prop :=
  (∀ (via : Via) (s : State) (p : List Byte), asked via 0x14 s p = true → 10 ≤ p.length →
     let d := (begun via s).dev
     (modeAt p 2 = none ∨ whenAt p 3 = none → exec (.voiceStop via) s = .next (concluded via s d .badField [])) ∧
     (∀ (mode : Mode) (w : When) (r : Result), modeAt p 2 = some mode → whenAt p 3 = some w →
       resolveWhen (callerOf via s) w = .error r → exec (.voiceStop via) s = .next (concluded via s d r [])) ∧
     ∀ (mode : Mode) (w w' : When), modeAt p 2 = some mode → whenAt p 3 = some w →
       resolveWhen (callerOf via s) w = .ok w' →
       (7 < u8 p 0 ∨ 3 < u8 p 1 → exec (.voiceStop via) s = .next (concluded via s d .outOfRange [])) ∧
       ∀ (l : Fin 8) (v : Fin 4), u8 p 0 = l.val → u8 p 1 = v.val →
         let after := entersSchedule d l w' (.voiceStop v mode)
         exec (.voiceStop via) s = .next (concluded via s after.1 after.2 [])) ∧
  (∀ (via : Via) (s : State) (p : List Byte), asked via 0x15 s p = true → 13 ≤ p.length →
     let d := (begun via s).dev
     (whenAt p 6 = none → exec (.voiceGain via) s = .next (concluded via s d .badField [])) ∧
     (∀ (w : When) (r : Result), whenAt p 6 = some w → resolveWhen (callerOf via s) w = .error r →
       exec (.voiceGain via) s = .next (concluded via s d r [])) ∧
     ∀ (w w' : When), whenAt p 6 = some w → resolveWhen (callerOf via s) w = .ok w' →
       (7 < u8 p 0 ∨ 3 < u8 p 1 ∨ s16 p 2 < -900 ∨ 60 < s16 p 2 →
         exec (.voiceGain via) s = .next (concluded via s d .outOfRange [])) ∧
       ∀ (l : Fin 8) (v : Fin 4), u8 p 0 = l.val → u8 p 1 = v.val → -900 ≤ s16 p 2 → s16 p 2 ≤ 60 →
         let after := entersSchedule d l w' (.voiceGain v (s16 p 2) (u16 p 4))
         exec (.voiceGain via) s = .next (concluded via s after.1 after.2 [])) ∧
  ∀ (k : Block) (l : Fin 8) (v : Fin 4) (t stamp : Nat),
    let x := k.dev.voice l v
    let ramp := x.current.elim 0 fun g => (k.dev.segment g).fixed.ramp
    let fading : Voice := { x with state := .fading, stopFade := some ramp }
    let stops (mode : Mode) := k.apply l t { stamp := stamp, kind := .voiceStop v mode }
    (x.state = .playing → 0 < ramp → stops .soft = { k with dev := k.dev.setVoice l v fading }) ∧
    (x.state = .fading ∨ x.state = .idle ∨ x.state = .pending → stops .soft = k) ∧
    (x.state = .idle ∨ x.state = .pending → stops .hard = k) ∧
    (∀ mode, x.state = .stalled ∨ x.state = .playing ∧ (mode = .hard ∨ ramp = 0) ∨ x.state = .fading ∧ mode = .hard →
      ((stops mode).dev.voice l v = x.stoppedBy .stopped) ∧
      (stops mode).events = k.events ++ (if x.hot.any Hot.endEvent then [(srcVoiceEnd l v, 1)] else []) ∧
      ∀ m w, m ≠ l ∨ w ≠ v → (stops mode).dev.voice m w = k.dev.voice m w) ∧
    ∀ (gain : Int) (length : Nat),
      let gains := k.apply l t { stamp := stamp, kind := .voiceGain v gain length }
      let y : Voice :=
        { x with ampTarget := gainAmplitude gain, rampLeft := length, gainOverride := true
                 ampNow := if length = 0 then gainAmplitude gain else x.ampNow }
      (x.state = .playing ∨ x.state = .stalled ∨ x.state = .fading →
        gains = { k with dev := k.dev.setVoice l v y }) ∧
      (x.state = .idle ∨ x.state = .pending → gains = k)

/-- VOICE_STATUS, LANE_STATUS, DOMAIN_STATUS, STREAM_STATUS, TRIG_STATUS and MARKER_STATUS return the record as it stands
and change no state; an index out of range gives OUT_OF_RANGE (R30, R54, R35, R64, R153, R160). The widths and the codes of
the reply data are log entry 12; amplitudes, bindings, times left and absent fields of one and four bytes are free values (log
entry 11). -/
def Obligations.StatusReadsReturnTheRecord : Prop :=
  ∀ (s : State) (p : List Byte), 1 ≤ p.length →
    let d := s.dev
    let gives (result : Result) (data : List Byte) := Host.Outcome.next (concluded .request s d result data)
    (asked .request 0x16 s p = true → 2 ≤ p.length →
      (7 < u8 p 0 ∨ 3 < u8 p 1 → exec .voiceStatus s = gives .outOfRange []) ∧
      ∀ (l : Fin 8) (v : Fin 4), u8 p 0 = l.val → u8 p 1 = v.val →
        exec .voiceStatus s = gives .ok (pack [.one (voiceBytes (d.voice l v) ++ b48 (d.lane l).time)])) ∧
    (asked .request 0x28 s p = true →
      (7 < u8 p 0 → exec .laneStatus s = gives .outOfRange []) ∧
      ∀ l : Fin 8, u8 p 0 = l.val →
        exec .laneStatus s = gives .ok (pack [.one (laneBytes (d.lane l) (d.domain (d.lane l).domain).state),
          .many ((d.lane l).schedule.map entryBytes)])) ∧
    (asked .request 0x2A s p = true →
      (1 < u8 p 0 → exec .domainStatus s = gives .outOfRange []) ∧
      ∀ i : DomainId, u8 p 0 = domainCode i →
        exec .domainStatus s = gives .ok (pack [.one (b8 (domainStateCode (d.domain i).state) ++ b8 (d.domain i).rate
          ++ b8 (d.domain i).settle), .many ((d.lanesOf i).map fun l => b8 l.val)])) ∧
    (asked .request 0x34 s p = true →
      (15 < u8 p 0 → exec .streamStatus s = gives .outOfRange []) ∧
      ∀ n : Fin 16, u8 p 0 = n.val →
        exec .streamStatus s = gives .ok (pack [.one (slotBytes (d.slot n) (d.intake.slotTag n)),
          .many ((d.slot n).readers.map readerBytes), .many (((d.slot n).queue.take 16).map queueEntryBytes)])) ∧
    (asked .request 0x61 s p = true →
      (3 < u8 p 0 → exec .trigStatus s = gives .outOfRange []) ∧
      ∀ n : Fin 4, u8 p 0 = n.val →
        exec .trigStatus s = gives .ok (pack [.one (triggerBytes (d.triggers.get n)),
          .many ((d.armedOn n).map fun l => b8 l.val)])) ∧
    (asked .request 0x64 s p = true →
      (5 < u8 p 0 → exec .markerStatus s = gives .outOfRange []) ∧
      ∀ n : Fin 6, u8 p 0 = n.val →
        exec .markerStatus s = gives .ok (pack [.one (markerBytes (d.markers.get n) d.now
          (d.markerLogical s.linkUp (d.markers.get n)))]))

/-- MAP_READ, LIST_READ, CUE_READ, CUE_STATUS, CLIP_STATUS and CLIP_SPACE return what their tables hold and change no
state, for every payload that is as long as the layout of the kind; an index out of range gives OUT_OF_RANGE (R125, R136,
R138, R147, R114, R115). The widths and the codes of the reply data are log entry 12, absent fields of one and four bytes are
free values (log entry 11), and that CUE_READ's count takes 4 bytes is log entry 13. -/
def Obligations.TableReadsReturnWhatIsHeld : Prop :=
  ∀ (s : State) (p : List Byte),
    let d := s.dev
    let gives (result : Result) (data : List Byte) := Host.Outcome.next (concluded .request s d result data)
    (asked .request 0x51 s p = true → 1 ≤ p.length →
      (125 < u8 p 0 → exec .mapRead s = gives .outOfRange []) ∧
      ∀ k : Fin 126, u8 p 0 = k.val →
        exec .mapRead s = gives .ok (pack [.one (mapEntryBytes (d.cue.map.get k) ++ bFlag (d.cue.pending.get k).isSome
          ++ (d.cue.pending.get k).elim [] pendingBytes)])) ∧
    (asked .request 0x56 s p = true → 2 ≤ p.length →
      (255 < u16 p 0 → exec .listRead s = gives .outOfRange []) ∧
      ∀ n : Fin 256, u16 p 0 = n.val →
        exec .listRead s = gives .ok (pack [.one (b16 (d.cue.lists.get n).first ++ b16 (d.cue.lists.get n).count
          ++ bFlag (d.cue.stack.any fun c => c.list = n))])) ∧
    (asked .request 0x58 s p = true → 6 ≤ p.length →
      (2047 < u16 p 0 ∨ 2048 < u16 p 0 + u32 p 2 → exec .cueRead s = gives .outOfRange []) ∧
      (u16 p 0 ≤ 2047 → u16 p 0 + u32 p 2 ≤ 2048 →
        exec .cueRead s = gives .ok (pack [.many ((List.range (u32 p 2)).map fun i =>
          actionBytes (d.cue.actions.get (Fin.ofNat 2048 (u16 p 0 + i))))]))) ∧
    (asked .request 0x5B s p = true →
      exec .cueStatus s = gives .ok (pack [.one (b8 d.cue.engineLevel ++ b8 d.cue.threshold),
        .many (d.cue.stack.reverse.map contextBytes), .many d.cue.pendingItems])) ∧
    (asked .request 0x44 s p = true → 2 ≤ p.length →
      (255 < u16 p 0 → exec .clipStatus s = gives .outOfRange []) ∧
      ∀ c : Fin 256, u16 p 0 = c.val →
        let x := d.clip c
        exec .clipStatus s = gives .ok (pack [.one (b8 (clipStateCode x.state) ++ b32 x.length ++ b32 (cellsFor x.length)),
          .many (x.extents.map extentBytes), .one (b32 (pagesOf x.extents) ++ b32 (d.clipRefs c)),
          .one (if x.state = .loading then loadBytes d.clips c (cellsFor x.length) else [])])) ∧
    (asked .request 0x45 s p = true →
      exec .clipSpace s = gives .ok (pack [.one (b32 (pagesOf d.clips.freeList) ++ b32 d.clips.freeList.length
          ++ b32 (largestEntry d.clips.freeList) ++ b32 (pagesOf (d.clips.freeList.take 16))
          ++ b32 d.clips.freeLoadSlots), .many ((d.clips.freeList.take 32).map extentBytes)]))

/-- LINK_STATUS, STORE_READ and IDENTIFY return the link records, the Identity Store and the unit's identity, and
STATS_READ the counters of its group; none changes any state (R187, R204, R205, R80, R116, R186). The widths and the codes
of the reply data are log entry 12; absent fields of one byte and the program timer's time left are free values (log entry
11). -/
def Obligations.UnitReadsReturnWhatIsHeld : Prop :=
  ∀ (s : State) (p : List Byte),
    let a := (begun .request s).agent
    let gives (data : List Byte) := Host.Outcome.next (concluded .request s s.dev .ok data)
    (asked .request 0x70 s p = true →
      exec .linkStatus s = gives (pack [.one (linkBytes s.port.bench ++ linkBytes s.port.chain
        ++ bOpt8 (s.port.address.map Fin.val) ++ b8 (originCode s.port.origin) ++ bFlag s.port.held
        ++ bFlag s.port.holdSent ++ bOpt8 (s.port.flowPlace.map fun h => if h then 1 else 0)
        ++ b32 s.port.forward.length ++ b32 s.port.merge.length ++ bFlag (!s.dev.intake.outbox.isEmpty)
        ++ bFlag (!s.agent.replies.isEmpty) ++ bFlag (s.dev.notices.sendReady s.dev.now)
        ++ bFlag (!s.port.merge.isEmpty) ++ b8 (classCode s.port.mark))])) ∧
    (asked .request 0x75 s p = true →
      exec .storeRead s = gives (pack [.one (s.dev.store.fields.toList.flatMap fieldBytes
        ++ programBytes s.dev.store.program s.dev.now)])) ∧
    (asked .request 0x76 s p = true →
      exec .identify s = gives (pack [.one (bName partName ++ bName familyName ++ b8 1
        ++ bOpt8 (s.port.address.map Fin.val) ++ b8 (originCode s.port.origin)
        ++ s.dev.lanes.toList.flatMap (fun x => b16s x.trim) ++ bFlag s.dev.store.lock)])) ∧
    (asked .request 0x36 s p = true → 1 ≤ p.length →
      exec .statsRead s = match u8 p 0 with
        | 0 => gives (pack (intakeStats s.dev.intake))
        | 1 => gives (pack (clipStats s.dev.clips))
        | 2 => gives (pack (portStats s.port))
        | 3 => gives (pack (agentStats a s.dev.notices s.dev.now))
        | _ => .next (concluded .request s s.dev .badField []))

/-! ## Lanes and clock domains (02) -/

/-- LANE_CONFIG: the checks of R36 in order, and the four settings stored, the master gain acting by lane state. A domain byte
that is no domain is refused before the ranges (R209; log entry 14). That a stored gain written again begins no ramp in
RUNNING is the model's reading (log entry 31). A ramp of RUNNING begins at the lane's next block: until then a new freeze ramp
gives its length, and a ramp in progress keeps its own (R36; what is shown of a ramp that waits is log entry 37). -/
def Obligations.LaneConfigStoresItsSettings : Prop :=
  ∀ (s : State) (p : List Byte), asked .request 0x20 s p = true → 7 ≤ p.length →
    (domainAt p 1 = none → exec .laneConfig s = .next (concluded .request s s.dev .badField [])) ∧
    ∀ i : DomainId, domainAt p 1 = some i →
      (7 < u8 p 0 ∨ s16 p 4 < -900 ∨ 60 < s16 p 4 →
        exec .laneConfig s = .next (concluded .request s s.dev .outOfRange [])) ∧
      ∀ l : Fin 8, u8 p 0 = l.val → -900 ≤ s16 p 4 → s16 p 4 ≤ 60 →
        let x := s.dev.lane l
        let gain := s16 p 4
        let y : Lane :=
          { x with
            domain := i, freezeRamp := u16 p 2, masterGain := gain, meterInFreeze := flagAt p 6
            rampLeft := if x.rampDue then u16 p 2 else x.rampLeft }
        let x' : Lane :=
          match x.state with
          | .stopped | .armed => { y with ampNow := gainAmplitude gain, ampTarget := gainAmplitude gain }
          | .running => if gain = x.masterGain then y
              else { y with ampTarget := gainAmplitude gain, rampLeft := u16 p 2, rampDue := true }
          | .freezing | .frozen => y
        exec .laneConfig s = .next
          (if x.domain ≠ i ∧ x.state ≠ .stopped then concluded .request s s.dev .busy []
           else concluded .request s { s.dev with lanes := put s.dev.lanes l x' } .ok [])

/-- LANE_ARM: the checks of R37 in order, and the lane ARMED with its start mode. A start mode code above 1 is refused
BAD_FIELD before the lane's range (R209; log entry 14). -/
def Obligations.LaneArmPutsTheLaneInArmed : Prop :=
  ∀ (s : State) (p : List Byte), asked .request 0x21 s p = true → 3 ≤ p.length →
    (1 < u8 p 1 → exec .laneArm s = .next (concluded .request s s.dev .badField [])) ∧
    (u8 p 1 ≤ 1 → 7 < u8 p 0 ∨ u8 p 1 = 1 ∧ 3 < u8 p 2 →
      exec .laneArm s = .next (concluded .request s s.dev .outOfRange [])) ∧
    ∀ (l : Fin 8) (mode : StartMode), u8 p 0 = l.val →
      mode = .immediate ∧ u8 p 1 = 0 ∨ (∃ n : Fin 4, mode = .trigger n ∧ u8 p 1 = 1 ∧ u8 p 2 = n.val) →
      let x := s.dev.lane l
      let x' : Lane :=
        { x with state := .armed, startMode := mode, startDue := false, ampNow := gainAmplitude x.masterGain
                 ampTarget := gainAmplitude x.masterGain, rampLeft := 0, rampDue := false }
      exec .laneArm s = .next
        (if x.state ≠ .stopped then concluded .request s s.dev .busy []
         else if (s.dev.domain x.domain).state ≠ .ready then concluded .request s s.dev .notReady []
         else concluded .request s { s.dev with lanes := put s.dev.lanes l x' } .ok [])

/-- LANE_START sets start due on an ARMED IMMEDIATE lane; it is refused on a STOPPED lane and has no effect on any other
(R38). LANE_RESUME returns a FROZEN or FREEZING lane to RUNNING with its amplitude turned to the master gain, its ramp to
begin at the lane's next block (R50; log entry 37); the markers of a FROZEN lane drop their frozen hold and their pulse
(R157). That a LANE_RESUME by an action on a STOPPED lane is OK, where R145 speaks of LANE_STOPPED, is the model's reading (log
entry 33). -/
def Obligations.LaneStartAndResumeActByLaneState : Prop :=
  ∀ (via : Via) (s : State) (p : List Byte), 1 ≤ p.length →
    let d := (begun via s).dev
    (asked via 0x22 s p = true → 7 < u8 p 0 → exec (.laneStart via) s = .next (concluded via s d .outOfRange [])) ∧
    (asked via 0x25 s p = true → 7 < u8 p 0 → exec (.laneResume via) s = .next (concluded via s d .outOfRange [])) ∧
    ∀ l : Fin 8, u8 p 0 = l.val →
      let x := d.lane l
      let started : Lane := { x with startDue := true }
      let resumed (amp : Val) : Lane :=
        { x with
          state := .running, ampNow := amp, ampTarget := gainAmplitude x.masterGain, rampLeft := x.freezeRamp
          rampDue := true }
      let thawed := d.markers.map fun m =>
        if m.condition.lane = some l then { m with frozenHold := none, pulse := .none } else m
      (asked via 0x22 s p = true → exec (.laneStart via) s = .next
        (if x.state = .stopped then concluded via s d .laneStopped []
         else if x.state = .armed ∧ x.startMode = .immediate then
           concluded via s { d with lanes := put d.lanes l started } .ok []
         else concluded via s d .ok [])) ∧
      (asked via 0x25 s p = true → exec (.laneResume via) s = .next (match x.state with
        | .frozen => concluded via s { d with lanes := put d.lanes l (resumed Val.zero), markers := thawed } .ok []
        | .freezing => concluded via s { d with lanes := put d.lanes l (resumed x.ampNow) } .ok []
        | .stopped | .armed | .running => concluded via s d .ok []))

/-- LANE_STOP leaves the lane STOPPED with an empty schedule, lane time 0, its amplitude at the master gain and its port at
zero; none of its voices has a segment or a pending start, its meter is IDLE, no context waits on it, and nothing of
another lane or outside playback changes (R45, R145); on a STOPPED lane it has no effect and is OK (R45), by an action too, where
R145 speaks of LANE_STOPPED: that is the model's reading (log entry 33). A marker with a condition of the lane drops its pulse
starts due, and, if the lane was FROZEN, its frozen hold and its pulse (R156, R157). A voice that had a segment or a
pending start ends with cause STOPPED, its readers are released, and its VOICE_END stands in the Notice Queue with detail 1 if
its map entry has the notice flag, unless the queue is full (R27, R28, R122, R196); so does a CUE_FAULT with result
LANE_STOPPED for the list of each context aborted, with the index of its WAIT (R145). -/
def Obligations.LaneStopStopsEverythingOfTheLane : Prop :=
  ∀ (via : Via) (s : State) (p : List Byte), asked via 0x23 s p = true → 1 ≤ p.length →
    let d := (begun via s).dev
    (7 < u8 p 0 → exec (.laneStop via) s = .next (concluded via s d .outOfRange [])) ∧
    ∀ l : Fin 8, u8 p 0 = l.val →
      ((d.lane l).state = .stopped → exec (.laneStop via) s = .next (concluded via s d .ok [])) ∧
      ((d.lane l).state ≠ .stopped →
        ∃ e, exec (.laneStop via) s = .next (concluded via s e .ok []) ∧
          (let x := d.lane l
           let y := e.lane l
           y.state = .stopped ∧ y.time = 0 ∧ y.schedule = [] ∧ y.startDue = false ∧ y.carried = [] ∧
           y.ampNow = gainAmplitude x.masterGain ∧ y.ampTarget = gainAmplitude x.masterGain ∧ y.rampLeft = 0 ∧
           y.rampDue = false ∧
           y.domain = x.domain ∧ y.startMode = x.startMode ∧ y.freezeRamp = x.freezeRamp ∧
           y.masterGain = x.masterGain ∧ y.meterInFreeze = x.meterInFreeze ∧ y.quiet = x.quiet ∧
           y.quietPendingOff = x.quietPendingOff ∧ y.compare = x.compare ∧ y.trim = x.trim ∧
           y.overrange = x.overrange) ∧
          (∀ v, (e.voice l v).current = none ∧ (e.voice l v).pending = none) ∧
          (e.meter l).state = .idle ∧
          (∀ c ∈ e.cue.stack, c.waitsOn l = false) ∧
          (∀ v, let x := d.voice l v
            (x.current.isSome = true ∨ x.pending.isSome = true → (e.voice l v).lastCause = some .stopped) ∧
            (∀ n i, x.current.isSome = true → x.binding = some (.stream n i) → (e.slot n).reader i = none) ∧
            (∀ q n i, x.pending = some q → q.claim = some (n, i) → (e.slot n).reader i = none) ∧
            (x.current.isSome = true ∧ x.hot.any Hot.endEvent = true ∨ x.pending.isSome = true →
              (d.cue.map.get (srcVoiceEnd l v)).notice = true →
              32 ≤ e.notices.queue.length ∨ ∃ n ∈ e.notices.queue,
                n.kind = .event ∧ n.source = 20 + 4 * l.val + v.val ∧ n.detail = 1)) ∧
          (∀ c ∈ d.cue.stack, c.waitsOn l = true →
            32 ≤ e.notices.queue.length ∨ ∃ n ∈ e.notices.queue,
              n.kind = .cueFault ∧ n.source = c.list.val ∧ n.detail = 0x08 ∧
              ∃ c' ∈ d.cue.stack, c'.waitsOn l = true ∧ c'.list = c.list ∧ n.aux = BitVec.ofNat 8 (c'.index - 1)) ∧
          (∀ m, m ≠ l → e.lane m = d.lane m ∧ e.meter m = d.meter m) ∧
          (∀ n, let m := d.markers.get n
            let unbegun : Marker := { m with startsDue := [] }
            let thawed : Marker := { m with startsDue := [], frozenHold := none, pulse := .none }
            e.markers.get n =
              if m.condition.lane = some l then if (d.lane l).state = .frozen then thawed else unbegun else m) ∧
          d.Steadies e)

/-- LANE_FREEZE: the checks of R46 in order, and the entry placed in the schedule. A mode or a when byte that is no code is
refused before the lane's range (R209; log entry 14), and a REL that does not resolve is refused there too (R140; its place is
log entry 15). A soft freeze applied makes a RUNNING lane FREEZING, its amplitude to ramp to 0 over the freeze ramp, and has
no effect on a lane in another state (R47). That a LANE_FREEZE by an action on a STOPPED lane is BUSY, where R145 speaks of
LANE_STOPPED, is the model's reading (log entry 33). -/
def Obligations.LaneFreezeEntersTheSchedule : Prop :=
  (∀ (via : Via) (s : State) (p : List Byte), asked via 0x24 s p = true → 9 ≤ p.length →
    let d := (begun via s).dev
    (modeAt p 1 = none ∨ whenAt p 2 = none → exec (.laneFreeze via) s = .next (concluded via s d .badField [])) ∧
    (∀ (mode : Mode) (w : When) (r : Result), modeAt p 1 = some mode → whenAt p 2 = some w →
      resolveWhen (callerOf via s) w = .error r → exec (.laneFreeze via) s = .next (concluded via s d r [])) ∧
    ∀ (mode : Mode) (w w' : When), modeAt p 1 = some mode → whenAt p 2 = some w →
      resolveWhen (callerOf via s) w = .ok w' →
      (7 < u8 p 0 → exec (.laneFreeze via) s = .next (concluded via s d .outOfRange [])) ∧
      ∀ l : Fin 8, u8 p 0 = l.val →
        let x := d.lane l
        let x' : Lane :=
          { x with schedule := placed { stamp := stampAt x w', kind := .laneFreeze mode } x.schedule }
        exec (.laneFreeze via) s = .next
          (if w'.isRel then concluded via s d .badField []
           else if x.state = .stopped ∨ x.state = .armed then concluded via s d .busy []
           else if x.state = .frozen then concluded via s d .ok []
           else if 16 ≤ x.schedule.length then concluded via s d .full []
           else concluded via s { d with lanes := put d.lanes l x' } .ok [])) ∧
  ∀ (k : Block) (l : Fin 8) (t stamp : Nat),
    let x := k.dev.lane l
    let y : Lane :=
      { x with state := .freezing, ampTarget := Val.zero, rampLeft := x.freezeRamp
               ampNow := if x.freezeRamp = 0 then Val.zero else x.ampNow }
    let frozen := k.apply l t { stamp := stamp, kind := .laneFreeze .soft }
    (x.state = .running → frozen = { k with dev := k.dev.setLane l y }) ∧ (x.state ≠ .running → frozen = k)

/-- LANE_QUIET acts on the two quiet flags by its order (R51), and LANE_COMPARE_SET stores or clears the compare value
(R53), in any lane state. An order that is no code, and a presence byte above 1 of LANE_COMPARE_SET, is refused BAD_FIELD
before the lane's range (R209; log entry 14). -/
def Obligations.LaneQuietAndCompareActInAnyState : Prop :=
  ∀ (s : State) (p : List Byte),
    let fails (result : Result) := Host.Outcome.next (concluded .request s s.dev result [])
    (asked .request 0x26 s p = true → 2 ≤ p.length →
      (2 < u8 p 1 → exec .laneQuiet s = fails .badField) ∧
      (u8 p 1 ≤ 2 → 7 < u8 p 0 → exec .laneQuiet s = fails .outOfRange) ∧
      ∀ l : Fin 8, u8 p 1 ≤ 2 → u8 p 0 = l.val →
        let x := s.dev.lane l
        let y : Lane := match u8 p 1 with
          | 0 => { x with quiet := true, quietPendingOff := false }
          | 1 => { x with quietPendingOff := x.quiet }
          | _ => { x with quiet := false, quietPendingOff := false }
        exec .laneQuiet s = .next (concluded .request s { s.dev with lanes := put s.dev.lanes l y } .ok [])) ∧
    (asked .request 0x27 s p = true → 8 ≤ p.length →
      (1 < u8 p 1 → exec .laneCompareSet s = fails .badField) ∧
      (u8 p 1 ≤ 1 → 7 < u8 p 0 → exec .laneCompareSet s = fails .outOfRange) ∧
      ∀ l : Fin 8, u8 p 1 ≤ 1 → u8 p 0 = l.val →
        let y : Lane := { s.dev.lane l with compare := if u8 p 1 = 1 then some (u48 p 2) else none }
        exec .laneCompareSet s = .next (concluded .request s { s.dev with lanes := put s.dev.lanes l y } .ok []))

/-- DOMAIN_SET: the checks of R34 in order; an accepted one stores both codes, puts the domain in SETTLING and starts its
settle timer, whose times are 10 µs, 100 µs, 1 ms and 10 ms (R33). When the settle timer of a SETTLING domain expires the
domain becomes READY, which is the moment its block edges count from (R33; log entry 32), and DOMAIN_READY is raised, source
124 for domain A and 125 for B, with the rate code as its detail (R35, R210; the moment by log entry 3). -/
def Obligations.DomainSetSettlesAndThenIsReady : Prop :=
  (∀ (s : State) (p : List Byte), asked .request 0x29 s p = true → 3 ≤ p.length →
     (1 < u8 p 0 ∨ 7 < u8 p 1 → exec .domainSet s = .next (concluded .request s s.dev .outOfRange [])) ∧
     ∀ i : DomainId, u8 p 0 = domainCode i → u8 p 1 ≤ 7 →
       let micros := match u8 p 2 with
         | 0 => 10
         | 1 => 100
         | 2 => 1000
         | _ => 10000
       let x : Domain :=
         { s.dev.domain i with
           state := .settling, rate := u8 p 1, settle := u8 p 2, settleEnds := some (s.dev.now + micros * 30720) }
       exec .domainSet s = .next
         (if 3 < u8 p 2 then concluded .request s s.dev .badField []
          else if ∃ l, (s.dev.lane l).domain = i ∧ (s.dev.lane l).state ≠ .stopped then
            concluded .request s s.dev .busy []
          else match i with
            | .a => concluded .request s { s.dev with domainA := x } .ok []
            | .b => concluded .request s { s.dev with domainB := x } .ok [])) ∧
  (∀ (s : State) (i : DomainId) (moment : Nat), (s.dev.domain i).state = .settling →
     (s.dev.domain i).settleEnds = some moment →
     let x : Domain :=
       { s.dev.domain i with state := .ready, settleEnds := none, readyAt := max s.dev.now moment }
     let d : Device := { s.dev with now := max s.dev.now moment }
     let d : Device := match i with
       | .a => { d with domainA := x }
       | .b => { d with domainB := x }
     let source : Fin 126 := match i with
       | .a => 124
       | .b => 125
     exec (.settleTimerExpiry i) s = .next { s with dev := d.raise source (BitVec.ofNat 8 x.rate) })

/-- The boundary of a RUNNING lane, or of a FREEZING one whose ramp still runs, with no hard freeze due computes a block at
the lane's next block edge: its lane time rises by 64, its schedule keeps only what the boundary did not take, its port
carries 64 samples or, with quiet set, zero, and nothing outside playback changes (R33, R41, R42, R52; the edge by log entry
32); after the last block of the 48-bit range the lane is STOPPED (R32). A lane whose voices are all IDLE, with an empty
schedule and quiet clear, outputs 64 zero samples (R43). A pending release of quiet is done first if no voice sounds (R41,
R51). Sample by sample the lane does what is due, applies the entries stamped there, an entry stamped before the block at its
first sample, adds its voices up, multiplies by master and trim amplitude, rounds, halves away from zero, and saturates (R41,
R43): that at one sample what is due on voices 0 to 3 comes first, then the entries, then the voices 0 to 3, is the model's
choice (log entry 9). The voices are added from 0 to 3, and the power of the voice that the meter measures is kept; the meter gets
those powers, or those of the output samples for the lane sum (R43, R164). After each sample the master amplitude moves one step
to its target and ramp remaining falls by one (R31). The hand-offs complete the boundary: the port and lane time, the readers, the compare value, the meter, the contexts
that wait on the lane, and VOICE_END and OVERRANGE (R42, R53, R44, R144; the order of these is log entry 16). -/
def Obligations.BoundaryComputesABlock : Prop :=
  (∀ (s : State) (l : Fin 8),
    let x := s.dev.lane l
    (s.dev.domain x.domain).state = .ready → x.state = .running ∨ x.state = .freezing ∧ x.rampLeft ≠ 0 →
    (∀ e ∈ x.schedule, e.kind = .laneFreeze .hard → x.time < e.stamp) →
    ∃ edge d, isNextEdge s.dev l edge ∧ exec (.blockBoundary l) s = .next { s with dev := d } ∧
      ({ s.dev with now := edge } : Device).Steadies d ∧ (d.lane l).lastEdge = edge ∧
      (x.time + 64 < 281474976710656 →
        (d.lane l).time = x.time + 64 ∧
        (d.lane l).schedule =
          x.schedule.dropWhile (fun e => e.stamp < x.time + 64 && e.kind ≠ .laneFreeze .hard) ∧
        (d.lane l).carried.length = (if (d.lane l).quiet then 0 else 64)) ∧
      (281474976710656 ≤ x.time + 64 →
        (d.lane l).state = .stopped ∧ (d.lane l).time = 0 ∧ (d.lane l).schedule = [] ∧ (d.lane l).carried = [])) ∧
  (∀ (s : State) (l : Fin 8),
    let x := s.dev.lane l
    (s.dev.domain x.domain).state = .ready → x.state = .running → x.time + 64 < 281474976710656 → x.schedule = [] →
    x.quiet = false → (∀ v, (s.dev.voice l v).state = .idle ∧ (s.dev.voice l v).current = none ∧
      (s.dev.voice l v).binding = none ∧ (s.dev.voice l v).due = .none) →
    ∃ d, exec (.blockBoundary l) s = .next { s with dev := d } ∧
      (d.lane l).carried = List.replicate 64 { i := 0, q := 0 }) ∧
  (∀ (s : State) (l : Fin 8) (edge : Nat),
    let x := s.dev.lane l
    (s.dev.domain x.domain).state = .ready → x.state = .running ∨ x.state = .freezing ∧ x.rampLeft ≠ 0 →
    (∀ e ∈ x.schedule, e.kind = .laneFreeze .hard → x.time < e.stamp) → isNextEdge s.dev l edge →
    let now (e : Entry) : Bool := e.stamp < x.time + 64 && e.kind ≠ .laneFreeze .hard
    let released : Prop := x.quietPendingOff = true ∧ ∀ v, let y := (x.voices.get v).state
      y ≠ .playing ∧ y ≠ .stalled ∧ y ≠ .fading
    let y : Lane :=
      { x with
        schedule := x.schedule.dropWhile now
        quiet := if released then false else x.quiet
        quietPendingOff := if released then false else x.quietPendingOff }
    exec (.blockBoundary l) s = .next { s with
      dev := ((s.dev.atEdge l edge y).computeBlock l (x.schedule.takeWhile now)).complete l x.time }) ∧
  (∀ (k : Block) (l : Fin 8) (b n : Nat) (taken : List Entry),
    let t := b + n
    let here (e : Entry) : Bool := e.stamp = t || n = 0 && e.stamp < b
    let ready := (List.finRange 4).foldl (fun k v => k.takeDue l v t) k
    let summed := ((taken.filter here).foldl (fun k e => k.apply l t e) ready).sumVoices l t
    let output := (summed.1.dev.lane l).output summed.2.1 summed.2.2
    let x := summed.1.dev.lane l
    let stepped : Lane :=
      { x with
        ampNow := match x.rampLeft with
          | 0 => x.ampNow
          | 1 => x.ampTarget
          | m + 2 => addVal (scaleVal (m + 1) (m + 2) x.ampNow) (scaleVal 1 (m + 2) x.ampTarget)
        rampLeft := x.rampLeft - 1 }
    (k.sample l b taken n).out = summed.1.out ++ [output.1] ∧ summed.1.out = k.out ∧
    (k.sample l b taken n).saturated = (summed.1.saturated || output.2) ∧ summed.1.saturated = k.saturated ∧
    (k.sample l b taken n).events = summed.1.events ∧ (k.sample l b taken n).powers = summed.1.powers ∧
    (k.sample l b taken n).cursors = summed.1.cursors ∧ (k.sample l b taken n).reports = summed.1.reports ∧
    (k.sample l b taken n).released = summed.1.released ∧
    (k.sample l b taken n).dev = summed.1.dev.setLane l stepped) ∧
  (∀ (k : Block) (l : Fin 8) (t : Nat),
    let voice (a : Block × Val × Val) (v : Fin 4) : Block × Val × Val :=
      let r := Block.voiceSample 3 a.1 l v t
      let measured : Prop := (r.1.dev.meter l).source = .voice v
      ({ r.1 with powers := if measured then r.1.powers ++ [r.2.power] else r.1.powers },
        addVal a.2.1 r.2.i, addVal a.2.2 r.2.q)
    k.sumVoices l t = voice (voice (voice (voice (k, Val.zero, Val.zero) 0) 1) 2) 3) ∧
  (∀ (k : Block) (v : Fin 4),
    k.meterPowers .laneSum = k.out.map (fun x => scaleVal (x.i * x.i + x.q * x.q) 1 Val.one) ∧
    k.meterPowers (.voice v) = k.powers ∧ k.meterPowers .off = []) ∧
  (∀ (x : Lane) (i q : Val),
    let component (a : Val) : Int := roundVal (mulVal (mulVal a x.ampNow) (gainAmplitude x.trim))
    let within (n : Int) : Bool := -32768 ≤ n && n ≤ 32767
    (x.output i q).1 = { i := max (-32768) (min 32767 (component i)), q := max (-32768) (min 32767 (component q)) } ∧
    (x.output i q).2 = !(within (component i) && within (component q))) ∧
  (∀ (n : Int) (d : Nat), n ≠ 0 → 0 < d →
    let nearest : Int := (2 * n.natAbs + d) / (2 * d)
    roundVal { den := d, terms := [{ root := 0, angle := 0, num := n }] } = if n < 0 then -nearest else nearest) ∧
  (∀ (k : Block) (l : Fin 8) (b : Nat),
    let ported (time : Nat) (x : Lane) : Lane := { x with carried := if x.quiet then [] else k.out, time := time }
    let tested (d : Device) : Device :=
      let d := (k.handOffReaders d).compareTest l b
      d.meterBlock l (k.meterPowers (d.meter l).source)
    let told (d : Device) : Device := (d.raiseAll k.events).overrange l k.saturated
    (b + 64 < 281474976710656 →
      k.complete l b = told ((tested (k.dev.updLane l (ported (b + 64)))).wakeContexts l (b + 64))) ∧
    (281474976710656 ≤ b + 64 →
      k.complete l b = (told (tested (k.dev.updLane l fun x => ported x.time x))).stopLane l)) ∧
  ∀ (d : Device) (l : Fin 8) (b : Nat),
    let x := d.lane l
    let matched : Lane := { x with compare := none }
    let counted : Lane := { x with overrange := min (x.overrange + 1) 4294967295 }
    (x.compare = none → d.compareTest l b = d) ∧
    (∀ c, x.compare = some c → d.compareTest l b =
      if c ≤ b + 63 then (d.setLane l matched).raise (srcLaneCompare l) 0 else d) ∧
    d.overrange l false = d ∧ d.overrange l true = (d.setLane l counted).raise (srcOverrange l) 0 ∧
    d.wakeContexts l b = { d with cue := { d.cue with stack := d.cue.stack.map fun c =>
      match c.state with
      | .running => c
      | .waiting m target => if m = l ∧ target < b then { c with state := .running } else c } }

/-- A clip played alone at 0 dB, without fades, ramps or shift, on a lane at 0 dB reaches the port sample by sample: the 64
samples of the block are the clip's samples from the voice's position on, and the position moves by 64 (R17, R18, R19, R31,
R43, R52, R118); the edge at which the lane computes it is the model's choice (log entry 32). At the block's first sample a
master ramp that was due begins (R36, R50), and one of 0 samples steps (log entry 25). A block is 64 samples, after the lane has taken the hot fields of its voices' segments (R7) and its STALLED
voices have tried again (R88). A voice that advances without a reader plays its clip's sample, or zero, at its amplitude: the
gain envelope, the edge fade of R20 and the stop fade of R24, rotated by its phase (R18); it then steps its phase, its ramp, its position, its repeats
and its stop fade, and past the final repeat or the stop fade its segment is due to end (R18 to R20, R24). What is due is
taken at the next sample (log entry 8): the segment ends COMPLETE, or STOPPED in FADING, and a voice not in FADING chains to
next, claiming a reader for a STREAM segment; a chain that cannot be played ends at once with its own cause (R21, R22, R27).
A voice with a reader reads DATA or a void, under ZERO_FILL reads zero where its position is absent, and reports it lacking,
and under STALL becomes STALLED there, or ends STOPPED in FADING; a read that comes to F, or a reader found at F, ends its
segment (R84, R87, R88, R91), and a chain of the second begins at that sample and plays from it. The fields that a voice keeps
when its segment ends are the model's reading (log entry 24). -/
def Obligations.ClipAtUnityReachesThePort : Prop :=
  (∀ (s : State) (l : Fin 8) (v : Fin 4) (g : Fin 1024) (c : Fin 256) (n : Nat),
     let d := s.dev
     let x := d.lane l
     let y := d.voice l v
     let f := (d.segment g).fixed
     (d.domain x.domain).state = .ready → x.state = .running → x.time + 64 < 281474976710656 → x.schedule = [] →
     x.quiet = false → x.ampTarget = Val.one → x.rampLeft = 0 → x.trim = 0 →
     (∀ w, w ≠ v → (d.voice l w).state = .idle ∧ (d.voice l w).current = none ∧ (d.voice l w).binding = none ∧
       (d.voice l w).due = .none) →
     y.state = .playing → y.current = some g → y.hot = some (d.segment g).hot → y.binding = some (.clip c) →
     y.ampNow = Val.one → y.ampTarget = Val.one → y.rampLeft = 0 → y.stopFade = none → y.phase = 0 → y.step = 0 →
     (d.segment g).hot.shift = 0 → y.due = .none → f.ramp = 0 → f.length = .samples n → y.position + 64 < n →
     ∃ edge e, isNextEdge s.dev l edge ∧ exec (.blockBoundary l) s = .next { s with dev := e } ∧
       (e.lane l).carried = ((List.range 64).map fun i =>
         clipSample d.coldResets d.clips.memory (d.clip c).extents (f.startOffset + (y.position + i))) ∧
       (e.voice l v).position = y.position + 64 ∧ (e.voice l v).state = .playing ∧
       (e.voice l v).current = some g ∧ ({ d with now := edge } : Device).Steadies e) ∧
  (∀ (d : Device) (l : Fin 8) (taken : List Entry),
    let settled (x : Lane) : Lane :=
      { x with rampDue := false, ampNow := if x.rampLeft = 0 then x.ampTarget else x.ampNow }
    d.computeBlock l taken = (List.range 64).foldl (fun k n => k.sample l (d.lane l).time taken n)
      ((List.finRange 4).foldl (fun k v => k.retry l v) (Block.start ((d.takeHot l).updLane l settled) l))) ∧
  (∀ (d : Device) (l : Fin 8) (v : Fin 4),
    let x := d.voice l v
    (x.current = none ∨ x.hot = none → (d.takeHot l).voice l v = x) ∧
    ∀ g old, x.current = some g → x.hot = some old →
      let seg := d.segment g
      let turned : Prop := old.gain ≠ seg.hot.gain ∧ x.gainOverride = false
      let target := if turned then gainAmplitude seg.hot.gain else x.ampTarget
      (d.takeHot l).voice l v =
        { x with
          hot := some seg.hot, step := if old.shift = seg.hot.shift then x.step else seg.hot.shift
          ampTarget := target, rampLeft := if turned then seg.fixed.ramp else x.rampLeft
          ampNow := if turned ∧ seg.fixed.ramp = 0 then target else x.ampNow }) ∧
  (∀ (k : Block) (l : Fin 8) (v : Fin 4) (t : Nat) (g : Fin 1024),
    let x := k.dev.voice l v
    let f := (k.dev.segment g).fixed
    let sample : Sample := match x.binding with
      | some (.clip c) =>
        clipSample k.dev.coldResets k.dev.clips.memory (k.dev.clip c).extents (f.startOffset + x.position)
      | _ => { i := 0, q := 0 }
    (x.state ≠ .playing → x.state ≠ .fading → Block.voiceSample 3 k l v t = (k, Contribution.zero)) ∧
    (x.current = some g → x.state = .playing ∨ x.state = .fading → k.cursors.get v = none →
      Block.voiceSample 3 k l v t = ({ k with dev := k.dev.setVoice l v (x.stepSample f) },
        contribution (x.amplitude f) sample x.phase))) ∧
  (∀ (x : Voice) (f : Fixed),
    let e := match f.length with
      | .samples n => min f.ramp (n / 2)
      | .untilEnd => f.ramp
    let edge : Nat × Nat :=
      if x.position < e ∧ (f.fadeEach = true ∨ x.firstRepeat = true) then (x.position, e)
      else match f.length with
        | .samples n =>
          if 0 < e ∧ n ≤ x.position + e ∧ (f.fadeEach = true ∨ x.repeats = .left 1) then (n - 1 - x.position, e)
          else (1, 1)
        | .untilEnd => (1, 1)
    let stop : Nat × Nat := match x.stopFade with
      | none => (1, 1)
      | some left => (left, max f.ramp 1)
    let finished : Bool := match f.length with
      | .samples n => n ≤ x.position + 1
      | .untilEnd => false
    let last : Bool := finished && match x.repeats with
      | .left r => r ≤ 1
      | .endless => false
    x.amplitude f = scaleVal stop.1 stop.2 (scaleVal edge.1 edge.2 x.ampNow) ∧
    x.stepSample f =
      { x with
        phase := x.phase + x.step
        ampNow := match x.rampLeft with
          | 0 => x.ampNow
          | 1 => x.ampTarget
          | n + 2 => addVal (scaleVal (n + 1) (n + 2) x.ampNow) (scaleVal 1 (n + 2) x.ampTarget)
        rampLeft := x.rampLeft - 1
        position := if last then x.position else if finished then 0 else x.position + 1
        repeats := if finished && !last then match x.repeats with
            | .left r => .left (r - 1)
            | .endless => .endless
          else x.repeats
        firstRepeat := if finished && !last then false else x.firstRepeat
        stopFade := x.stopFade.map fun left => left - 1
        due := if last ∨ x.stopFade.any (fun left => left ≤ 1) = true then .ended else x.due }) ∧
  (∀ (k : Block) (l : Fin 8) (v : Fin 4) (t : Nat),
    let x := k.dev.voice l v
    let after := k.takeDue l v t
    let cause : EndCause := if x.state = .fading then .stopped else .complete
    let code : Byte := if x.state = .fading then 1 else 0
    let next : Option (Fin 1024) := if x.state = .fading then none else x.hot.bind Hot.next
    let ended : List (Fin 126 × Byte) :=
      if x.due = .ended ∧ x.hot.any Hot.endEvent = true then [(srcVoiceEnd l v, code)] else []
    (x.due = .none → after = k) ∧
    (x.due = .ended → next = none →
      after.dev.voice l v = x.stoppedBy cause ∧ after.events = k.events ++ ended) ∧
    ∀ g, x.due = .ended ∧ next = some g ∨ x.due = .chain g →
      let seg := k.dev.segment g
      let n := seg.fixed.slot
      let slot := k.dev.slot n
      let granted : Prop :=
        seg.fixed.kind = .stream ∧ (slot.state = .filling ∨ slot.state = .primed) ∧ slot.readers.length < 8
      let claim := if granted then some (n, slot.freeIndex) else none
      (∀ b, k.dev.bindingOf seg.fixed claim = .ok b →
        after.dev.voice l v = x.playingOn g seg b (if x.due = .ended then some .complete else x.lastCause) ∧
        after.events = k.events ++ ended) ∧
      (∀ e, k.dev.bindingOf seg.fixed claim = .error e →
        after.dev.voice l v = x.stoppedBy e ∧
        after.events = k.events ++ ended ++
          (if seg.hot.endEvent then [(srcVoiceEnd l v, BitVec.ofNat 8 (endCauseCode e))] else [])) ∧
      (granted → ∃ r ∈ (after.dev.slot n).readers, r.index = slot.freeIndex ∧ r.lane = l ∧ r.voice = v ∧
        r.pending = false ∧ r.cell = slot.h ∧ r.offset = 0)) ∧
  (∀ (k : Block) (l : Fin 8) (v : Fin 4) (t : Nat) (g : Fin 1024) (c : Cursor),
    let x := k.dev.voice l v
    let f := (k.dev.segment g).fixed
    let slot := k.dev.slot c.slot
    let cause : EndCause := if x.state = .fading then .stopped else .complete
    let next : Option (Fin 1024) := if x.state = .fading then none else x.hot.bind Hot.next
    let atEnd : Prop := slot.state = .draining ∧ slot.final.any (fun final => atOrAfter c.cell final) = true
    let comesToEnd : Prop := slot.state = .draining ∧ 63 ≤ c.offset ∧ slot.final = some (c.cell + 1)
    let held := lookAt c.cell slot.queue
    let r := Block.voiceSample 3 k l v t
    let y := x.stepSample f
    let moved (lacking : Bool) : Cursor :=
      { c with
        cell := if c.offset < 63 then c.cell else c.cell + 1
        offset := if c.offset < 63 then c.offset + 1 else 0
        lacking := lacking, read := true, touched := true }
    let reads (s : Sample) (lacking : Bool) : Prop :=
      r.2 = contribution (x.amplitude f) s x.phase ∧
      (¬ comesToEnd →
        r.1 = { k with cursors := put k.cursors v (some (moved lacking)), dev := k.dev.setVoice l v y }) ∧
      (comesToEnd → r.1.reports = k.reports ++ [moved lacking] ∧ r.1.released = k.released ++ [(c.slot, c.index)] ∧
        r.1.dev.voice l v = match next with
          | none => y.stoppedBy cause
          | some h => { y.stoppedBy cause with state := .playing, due := .chain h })
    x.current = some g → x.state = .playing ∨ x.state = .fading → k.cursors.get v = some c →
    (¬ atEnd →
      (∀ samples, held = .data samples → reads (samples.getD c.offset { i := 0, q := 0 }) false) ∧
      (held = .void → reads { i := 0, q := 0 } false) ∧
      (held = .absent → slot.config.policy = .zeroFill → reads { i := 0, q := 0 } true) ∧
      (held = .absent → slot.config.policy = .stall → r.2 = Contribution.zero ∧
        (x.state = .playing → r.1 =
          { k with
            cursors := put k.cursors v (some { c with lacking := true, touched := true })
            dev := k.dev.setVoice l v { x with state := .stalled } }) ∧
        (x.state = .fading → r.1.dev.voice l v = x.stoppedBy .stopped))) ∧
    (atEnd → next = none → r.2 = Contribution.zero ∧ r.1.dev.voice l v = x.stoppedBy cause) ∧
    (atEnd → next.isSome = true →
      let due : Block := { k with dev := k.dev.setVoice l v { x with due := .ended } }
      r = Block.voiceSample 2 (due.takeDue l v t) l v t)) ∧
  (∀ (amp : Val) (x : Sample) (phase : BitVec 32),
    let sine := phase - 0x40000000
    contribution amp x phase =
      { i := addVal (turnVal amp x.i phase) (turnVal amp (-x.q) sine)
        q := addVal (turnVal amp x.i sine) (turnVal amp x.q phase)
        power := scaleVal (x.i * x.i + x.q * x.q) 1 (mulVal amp amp) }) ∧
  ∀ (k : Block) (l : Fin 8) (v : Fin 4),
    let x := k.dev.voice l v
    (x.state ≠ .stalled → k.retry l v = k) ∧
    ∀ c, x.state = .stalled → k.cursors.get v = some c →
      let slot := k.dev.slot c.slot
      let atEnd : Prop := slot.state = .draining ∧ slot.final.any (fun final => atOrAfter c.cell final) = true
      (atEnd → k.retry l v = { k with dev := k.dev.setVoice l v { x with due := .ended } }) ∧
      (¬ atEnd → lookAt c.cell slot.queue = .absent →
        k.retry l v = { k with cursors := put k.cursors v (some { c with lacking := true, touched := true }) }) ∧
      (¬ atEnd → lookAt c.cell slot.queue ≠ .absent →
        k.retry l v = { k with dev := k.dev.setVoice l v { x with state := .playing } })

/-- A boundary that finds the freeze ramp of a FREEZING lane finished makes it FROZEN and computes no block; one that finds
a hard freeze due takes that entry alone and makes the lane FROZEN with its amplitude at 0. Either takes the lane's next
block edge (log entry 32); lane time stays and the port carries zero (R41, R47, R48). At that moment each marker with a
condition of the lane takes its frozen level: HOLD_LAST holds its logical state, that of a lane running or of its pulse, and
stops the count of a pulse in progress; FORCE_ACTIVE and FORCE_INACTIVE drop the pulse (R155, R157). -/
def Obligations.BoundaryFreezesTheLane : Prop :=
  ∀ (s : State) (l : Fin 8),
    let x := s.dev.lane l
    let frozenAt (edge : Nat) (d : Device) : Prop :=
      (d.lane l).state = .frozen ∧ (d.lane l).time = x.time ∧ (d.lane l).voices = x.voices ∧ (d.lane l).carried = [] ∧
      (d.lane l).lastEdge = edge ∧ (∀ m, m ≠ l → d.lane m = s.dev.lane m) ∧ d.intake = s.dev.intake ∧
      d.cue = s.dev.cue ∧ d.notices = s.dev.notices ∧ d.meters = s.dev.meters ∧
      ({ s.dev with now := edge } : Device).Steadies d ∧
      ∀ n, let m := s.dev.markers.get n
        let m' := d.markers.get n
        let level : Bool := match m.condition with
          | .laneRunning _ => true
          | _ => m.pulse ≠ .none
        let stopped : Pulse := match m.pulse with
          | .running endsAt => .held (endsAt - edge)
          | .none => .none
          | .held left => .held left
        (m.condition.lane ≠ some l → m' = m) ∧
        (m.condition.lane = some l → m.frozenLevel = .holdLast →
          m' = { m with frozenHold := some level, pulse := stopped }) ∧
        (m.condition.lane = some l → m.frozenLevel ≠ .holdLast → m' = { m with pulse := .none })
    (s.dev.domain x.domain).state = .ready →
    (x.state = .freezing → x.rampLeft = 0 →
      ∃ edge d, isNextEdge s.dev l edge ∧ exec (.blockBoundary l) s = .next { s with dev := d } ∧ frozenAt edge d ∧
        (d.lane l).schedule = x.schedule) ∧
    (∀ (e : Entry) (before after : List Entry), x.state = .running ∨ x.state = .freezing ∧ x.rampLeft ≠ 0 →
      x.schedule = before ++ e :: after → e.kind = .laneFreeze .hard → e.stamp ≤ x.time →
      (∀ y ∈ before, y.kind = .laneFreeze .hard → x.time < y.stamp) →
      ∃ edge d, isNextEdge s.dev l edge ∧ exec (.blockBoundary l) s = .next { s with dev := d } ∧ frozenAt edge d ∧
        (d.lane l).schedule = before ++ after ∧ (d.lane l).ampNow = Val.zero ∧ (d.lane l).ampTarget = Val.zero ∧
        (d.lane l).rampLeft = 0 ∧ (d.lane l).rampDue = false)

/-- An ARMED lane with start due set starts at its next block edge of its READY domain: it computes its first block, samples
0 to 63, and start due is cleared (R38, R41; the edge by log entry 32). At its next block edge a FROZEN lane with
meter-in-freeze set hands its meter 64 zero samples; with meter-in-freeze clear nothing changes (R49, R164). A meter that is
not IDLE adds a block's powers up and counts its 64 samples. When they fill its window, SETTLING becomes MEASURING with
nothing stored; MEASURING stores the level with the lane time, sets fresh, stays MEASURING in CONTINUOUS mode and becomes
IDLE in SINGLE, and raises METER_HIGH or METER_LOW where the level, and not the result before it, lies past the threshold
(R164 to R166). The level of a power without roots is the greatest hundredth of a dB that is at most a half above it, from
-12000 to 4383; that of no power is -12000 (R165). -/
def Obligations.EdgesOfArmedAndFrozenLanes : Prop :=
  (∀ (s : State) (l : Fin 8),
     let x := s.dev.lane l
     (s.dev.domain x.domain).state = .ready → x.state = .armed → x.startDue = true →
     (∀ e ∈ x.schedule, e.kind = .laneFreeze .hard → 0 < e.stamp) →
     ∃ edge d, isNextEdge s.dev l edge ∧ exec (.laneStartsAtEdge l) s = .next { s with dev := d } ∧
       ((d.lane l).state = .running ∨ (d.lane l).state = .freezing) ∧ (d.lane l).time = 64 ∧
       (d.lane l).startDue = false ∧ (d.lane l).carried.length = (if (d.lane l).quiet then 0 else 64) ∧
       (d.lane l).lastEdge = edge ∧ ({ s.dev with now := edge } : Device).Steadies d) ∧
  (∀ (s : State) (l : Fin 8),
     let x := s.dev.lane l
     (x.state = .frozen → x.meterInFreeze = false → exec (.frozenEdge l) s = .next s) ∧
     ∀ edge, (s.dev.domain x.domain).state = .ready → x.state = .frozen → x.meterInFreeze = true →
       isNextEdge s.dev l edge →
       exec (.frozenEdge l) s = .next { s with dev := (s.dev.atEdge l edge x).meterBlock l [] }) ∧
  (∀ (d : Device) (l : Fin 8) (powers : List Val),
     let m := d.meter l
     let stores (m' : Meter) : Device := { d with meters := put d.meters l m' }
     let window := 256 * 4 ^ m.window
     let acc := powers.foldl addVal m.acc
     let empty : Meter := { m with acc := Val.zero, counted := 0 }
     let counting : Meter := { m with acc := acc, counted := m.counted + 64 }
     let settled : Meter := { empty with state := .measuring }
     let level := levelOf acc window
     let measured : Meter :=
       { empty with
         result := some (level, (d.lane l).time), fresh := true
         state := if m.continuous then .measuring else .idle }
     let wasHigh : Bool := m.result.any fun r => m.high < r.1
     let wasLow : Bool := m.result.any fun r => r.1 < m.low
     (m.state = .idle → d.meterBlock l powers = d) ∧
     (m.state ≠ .idle → m.counted + 64 < window → d.meterBlock l powers = stores counting) ∧
     (m.state = .settling → window ≤ m.counted + 64 → d.meterBlock l powers = stores settled) ∧
     (m.state = .measuring → window ≤ m.counted + 64 → d.meterBlock l powers =
       if m.high < level ∧ wasHigh = false then (stores measured).raise (srcMeterHigh l) 0
       else if level < m.low ∧ wasLow = false then (stores measured).raise (srcMeterLow l) 0
       else stores measured)) ∧
  (∀ den window : Nat, levelOf { den := den, terms := [] } window = -12000) ∧
  ∀ (n den window : Nat), 0 < n → 0 < den → 0 < window →
    let full := den * (window * 32767 ^ 2)
    let reached (hundredths : Int) : Prop :=
      full ^ 2000 * 10 ^ (2 * hundredths - 1).toNat ≤ n ^ 2000 * 10 ^ (1 - 2 * hundredths).toNat
    let level := levelOf { den := den, terms := [{ root := 0, angle := 0, num := n }] } window
    level ≤ 4383 ∧ -12000 ≤ level ∧ (level = -12000 ∨ reached level) ∧
      ∀ higher : Int, level < higher → higher ≤ 4383 → ¬ reached higher

/-! ## Stream Intake (03, 04) -/

/-- TAG_WRITE: the checks of R56 in order; a write that passes them stores the entry, with slot 0 for DISCARD; an action
code that is no action is refused first, by R209. TAG_READ returns the entry as stored; a number above 31 gives
OUT_OF_RANGE; no state changes (R57). -/
def Obligations.TagWriteStoresAndTagReadReturns : Prop :=
  (∀ (s : State) (p : List Byte), asked .request 0x30 s p = true → 7 ≤ p.length →
     (1 < u8 p 5 → exec .tagWrite s = .next (concluded .request s s.dev .badField [])) ∧
     (u8 p 5 ≤ 1 → 31 < u16 p 0 → exec .tagWrite s = .next (concluded .request s s.dev .outOfRange [])) ∧
     ∀ n : Fin 32, u8 p 5 ≤ 1 → u16 p 0 = n.val →
       let k := s.dev.intake
       let toSlot : Bool := u8 p 5 = 0
       let e : TagEntry :=
         { valid := flagAt p 2, tag := BitVec.ofNat 16 (u16 p 3), toSlot := toSlot, slot := if toSlot then u8 p 6 else 0 }
       let old := k.tags.get n
       let result : Result :=
         if e.valid = true ∧ (e.tag = 0x0000 ∨ e.tag = 0xFFFF) then .badField
         else if toSlot = true ∧ 15 < e.slot then .outOfRange
         else if e.valid = true ∧ (∃ m, m ≠ n ∧ (k.tags.get m).valid = true ∧ (k.tags.get m).tag = e.tag) then .inUse
         else if e.valid = true ∧ toSlot = true ∧ (∃ m, m ≠ n ∧ (k.tags.get m).valid = true ∧
           (k.tags.get m).toSlot = true ∧ (k.tags.get m).slot = e.slot) then .inUse
         else if old.valid = true ∧ old.toSlot = true ∧ (∃ i : Fin 16, old.slot = i.val ∧ (k.slots.get i).isOpen = true) ∧
           old ≠ e then .inUse
         else .ok
       exec .tagWrite s = .next (concluded .request s
         (if result = .ok then { s.dev with intake := { k with tags := put k.tags n e } } else s.dev) result [])) ∧
  (∀ (s : State) (p : List Byte), asked .request 0x31 s p = true → 2 ≤ p.length →
     (31 < u16 p 0 → exec .tagRead s = .next (concluded .request s s.dev .outOfRange [])) ∧
     ∀ n : Fin 32, u16 p 0 = n.val →
       let e := s.dev.intake.tags.get n
       exec .tagRead s = .next (concluded .request s s.dev .ok
         (bFlag e.valid ++ b16 e.tag.toNat ++ b8 (if e.toSlot then 0 else 1) ++ b8 e.slot)))

/-- STREAM_OPEN: the checks of R61 in order; an accepted one sets the slot up in FILLING at its first expected sequence,
with nothing queued, no reader, GO and counters 0 (R62). A policy code that is no policy is refused first, by R209. -/
def Obligations.StreamOpenChecksInOrderAndSetsUp : Prop :=
  ∀ (s : State) (p : List Byte), asked .request 0x32 s p = true → 23 ≤ p.length →
    (1 < u8 p 18 → exec .streamOpen s = .next (concluded .request s s.dev .badField [])) ∧
    (u8 p 18 ≤ 1 → 15 < u8 p 0 → exec .streamOpen s = .next (concluded .request s s.dev .outOfRange [])) ∧
    ∀ n : Fin 16, u8 p 18 ≤ 1 → u8 p 0 = n.val →
      let quota := u32 p 1
      let config : SlotConfig :=
        { quota := quota, prime := u32 p 5, high := u32 p 9, low := u32 p 13, gapLimit := u8 p 17
          policy := if u8 p 18 = 0 then .zeroFill else .stall, firstExpected := BitVec.ofNat 32 (u32 p 19) }
      let opened : Slot :=
        { state := .filling, config := config, e := config.firstExpected, h := config.firstExpected, queue := []
          readers := [], hold := false, final := none, endCause := none, counters := SlotCounters.zero
          consumed := false, earlyLeave := false }
      let result : Result :=
        if quota < 1 ∨ 4096 < quota then .outOfRange
        else if config.prime < 1 ∨ quota < config.prime then .outOfRange
        else if config.high < 1 ∨ quota < config.high then .outOfRange
        else if config.high ≤ config.low then .badField
        else if config.gapLimit < 1 then .outOfRange
        else if (s.dev.slot n).isOpen = true then .busy
        else if s.dev.intake.slotTag n = none then .notReady
        else .ok
      exec .streamOpen s = .next (concluded .request s
        (if result = .ok then
          { s.dev with intake := { s.dev.intake with slots := put s.dev.intake.slots n opened } }
         else s.dev) result [])

/-- STREAM_CLOSE: a shut slot becomes CLOSED; an open one with readers is refused IN_USE without force; else the slot
becomes CLOSED with an empty queue, no readers and GO, it keeps E, H, F, its end cause and its counters, every buffer it
held is free again, no playing voice reads it and no pending start claims it (R63, R29, R94). -/
def Obligations.StreamCloseShutsTheSlot : Prop :=
  ∀ (s : State) (p : List Byte), asked .request 0x33 s p = true → 2 ≤ p.length →
    (15 < u8 p 0 → exec .streamClose s = .next (concluded .request s s.dev .outOfRange [])) ∧
    ∀ n : Fin 16, u8 p 0 = n.val →
      let x := s.dev.slot n
      let closed : Slot := { x with state := .closed }
      (x.isOpen = false → exec .streamClose s = .next (concluded .request s
        { s.dev with intake := { s.dev.intake with slots := put s.dev.intake.slots n closed } } .ok [])) ∧
      (x.isOpen = true → x.readers ≠ [] → flagAt p 1 = false →
        exec .streamClose s = .next (concluded .request s s.dev .inUse [])) ∧
      (x.isOpen = true → x.readers = [] ∨ flagAt p 1 = true →
        ∃ d, exec .streamClose s = .next (concluded .request s d .ok []) ∧
          (let y := d.slot n
           y.state = .closed ∧ y.queue = [] ∧ y.readers = [] ∧ y.hold = false ∧ y.e = x.e ∧ y.h = x.h ∧
           y.final = x.final ∧ y.endCause = x.endCause ∧ y.counters = x.counters ∧ y.config = x.config) ∧
          d.intake.tags = s.dev.intake.tags ∧
          d.intake.pool.free = s.dev.intake.pool.free + x.held ∧
          (∀ l v, ((d.voice l v).current.isSome = true → (d.voice l v).reads n = false) ∧
            (d.voice l v).claims n = false) ∧
          ((∀ l v, (s.dev.voice l v).reads n = false ∧ (s.dev.voice l v).claims n = false) →
            d.lanes = s.dev.lanes) ∧
          s.dev.Steadies d)

/-- POOL_CONFIG stores the reserve and the hysteresis and tests the pool's flow state against them: with too few free
buffers the pool asks all streams to hold, and with enough it releases the hold; the change queues its flow cell (R77,
R95). That R and Y take 4 bytes each is the model's reading of R209 (log entry 13). -/
def Obligations.PoolConfigStoresAndTests : Prop :=
  ∀ (s : State) (p : List Byte), asked .request 0x35 s p = true → 8 ≤ p.length →
    let r := u32 p 0
    let y := u32 p 4
    let k := s.dev.intake
    let gives (hold : Bool) (outbox : List FlowEntry) := Host.Outcome.next (concluded .request s
      { s.dev with intake :=
          { k with pool := { free := k.pool.free, reserve := r, hysteresis := y, hold := hold }, outbox := outbox } }
      .ok [])
    exec .poolConfig s =
      if 4095 < r ∨ y < 1 ∨ 4096 < r + y then .next (concluded .request s s.dev .outOfRange [])
      else if k.pool.hold = false ∧ k.pool.free < r then
        gives true (placeFlow { subject := .all, tag := 0, hold := true } k.outbox)
      else if k.pool.hold = true ∧ r + y ≤ k.pool.free then
        gives false (placeFlow { subject := .all, tag := 0, hold := false } k.outbox)
      else gives k.pool.hold k.outbox

/-- A SAMPLE cell for this unit whose tag feeds an open slot, at the slot's next expected sequence with quota and buffers
left: it is stored in a DATA entry, E rises by one, a buffer leaves the pool, and the accepted count rises; if held then
reaches the prime level of a FILLING slot it becomes PRIMED, and the flow tests may queue flow cells (R58, R69, R75, R93,
R95). A cell past E within the gap limit first marks the missing positions as a void run and is then taken in the same way
(R68). A cell at its turn is a void of one position, and nothing else changes, when the slot holds its quota, which counts
over-quota, or else when the pool is empty, which counts pool-empty (R69). -/
def Obligations.SampleInOrderIsStored : Prop :=
  (∀ (s : State) (addr : Byte) (tag : BitVec 16) (q : Seq) (payload : List Byte) (n : Fin 16),
     s.hears addr = true → payload.length = 256 → s.dev.intake.lookup tag = .slot n →
     let x := s.dev.slot n
     (x.state = .filling ∨ x.state = .primed ∨ x.state = .running) → q = x.e → precedes x.e x.h = false →
     (x.e + 1 - x.h).toNat ≤ 1073741824 → x.held < x.config.quota → 0 < s.dev.intake.pool.free →
     ∃ d, exec (.sample addr tag q payload) s = .next { s.heard .bench with dev := d } ∧
       (d.slot n).queue = x.queue ++ [.data q (samplesOf payload)] ∧ (d.slot n).e = q + 1 ∧ (d.slot n).h = x.h ∧
       (d.slot n).readers = x.readers ∧ (d.slot n).config = x.config ∧ (d.slot n).final = x.final ∧
       (d.slot n).counters = { x.counters with accepted := satInc x.counters.accepted } ∧
       d.intake.pool.free + 1 = s.dev.intake.pool.free ∧
       (d.slot n).state = (if x.state = .filling ∧ x.config.prime ≤ x.held + 1 then .primed else x.state) ∧
       (∀ m, m ≠ n → d.slot m = s.dev.slot m) ∧ d.intake.tags = s.dev.intake.tags ∧ d.lanes = s.dev.lanes ∧
       s.dev.Steadies d) ∧
  ∀ (s : State) (addr : Byte) (tag : BitVec 16) (q : Seq) (payload : List Byte) (n : Fin 16),
    s.hears addr = true → payload.length = 256 → s.dev.intake.lookup tag = .slot n →
    let k := s.dev.intake
    let x := s.dev.slot n
    let y := x.missingTo q
    let voided : Slot := { y with queue := withVoid q 1 y.queue, e := q + 1 }
    let full : Slot :=
      { voided with counters := { y.counters with overQuota := min (y.counters.overQuota + 1) 4294967295 } }
    let poor : Slot :=
      { voided with counters := { y.counters with poolEmpty := min (y.counters.poolEmpty + 1) 4294967295 } }
    let gives (z : Slot) :=
      (Host.Outcome.next
        { s.heard .bench with dev := { s.dev with intake := { k with slots := put k.slots n z } } } : Out)
    (x.state = .filling ∨ x.state = .primed ∨ x.state = .running) → precedes q x.h = false →
    q = x.e ∨ precedes x.e q = true ∧ (q - x.e).toNat ≤ x.config.gapLimit → (q + 1 - x.h).toNat ≤ 1073741824 →
    (x.held = x.config.quota → exec (.sample addr tag q payload) s = gives full) ∧
    (x.held ≠ x.config.quota → k.pool.free = 0 → exec (.sample addr tag q payload) s = gives poor) ∧
    (x.held ≠ x.config.quota → k.pool.free ≠ 0 →
      ∃ d, exec (.sample addr tag q payload) s = .next { s.heard .bench with dev := d } ∧
        (d.slot n).queue = y.queue ++ [.data q (samplesOf payload)] ∧ (d.slot n).e = q + 1 ∧ (d.slot n).h = x.h ∧
        (d.slot n).readers = x.readers ∧ (d.slot n).config = x.config ∧ (d.slot n).final = x.final ∧
        (d.slot n).counters = { y.counters with accepted := satInc y.counters.accepted } ∧
        d.intake.pool.free + 1 = k.pool.free ∧
        (d.slot n).state = (if x.state = .filling ∧ x.config.prime ≤ x.held + 1 then .primed else x.state) ∧
        (∀ m, m ≠ n → d.slot m = s.dev.slot m) ∧ d.intake.tags = k.tags ∧ d.lanes = s.dev.lanes ∧ s.dev.Steadies d)

/-- A SAMPLE cell for this unit that is late or stale for its open slot, or past the end of a DRAINING one, is discarded and
counted; one that finds no tag entry, a DISCARD entry or a shut slot is discarded and counted as R58 gives (R58, R66, R67,
R73). So is a STREAM_END cell that is late or stale for a slot in FILLING, PRIMED or RUNNING, or that gives a DRAINING slot
its own final sequence again, which counts stale (R58, R72, R73). Nothing else changes. -/
def Obligations.UntakenSamplesAreCounted : Prop :=
  (∀ (s : State) (addr : Byte) (tag : BitVec 16) (q : Seq) (payload : List Byte),
     s.hears addr = true → payload.length = 256 →
     let k := s.dev.intake
     let gives (k : Intake) :=
       (Host.Outcome.next { s.heard .bench with dev := { s.dev with intake := k } } : Out)
     (k.lookup tag = .unknown →
       exec (.sample addr tag q payload) s = gives { k with unknownTag := satInc k.unknownTag }) ∧
     (k.lookup tag = .discard → exec (.sample addr tag q payload) s = gives k) ∧
     ∀ n : Fin 16, k.lookup tag = .slot n →
       let x := k.slots.get n
       let late : Slot := { x with counters := { x.counters with late := satInc x.counters.late } }
       let stale : Slot := { x with counters := { x.counters with stale := satInc x.counters.stale } }
       let pastEnd : Slot := { x with counters := { x.counters with pastEnd := satInc x.counters.pastEnd } }
       (x.isOpen = false →
         exec (.sample addr tag q payload) s = gives { k with closedStream := satInc k.closedStream }) ∧
       (x.isOpen = true → precedes q x.h = true →
         exec (.sample addr tag q payload) s = gives { k with slots := put k.slots n late }) ∧
       (x.isOpen = true → precedes q x.h = false → precedes q x.e = true →
         exec (.sample addr tag q payload) s = gives { k with slots := put k.slots n stale }) ∧
       (x.state = .draining → precedes q x.h = false → precedes q x.e = false →
         exec (.sample addr tag q payload) s = gives { k with slots := put k.slots n pastEnd })) ∧
  ∀ (s : State) (addr : Byte) (tag : BitVec 16) (final : Seq), s.hears addr = true →
    let k := s.dev.intake
    let gives (k : Intake) :=
      (Host.Outcome.next { s.heard .bench with dev := { s.dev with intake := k } } : Out)
    (k.lookup tag = .unknown →
      exec (.streamEnd addr tag final) s = gives { k with unknownTag := satInc k.unknownTag }) ∧
    (k.lookup tag = .discard → exec (.streamEnd addr tag final) s = gives k) ∧
    ∀ n : Fin 16, k.lookup tag = .slot n →
      let x := k.slots.get n
      let late : Slot := { x with counters := { x.counters with late := satInc x.counters.late } }
      let stale : Slot := { x with counters := { x.counters with stale := satInc x.counters.stale } }
      let filled : Prop := x.state = .filling ∨ x.state = .primed ∨ x.state = .running
      (x.isOpen = false →
        exec (.streamEnd addr tag final) s = gives { k with closedStream := satInc k.closedStream }) ∧
      (filled → precedes final x.h = true →
        exec (.streamEnd addr tag final) s = gives { k with slots := put k.slots n late }) ∧
      (filled → precedes final x.h = false → precedes final x.e = true →
        exec (.streamEnd addr tag final) s = gives { k with slots := put k.slots n stale }) ∧
      (x.state = .draining → x.final = some final →
        exec (.streamEnd addr tag final) s = gives { k with slots := put k.slots n stale })

/-- A STREAM_END cell for this unit at the next expected sequence of a slot in FILLING, PRIMED or RUNNING, or past it within
the gap limit, marks what is missing, stores its final sequence and makes the slot DRAINING; in FILLING it also raises
STREAM_PRIMED (R72, R75). A block begins with each reader of the lane's voices where it stands (R84), and hands to the slots S0 to
S15 the readers that read or stalled, those released in the block first and then those of voices 0 to 3, with the releases (R42,
R85; these orders are log entry 16, the model's choice). A SAMPLE or STREAM_END cell past the gap limit, one that would take the span past 2^30, and a second
end that differs break the slot (R66, R69, R70, R72, R73, R29). A hand-off marks the first read, gives each reported reader its
position and lacking flag, which raises STREAM_UNDERRUN as it is set and counts each block (R84, R85, R90), lets the released
readers leave, with early leave where one has not come to F (R83), and settles the slot: the head goes to the lowest reader,
what lies before it leaves the queue, and E follows a head past it (R86); a change of held is tested, buffers go back to the
pool, and a consumed slot left by its last reader ends DONE or ABANDONED with STREAM_END (R92). That E follows in DRAINING
too is the model's reading (log entry 35). -/
def Obligations.SlotsDrainAndBreak : Prop :=
  (∀ (s : State) (addr : Byte) (tag : BitVec 16) (final : Seq) (n : Fin 16),
     s.hears addr = true → s.dev.intake.lookup tag = .slot n →
     let k := s.dev.intake
     let x := k.slots.get n
     let runs (d : Device) :=
       (Host.Outcome.next { s.heard .bench with dev := if x.state = .filling then d.raise (srcStreamPrimed n) 0 else d } : Out)
     (x.state = .filling ∨ x.state = .primed ∨ x.state = .running) → precedes final x.h = false →
     final = x.e ∨
       precedes x.e final = true ∧ (final - x.e).toNat ≤ x.config.gapLimit ∧ (final - x.h).toNat ≤ 1073741824 →
     let y : Slot := { x.missingTo final with state := .draining, final := some final }
     exec (.streamEnd addr tag final) s = runs { s.dev with intake := { k with slots := put k.slots n y } }) ∧
  (∀ (s : State) (addr : Byte) (tag : BitVec 16) (q : Seq) (payload : List Byte) (n : Fin 16),
     s.hears addr = true → payload.length = 256 → s.dev.intake.lookup tag = .slot n →
     let x := s.dev.slot n
     (x.state = .filling ∨ x.state = .primed ∨ x.state = .running) → precedes q x.h = false → precedes q x.e = false →
     x.config.gapLimit < (q - x.e).toNat ∨ 1073741824 < (q + 1 - x.h).toNat →
     ∃ d, exec (.sample addr tag q payload) s = .next { s.heard .bench with dev := d } ∧ s.dev.breaks n d) ∧
  (∀ (s : State) (addr : Byte) (tag : BitVec 16) (final : Seq) (n : Fin 16),
     s.hears addr = true → s.dev.intake.lookup tag = .slot n →
     let x := s.dev.slot n
     ((x.state = .filling ∨ x.state = .primed ∨ x.state = .running) ∧ precedes final x.h = false ∧
         precedes final x.e = false ∧
         (x.config.gapLimit < (final - x.e).toNat ∨ final ≠ x.e ∧ 1073741824 < (final - x.h).toNat)) ∨
       x.state = .draining ∧ x.final ≠ some final →
     ∃ d, exec (.streamEnd addr tag final) s = .next { s.heard .bench with dev := d } ∧ s.dev.breaks n d) ∧
  (∀ (d : Device) (n : Fin 16) (c : Cursor),
    let x := d.slot n
    let moved : Slot :=
      { x with
        readers := x.readers.map fun y =>
          if y.index = c.index then { y with cell := c.cell, offset := c.offset, lacking := c.lacking } else y
        counters := if c.lacking then { x.counters with underrun := satInc x.counters.underrun } else x.counters }
    let told : Device := { d with intake := { d.intake with slots := put d.intake.slots n moved } }
    (x.reader c.index = none → d.takeReport n c = d) ∧
    ∀ r, x.reader c.index = some r → d.takeReport n c =
      if c.lacking = true ∧ r.lacking = false then
        told.raise (srcStreamUnderrun n) (BitVec.ofNat 8 (4 * r.lane.val + r.voice.val))
      else told) ∧
  (∀ (d : Device) (n : Fin 16) (reports : List Cursor) (released : List Nat),
    let x := d.slot n
    let set (d : Device) (x : Slot) : Device := { d with intake := { d.intake with slots := put d.intake.slots n x } }
    let first : Prop := x.consumed = false ∧ ∃ c ∈ reports, c.read = true ∧ (x.reader c.index).isSome = true
    let read : Slot :=
      { x with consumed := true
               state := if x.state = .filling ∨ x.state = .primed then .running else x.state }
    let moved := reports.foldl (fun d c => d.takeReport n c) (if first then set d read else d)
    (reports = [] → released = [] → d.handOff n reports released = d) ∧
    (reports ≠ [] ∨ released ≠ [] →
      d.handOff n reports released = (set moved (released.foldl Slot.leaveIndex (moved.slot n))).settleSlot n)) ∧
  (∀ (d : Device) (l : Fin 8),
    let k := Block.start d l
    (k.dev = d ∧ k.reports = [] ∧ k.released = [] ∧ k.events = [] ∧ k.out = [] ∧ k.saturated = false ∧ k.powers = []) ∧
    ∀ v,
      (∀ n i r, (d.voice l v).binding = some (.stream n i) → (d.slot n).reader i = some r →
        k.cursors.get v = some { slot := n, index := i, cell := r.cell, offset := r.offset, lacking := r.lacking
                                 read := false, touched := false }) ∧
      ((∀ n i, (d.voice l v).binding = some (.stream n i) → (d.slot n).reader i = none) → k.cursors.get v = none)) ∧
  (∀ (k : Block) (d : Device),
    let bound (v : Fin 4) : List Cursor := (k.cursors.get v).toList.filter Cursor.touched
    let reports := k.reports ++ (bound 0 ++ bound 1 ++ bound 2 ++ bound 3)
    let handed (d : Device) (n : Fin 16) : Device :=
      d.handOff n (reports.filter fun c => c.slot = n) ((k.released.filter fun r => r.1 = n).map Prod.snd)
    k.handOffReaders d = (List.finRange 16).foldl handed d) ∧
  (∀ (x : Slot) (index : Nat),
    (x.reader index = none → x.leaveIndex index = x) ∧
    ∀ r, x.reader index = some r → x.leaveIndex index =
      { x with
        readers := x.readers.filter fun y => y.index ≠ index
        earlyLeave := x.earlyLeave || x.consumed && !(x.final.any fun final => atOrAfter r.cell final) }) ∧
  (∀ x : Slot,
    let y := x.recompute
    (x.readers = [] → y = x) ∧
    (x.readers ≠ [] →
      (∃ r ∈ x.readers, r.cell = y.h) ∧ (∀ r ∈ x.readers, (y.h - x.h).toNat ≤ (r.cell - x.h).toNat) ∧
      y = { x with h := y.h, e := y.e, queue := y.queue } ∧
      (precedes x.e y.h = true → y.e = y.h ∧ y.queue = []) ∧
      (precedes x.e y.h = false → y.e = x.e ∧
        (∀ p samples, .data p samples ∈ y.queue → .data p samples ∈ x.queue) ∧
        (∀ p samples, .data p samples ∈ x.queue → (y.h - x.h).toNat ≤ (p - x.h).toNat → .data p samples ∈ y.queue) ∧
        ∀ first rest, y.queue = first :: rest →
          let p := match first with
            | .data p _ => p
            | .void f _ => f
          (y.h - x.h).toNat ≤ (p - x.h).toNat))) ∧
  (∀ (d : Device) (n : Fin 16),
    let x := d.slot n
    let y := x.recompute
    let k : Intake := { d.intake with slots := put d.intake.slots n y }
    let k := if y.held = x.held then k else k.slotFlowTest n
    d.settleSlot n = ({ d with intake := k.freeBuffers (x.held - y.held) } : Device).endTest n) ∧
  ∀ (d : Device) (n : Fin 16),
    let x := d.slot n
    let ends : Prop := x.readers = [] ∧ x.consumed = true ∧ (x.state = .running ∨ x.state = .draining)
    let done : Prop := x.state = .draining ∧ x.earlyLeave = false
    (¬ ends → d.endTest n = d) ∧
    (ends →
      let cause : StreamCause := if done then .done else .abandoned
      d.endTest n = (d.shutSlot n .ended (some cause)).raise (srcStreamEnd n) (if done then 0 else 1) ∧
      ∀ y, y = ((d.shutSlot n .ended (some cause)).slot n) →
        y.state = .ended ∧ y.queue = [] ∧ y.hold = false ∧ y.endCause = some cause ∧ y.e = x.e ∧ y.h = x.h ∧
        y.final = x.final ∧ y.counters = x.counters)

/-! ## Clip Store (05) -/

/-- CLIP_OPEN: the checks of R108 in order. An accepted one takes the pages of the walk of R103: from the first free entry
on, whole entries while their pages are fewer than the remaining need, and then the first pages of the next one, which keeps
its tail or leaves the list. The extents taken, at most 16, are the clip's in that order; the clip takes the lower-numbered
free load slot and is LOADING. A NO_SPACE reply carries the pages of the first sixteen free entries. -/
def Obligations.ClipOpenAllocatesAndLoads : Prop :=
  ∀ (s : State) (p : List Byte), asked .request 0x40 s p = true → 6 ≤ p.length →
    let length := u32 p 2
    let k := s.dev.clips
    let pages := (length + 1023) / 1024
    let gives (result : Result) := Host.Outcome.next (concluded .request s s.dev result [])
    (255 < u16 p 0 ∨ length < 1 ∨ 67108864 < length → exec .clipOpen s = gives .outOfRange) ∧
    ∀ c : Fin 256, u16 p 0 = c.val → 1 ≤ length → length ≤ 67108864 →
      ((k.clips.get c).state ≠ .empty → exec .clipOpen s = gives .busy) ∧
      ((k.clips.get c).state = .empty → (∀ i, (k.loadSlots.get i).isSome = true) → exec .clipOpen s = gives .full) ∧
      ∀ slot : Fin 2, (k.clips.get c).state = .empty → k.loadSlots.get slot = none →
        (∀ i, i < slot → (k.loadSlots.get i).isSome = true) →
        (pagesOf (k.freeList.take 16) < pages → exec .clipOpen s =
          .next (concluded .request s s.dev .noSpace (b32 (pagesOf (k.freeList.take 16))))) ∧
        (pages ≤ pagesOf (k.freeList.take 16) → ∃ whole x rest, k.freeList = whole ++ x :: rest ∧
          pagesOf whole < pages ∧ pages ≤ pagesOf whole + x.count ∧
          (let need := pages - pagesOf whole
           let tail : Extent := { start := x.start + need, count := x.count - need }
           let extents := whole ++ [{ start := x.start, count := need }]
           let list := if need = x.count then rest else tail :: rest
           let k' : ClipStore :=
            { k with
              clips := put k.clips c { state := .loading, length := length, extents := extents }
              loadSlots := put k.loadSlots slot (some { clip := c, received := [] }), freeList := list }
           pagesOf extents = pages ∧ extents.length ≤ 16 ∧
           (∀ page, covers extents page + covers list page = covers k.freeList page) ∧
           exec .clipOpen s = .next (concluded .request s { s.dev with clips := k' } .ok
            (b8 slot.val ++ b32 extents.length ++ b32 ((length + 63) / 64)))))

/-- CLIP_SEAL makes a LOADING clip READY and frees its load slot once every cell is received, and else reports what is
missing; on a clip that is not LOADING it is refused BUSY (R110). CLIP_ABORT of a LOADING clip and CLIP_DELETE of a READY
clip without live references return the clip's extents to the Free Extent List, free its load slot and make it EMPTY with
length 0; every page of the clip is then covered by the list (R111, R113, R104). -/
def Obligations.ClipsAreSealedAndReturned : Prop :=
  (∀ (s : State) (p : List Byte), asked .request 0x41 s p = true → 2 ≤ p.length →
     (255 < u16 p 0 → exec .clipSeal s = .next (concluded .request s s.dev .outOfRange [])) ∧
     ∀ c : Fin 256, u16 p 0 = c.val →
       let k := s.dev.clips
       let x := k.clips.get c
       let cells := (x.length + 63) / 64
       (x.state ≠ .loading → exec .clipSeal s = .next (concluded .request s s.dev .busy [])) ∧
       ∀ (slot : Fin 2) (load : LoadSlot), x.state = .loading → k.loadSlots.get slot = some load → load.clip = c →
         (∀ i y, k.loadSlots.get i = some y → y.clip = c → i = slot) →
         let sealed : Clip := { x with state := .ready }
         let k' : ClipStore := { k with clips := put k.clips c sealed, loadSlots := put k.loadSlots slot none }
         (load.received.length < cells → exec .clipSeal s = .next (concluded .request s s.dev .incomplete
           (b32 (cells - load.received.length) ++ b32 (firstMissing 0 load.received)))) ∧
         (cells ≤ load.received.length →
           exec .clipSeal s = .next (concluded .request s { s.dev with clips := k' } .ok []))) ∧
  (∀ (s : State) (p : List Byte), 2 ≤ p.length →
     let k := s.dev.clips
     let gives (result : Result) := Host.Outcome.next (concluded .request s s.dev result [])
     (asked .request 0x42 s p = true → 255 < u16 p 0 → exec .clipAbort s = gives .outOfRange) ∧
     (asked .request 0x43 s p = true → 255 < u16 p 0 → exec .clipDelete s = gives .outOfRange) ∧
     ∀ c : Fin 256, u16 p 0 = c.val →
       let x := k.clips.get c
       let list := x.extents.foldl (fun l e => returnExtent e l) k.freeList
       let freed := k.loadSlots.map fun y => y.filter fun z => z.clip ≠ c
       let empty : Clip := { state := .empty, length := 0, extents := [] }
       let k' : ClipStore := { k with clips := put k.clips c empty, loadSlots := freed, freeList := list }
       (∀ page, covers list page = covers k.freeList page + covers x.extents page) ∧
       (asked .request 0x42 s p = true → exec .clipAbort s =
         if x.state ≠ .loading then gives .busy
         else .next (concluded .request s { s.dev with clips := k' } .ok [])) ∧
       (asked .request 0x43 s p = true → exec .clipDelete s =
         if x.state ≠ .ready then gives .busy
         else if s.dev.clipRefs c ≠ 0 then gives .inUse
         else .next (concluded .request s { s.dev with clips := k' } .ok [])))

/-- A CLIP_DATA cell for this unit, of a LOADING clip with a load slot: its 256 bytes are written where the clip's extents
place its first sample, every other byte of clip memory reads as before, and the index joins the received set; a repeated
index counts DUPLICATE and a new one CELLS_WRITTEN. A cell of a clip that is not LOADING counts NOT_LOADING, and an index
past the clip's cells BAD_INDEX, and nothing else changes (R109, R118). -/
def Obligations.ClipDataIsWrittenThroughTheExtents : Prop :=
  ∀ (s : State) (addr : Byte) (wordA : BitVec 16) (index : BitVec 32) (payload : List Byte) (c : Fin 256),
    s.hears addr = true → payload.length = 256 → wordA.toNat = c.val →
    let k := s.dev.clips
    let x := k.clips.get c
    let i := index.toNat
    let start := sampleAddress x.extents (64 * i)
    let counted (n : ClipCounters) :=
      (Host.Outcome.next { s.heard .bench with dev := { s.dev with clips := { k with counters := n } } } : Out)
    (x.state ≠ .loading → exec (.clipData addr wordA index payload) s =
      counted { k.counters with notLoading := satInc k.counters.notLoading }) ∧
    (x.state = .loading → (x.length + 63) / 64 ≤ i → exec (.clipData addr wordA index payload) s =
      counted { k.counters with badIndex := satInc k.counters.badIndex }) ∧
    ∀ (slot : Fin 2) (load : LoadSlot), x.state = .loading → i < (x.length + 63) / 64 →
      k.loadSlotOf c = some (slot, load) → start + 256 ≤ 268435456 →
      ∃ memory received, exec (.clipData addr wordA index payload) s = .next { s.heard .bench with
          dev := { s.dev with clips :=
            { k with
              memory := memory
              loadSlots := put k.loadSlots slot (some { load with received := received })
              counters := if i ∈ load.received then { k.counters with duplicate := satInc k.counters.duplicate }
                else { k.counters with cellsWritten := satInc k.counters.cellsWritten } } } } ∧
        (∀ a, memRead s.dev.coldResets memory a =
          if start ≤ a ∧ a < start + 256 then payload.getD (a - start) 0 else memRead s.dev.coldResets k.memory a) ∧
        (∀ j, j ∈ received ↔ j = i ∨ j ∈ load.received)

/-- No command but a CLIP_DATA cell, whole or as the END that closes one on the bench link, and a cold reset changes a byte
of clip memory (R101). The kind of a closed cell is its first byte, 03h for CLIP_DATA (R206, R207). -/
def Obligations.OnlyClipDataWritesClipMemory : Prop :=
  ∀ (c : Instr) (s t : State), (∀ a w i p, c ≠ .clipData a w i p) → (∀ a b, c ≠ .coldReset a b) →
    (c = .decodedSymbol .bench .stop → ∀ rest, s.port.bench.receiving ≠ some (0x03 :: rest)) → exec c s = .next t →
    t.dev.coldResets = s.dev.coldResets ∧ t.dev.clips.memory = s.dev.clips.memory

/-! ## Cue Engine (06) -/

/-- MAP_WRITE: the checks of R124 in order; an accepted one stores the whole entry. A mode byte that is no mode is BAD_FIELD
before any of them (R209; log entry 14). MAP_ARM and MAP_DISARM set and clear the armed flag of one source and change nothing
else (R126). -/
def Obligations.EventMapEntriesAreStored : Prop :=
  (∀ (s : State) (p : List Byte), asked .request 0x50 s p = true → 9 ≤ p.length →
     let list := u16 p 5
     (1 < u8 p 2 → exec .mapWrite s = .next (concluded .request s s.dev .badField [])) ∧
     (u8 p 2 ≤ 1 → 125 < u8 p 0 → exec .mapWrite s = .next (concluded .request s s.dev .outOfRange [])) ∧
     ∀ k : Fin 126, u8 p 2 ≤ 1 → u8 p 0 = k.val →
       let e : MapEntry :=
         { level := u8 p 1, list := if list = 0xFFFF then none else fin? 256 list, notice := bitAt p 3 0
           once := u8 p 2 = 1, armed := bitAt p 3 1 }
       exec .mapWrite s = .next
         (if 7 < u8 p 1 ∨ list ≠ 0xFFFF ∧ 255 < list then concluded .request s s.dev .outOfRange []
          else concluded .request s
            { s.dev with cue := { s.dev.cue with map := put s.dev.cue.map k e } } .ok [])) ∧
  (∀ (via : Via) (s : State) (p : List Byte), 1 ≤ p.length →
     let d := (begun via s).dev
     (asked via 0x52 s p = true → 125 < u8 p 0 → exec (.mapArm via) s = .next (concluded via s d .outOfRange [])) ∧
     (asked via 0x53 s p = true → 125 < u8 p 0 → exec (.mapDisarm via) s = .next (concluded via s d .outOfRange [])) ∧
     ∀ k : Fin 126, u8 p 0 = k.val →
       let entry (armed : Bool) : MapEntry := { d.cue.map.get k with armed := armed }
       let gives (armed : Bool) := Host.Outcome.next
         (concluded via s { d with cue := { d.cue with map := put d.cue.map k (entry armed) } } .ok [])
       (asked via 0x52 s p = true → exec (.mapArm via) s = gives true) ∧
       (asked via 0x53 s p = true → exec (.mapDisarm via) s = gives false))

/-- CUE_THRESHOLD stores a threshold of 0 to 7 and makes selection; with no source pending nothing else changes (R132).
CUE_ABORT removes every context of the level or above and makes selection (R146). -/
def Obligations.ThresholdAndAbortActAndSelect : Prop :=
  (∀ (s : State) (p : List Byte), asked .request 0x54 s p = true → 1 ≤ p.length →
     let cue : Cue := { s.dev.cue with threshold := u8 p 0 }
     exec .cueThreshold s = .next
       (if 7 < u8 p 0 then concluded .request s s.dev .outOfRange []
        else concluded .request s { s.dev with cue := cue.select } .ok []) ∧
     ((∀ k, s.dev.cue.pending.get k = none) → cue.select = cue)) ∧
  (∀ (s : State) (p : List Byte), asked .request 0x5A s p = true → 1 ≤ p.length →
     let cue : Cue := { s.dev.cue with stack := s.dev.cue.stack.filter fun c => c.level < u8 p 0 }
     exec .cueAbort s = .next
       (if u8 p 0 < 1 ∨ 7 < u8 p 0 then concluded .request s s.dev .outOfRange []
        else concluded .request s { s.dev with cue := cue.select } .ok []))

/-- The winner of selection is a pending source of a level above the engine level, and above the threshold unless it is
level 7; no candidate has a higher level, and none of its level a lower number; the stack has room (R129). An event that
finds the Cue Engine idle, with a level above the threshold or of 7, starts its cue list at once: its context is the
stack, its mark is gone, and a ONCE entry takes level 0 (R122, R130). -/
def Obligations.SelectionStartsTheHighestLevel : Prop :=
  (∀ (c : Cue) (k : Fin 126), c.winner = some k →
     c.stack.length < 4 ∧ ∃ x, c.pending.get k = some x ∧ c.isCandidate x.level = true ∧
       ∀ j y, c.pending.get j = some y → c.isCandidate y.level = true →
         y.level ≤ x.level ∧ (y.level = x.level → k ≤ j)) ∧
  (∀ (d : Device) (k : Fin 126) (detail : Byte) (list : Fin 256),
     let e := d.cue.map.get k
     e.armed = true → 1 ≤ e.level → e.level ≤ 7 → e.list = some list → d.cue.stack = [] →
     (∀ j, d.cue.pending.get j = none) → (e.level = 7 ∨ d.cue.threshold < e.level) →
     let context : Context :=
       { source := k, level := e.level, list := list, detail := detail, merge := 0, index := 0, state := .running
         reference := none }
     (d.raise k detail).cue.stack = [context] ∧ (∀ j, (d.raise k detail).cue.pending.get j = none) ∧
     (d.raise k detail).cue.map.get k = (if e.once then { e with level := 0 } else e))

/-- LIST_WRITE: the checks of R136 in order, and the list stored; CUE_WRITE: the checks of R137 in order, and the records
stored in consecutive slots, all or none. A CUE_WRITE payload that holds no whole number of records, or none, is BAD_FIELD
(R209); that the two zero bytes after its first slot are not checked is the model's reading (log entry 13). -/
def Obligations.ListAndCueWritesStoreWhole : Prop :=
  ∀ (s : State) (p : List Byte),
    let cue := s.dev.cue
    let gives (result : Result) := Host.Outcome.next (concluded .request s s.dev result [])
    (asked .request 0x55 s p = true → 6 ≤ p.length → 255 < u16 p 0 → exec .listWrite s = gives .outOfRange) ∧
    (∀ n : Fin 256, asked .request 0x55 s p = true → 6 ≤ p.length → u16 p 0 = n.val →
      let first := u16 p 2
      let count := u16 p 4
      exec .listWrite s =
        if 2047 < first ∨ 64 < count then gives .outOfRange
        else if 2048 < first + count then gives .outOfRange
        else if ∃ x ∈ cue.stack, x.list = n then gives .inUse
        else .next (concluded .request s
          { s.dev with cue := { cue with lists := put cue.lists n { first := first, count := count } } } .ok [])) ∧
    (asked .request 0x57 s p = true →
      let first := u16 p 0
      let records := recordsAt p
      exec .cueWrite s =
        if p.length < 20 ∨ (p.length - 4) % 16 ≠ 0 ∨ 15 < records.length then gives .badField
        else if 2048 < first + records.length then gives .outOfRange
        else if ∃ r ∈ records, r.kind ∉ actionKinds then gives .badKind
        else if ∃ i < records.length, cue.slotHeld (first + i) = true then gives .inUse
        else .next (concluded .request s
          { s.dev with cue := { cue with actions := writeRecords cue.actions first records } } .ok [])) ∧
    (∀ (a : Vector ActionRecord 2048) (first : Nat) (records : List ActionRecord) (j : Fin 2048),
      first + records.length ≤ 2048 →
      (writeRecords a first records).get j =
        if first ≤ j.val ∧ j.val < first + records.length then records.getD (j.val - first) ActionRecord.nop
        else a.get j)

/-- CUE_RAISE raises the soft source with its detail. By the source's map entry: with its notice flag an EVENT notice is
handed on; with an armed level above 0 and a list, a source not yet pending is marked and selection made, and one already
pending takes the detail and a higher merge count (R142, R122, R127). -/
def Obligations.CueRaiseRaisesTheSoftSource : Prop :=
  ∀ (via : Via) (s : State) (p : List Byte), asked via 0x59 s p = true → 2 ≤ p.length →
    let d := (begun via s).dev
    (3 < u8 p 0 → exec (.cueRaise via) s = .next (concluded via s d .outOfRange [])) ∧
    ∀ (n : Fin 4) (k : Fin 126), u8 p 0 = n.val → k.val = 8 + n.val →
      let e := d.cue.map.get k
      let level := if e.armed then e.level else 0
      let detail := p.getD 1 0
      let d' := if e.notice then
          { d with notices := takeNotice d.now .event k.val (BitVec.ofNat 8 level) detail d.notices } else d
      exec (.cueRaise via) s = .next (concluded via s
        (match e.list with
        | none => d'
        | some list =>
          if level = 0 then d'
          else match d.cue.pending.get k with
            | none =>
              let x : PendingEntry := { level := level, list := list, detail := detail, merge := 0 }
              let marked : Cue := { d.cue with pending := put d.cue.pending k (some x) }
              { d' with cue := marked.select }
            | some x =>
              let y : PendingEntry := { x with merge := min (x.merge + 1) 255, detail := detail }
              let merged : Cue := { d.cue with pending := put d.cue.pending k (some y) }
              { d' with cue := merged }) .ok [])

/-- NOP does nothing but step its context; NOTICE hands a USER notice with the code and the context's source; a RUNNING
context whose index has reached its list's count is popped, and selection made (R133, R135, R139, R141). WAIT: on a lane
that is not STOPPED the top context waits for the lane time n samples on, which becomes its reference; a target past the
lane time's range gives OUT_OF_RANGE, and on a STOPPED lane the context is aborted and reported (R143, R145). -/
def Obligations.ActionsStepAndWaitHoldsTheContext : Prop :=
  (∀ (s : State) (top : Context) (rest : List Context), s.dev.cue.stack = top :: rest →
     let d := (begun .action s).dev
     let popped : Cue := { s.dev.cue with stack := rest }
     (∀ p, asked .action 0x00 s p = true → exec .nop s = .next { s with dev := d }) ∧
     (∀ p, asked .action 0x5F s p = true → 1 ≤ p.length →
       let told := takeNotice d.now .user (u8 p 0) 0 (BitVec.ofNat 8 top.source.val) d.notices
       exec .notice s = .next { s with dev := { d with notices := told } }) ∧
     (top.state = .running → (s.dev.cue.lists.get top.list).count ≤ top.index →
       exec .contextPop s = .next { s with dev := { s.dev with cue := popped.select } })) ∧
  (∀ (s : State) (p : List Byte) (top : Context) (rest : List Context), asked .action 0x5E s p = true → 5 ≤ p.length →
     s.dev.cue.stack = top :: rest →
     let d := (begun .action s).dev
     (7 < u8 p 0 → exec .wait s = .next { s with dev := d.cueFault top.list top.index .outOfRange }) ∧
     ∀ l : Fin 8, u8 p 0 = l.val →
       let target := (s.dev.lane l).time + u32 p 1
       let waiting : Context :=
         { top with index := top.index + 1, state := .waiting l target, reference := some (l, target) }
       let left : Device := { d with cue := { d.cue with stack := rest } }
       let d' : Device :=
         if (s.dev.lane l).state = .stopped then (left.cueFault top.list top.index .laneStopped).select
         else if 281474976710656 ≤ target then d.cueFault top.list top.index .outOfRange
         else { d with cue := { d.cue with stack := waiting :: rest } }
       exec .wait s = .next { s with dev := d' })

/-! ## Triggers, markers and meters (07) -/

/-- TRIG_CONFIG: the checks of R152 in order, and the settings stored: a changed depth or tick sets the counter to the end
that the filtered level stands at, and a changed tick restarts the tick timer. At a tick the counter steps by the sample
held, the input is sampled, and a counter at the depth makes a qualified rise and one at 0 a qualified fall, which count,
set start due on the lanes armed on the trigger, and raise source 2n or 2n + 1 where enabled (R150, R151; moments by log
entry 3). -/
def Obligations.TriggersAreConfiguredAndTick : Prop :=
  let period (code : Nat) : Nat := match code with
    | 0 => 1536
    | 1 => 30720
    | _ => 614400
  (∀ (s : State) (p : List Byte), asked .request 0x60 s p = true → 5 ≤ p.length →
    let gives (result : Result) := Host.Outcome.next (concluded .request s s.dev result [])
    (3 < u8 p 0 → exec .trigConfig s = gives .outOfRange) ∧
    ∀ n : Fin 4, u8 p 0 = n.val →
      let x := s.dev.triggers.get n
      let tick := u8 p 1
      let depth := u8 p 2
      let y : Trigger :=
        { x with
          tickCode := tick, depth := depth, riseEnable := flagAt p 3, fallEnable := flagAt p 4
          counter := if depth = x.depth ∧ tick = x.tickCode then x.counter else if x.filtered then depth else 0
          nextTick := if tick = x.tickCode then x.nextTick else s.dev.now + period tick }
      exec .trigConfig s =
        if 2 < tick then gives .badField
        else if depth < 1 ∨ 31 < depth then gives .outOfRange
        else .next (concluded .request s { s.dev with triggers := put s.dev.triggers n y } .ok [])) ∧
  ∀ (s : State) (n : Fin 4) (high : Bool) (up down : Fin 126), up.val = 2 * n.val → down.val = 2 * n.val + 1 →
    let x := s.dev.triggers.get n
    let count := if x.sample then (if x.counter < x.depth then x.counter + 1 else x.counter) else x.counter - 1
    let y : Trigger := { x with counter := count, sample := high, nextTick := x.nextTick + period x.tickCode }
    let d : Device := { s.dev with now := max s.dev.now x.nextTick }
    let gives (d : Device) := (Host.Outcome.next { s with dev := d } : Out)
    let marked (z : Lane) : Lane :=
      if z.state = .armed ∧ z.startMode = .trigger n then { z with startDue := true } else z
    let risen : Trigger := { y with filtered := true, riseCount := satInc x.riseCount }
    let fallen : Trigger := { y with filtered := false, fallCount := satInc x.fallCount }
    let rise : Device := { d with triggers := put d.triggers n risen, lanes := d.lanes.map marked }
    let fall : Device := { d with triggers := put d.triggers n fallen }
    exec (.triggerTick n high) s =
      if x.filtered = false ∧ count = x.depth then gives (if x.riseEnable then rise.raise up 0 else rise)
      else if x.filtered = true ∧ count = 0 then gives (if x.fallEnable then fall.raise down 0 else fall)
      else gives { d with triggers := put d.triggers n y }

/-- MARKER_CONFIG: the settings stored, the soft level kept, the pulse, the pulse starts due and the frozen hold dropped,
and the frozen level taken at once on a FROZEN lane; MARKER_SET sets the soft level (R159, R160, R157). A pulse start due
begins at its sample clock a pulse of the marker's width, and none begins on a FROZEN lane; the end of a pulse clears it (R156,
R157). A pin shows its logical state by polarity and drive (R158). That an operand that is no code is refused before the ranges
is the model's order (log entry 14); that the clock comes no earlier than the sample clock at a begin, and than the end at an
end, is log entry 3, and that a begin takes the first of several starts due is log entry 26. -/
def Obligations.MarkersAreSetAndPulsed : Prop :=
  (∀ (s : State) (p : List Byte), asked .request 0x62 s p = true → 8 ≤ p.length →
    let gives (result : Result) := Host.Outcome.next (concluded .request s s.dev result [])
    (7 < u8 p 1 ∨ 1 < u8 p 3 ∨ 2 < u8 p 4 ∨ 2 < u8 p 7 → exec .markerConfig s = gives .badField) ∧
    ∀ (condition : Option Condition) (low : Bool) (drive : Drive) (level : FrozenLevel),
      conditionAt p 1 = some condition → boolEnumAt p 3 = some low → driveAt p 4 = some drive →
      frozenLevelAt p 7 = some level →
      (5 < u8 p 0 ∨ condition = none ∨ u16 p 5 < 1 ∨ 255 < u16 p 5 → exec .markerConfig s = gives .outOfRange) ∧
      ∀ (n : Fin 6) (c : Condition), u8 p 0 = n.val → condition = some c → 1 ≤ u16 p 5 → u16 p 5 ≤ 255 →
        let frozen : Prop := ∃ l, c.lane = some l ∧ (s.dev.lane l).state = .frozen
        let running : Bool := match c with
          | .laneRunning _ => true
          | _ => false
        let m : Marker :=
          { s.dev.markers.get n with
            condition := c, activeLow := low, drive := drive, width := u16 p 5, frozenLevel := level
            pulse := .none, startsDue := [], frozenHold := none }
        let held : Marker := { m with frozenHold := some running }
        (frozen → level = .holdLast → exec .markerConfig s =
          .next (concluded .request s { s.dev with markers := put s.dev.markers n held } .ok [])) ∧
        (¬ frozen ∨ level ≠ .holdLast → exec .markerConfig s =
          .next (concluded .request s { s.dev with markers := put s.dev.markers n m } .ok []))) ∧
  (∀ (via : Via) (s : State) (p : List Byte), asked via 0x63 s p = true → 2 ≤ p.length →
    let d := (begun via s).dev
    (1 < u8 p 1 → exec (.markerSet via) s = .next (concluded via s d .badField [])) ∧
    (u8 p 1 ≤ 1 → 5 < u8 p 0 → exec (.markerSet via) s = .next (concluded via s d .outOfRange [])) ∧
    ∀ n : Fin 6, u8 p 1 ≤ 1 → u8 p 0 = n.val →
      let m : Marker := { d.markers.get n with softLevel := u8 p 1 = 0 }
      exec (.markerSet via) s = .next (concluded via s { d with markers := put d.markers n m } .ok [])) ∧
  (∀ (s : State) (n : Fin 6),
    let m := s.dev.markers.get n
    let frozen : Prop := ∃ l, m.condition.lane = some l ∧ (s.dev.lane l).state = .frozen
    (m.startsDue = [] ∨ frozen → exec (.pulseBegin n) s = .next s) ∧
    (∀ first rest, m.startsDue = first :: rest → ¬ frozen →
      let now := max s.dev.now first
      let m' : Marker := { m with startsDue := rest, pulse := .running (now + m.width * 30720) }
      exec (.pulseBegin n) s = .next { s with dev := { s.dev with now := now, markers := put s.dev.markers n m' } }) ∧
    ((∀ e, m.pulse ≠ .running e) → exec (.pulseEnd n) s = .next s) ∧
    ∀ e, m.pulse = .running e →
      let m' : Marker := { m with pulse := .none }
      exec (.pulseEnd n) s =
        .next { s with dev := { s.dev with now := max s.dev.now e, markers := put s.dev.markers n m' } }) ∧
  ∀ (m : Marker) (active : Bool),
    let high : Bool := if m.activeLow then !active else active
    m.pin active = match m.drive with
      | .driven => if high then .high else .low
      | .openDrain => if high then .highImpedance else .low
      | .off => .highImpedance

/-- METER_CONFIG: the settings stored, and its action by the meter's state (R162). METER_START of an IDLE meter begins its
first window, SETTLING if settle pending is set, and METER_STOP makes a meter IDLE and discards its window (R163).
METER_READ returns the result and clears fresh, or gives NOT_READY (R167). That an operand that is no code is refused
before the ranges is the model's order (log entry 14); that a METER_STOP by an action on a STOPPED lane is OK, where R145 speaks
of LANE_STOPPED, is the model's reading (log entry 33). -/
def Obligations.MetersAreConfiguredAndRun : Prop :=
  (∀ (s : State) (p : List Byte), asked .request 0x65 s p = true → 9 ≤ p.length →
    let gives (result : Result) := Host.Outcome.next (concluded .request s s.dev result [])
    (2 < u8 p 1 ∨ 1 < u8 p 4 → exec .meterConfig s = gives .badField) ∧
    ∀ (source : Option MeterSource) (continuous : Bool), meterSourceAt p 1 = some source →
      boolEnumAt p 4 = some continuous →
      (7 < u8 p 0 → exec .meterConfig s = gives .outOfRange) ∧
      ∀ l : Fin 8, u8 p 0 = l.val →
        let window := u8 p 3
        let high := s16 p 5
        let low := s16 p 7
        (3 < window → exec .meterConfig s = gives .badField) ∧
        (window ≤ 3 → source = none ∨ high < -12000 ∨ 1000 < high ∨ low < -12000 ∨ 1000 < low →
          exec .meterConfig s = gives .outOfRange) ∧
        ∀ src : MeterSource, window ≤ 3 → source = some src → -12000 ≤ high → high ≤ 1000 → -12000 ≤ low → low ≤ 1000 →
          let x := s.dev.meter l
          let y : Meter :=
            { x with source := src, window := window, continuous := continuous, high := high, low := low }
          let empty : Meter := { y with acc := Val.zero, counted := 0, settlePending := false }
          let m : Meter :=
            if x.state = .idle then
              if src = .off then { y with settlePending := false }
              else if x.source = .off ∨ window ≠ x.window then { y with settlePending := true }
              else y
            else if src = .off then { empty with state := .idle }
            else if window ≠ x.window then { empty with state := .settling }
            else if src ≠ x.source then { empty with state := x.state }
            else y
          exec .meterConfig s =
            if high < low then gives .badField
            else .next (concluded .request s { s.dev with meters := put s.dev.meters l m } .ok [])) ∧
  (∀ (via : Via) (s : State) (p : List Byte), 1 ≤ p.length →
    let d := (begun via s).dev
    (asked via 0x66 s p = true → 7 < u8 p 0 → exec (.meterStart via) s = .next (concluded via s d .outOfRange [])) ∧
    (asked via 0x67 s p = true → 7 < u8 p 0 → exec (.meterStop via) s = .next (concluded via s d .outOfRange [])) ∧
    ∀ l : Fin 8, u8 p 0 = l.val →
      let x := d.meter l
      let empty : Meter := { x with acc := Val.zero, counted := 0 }
      let begins : Meter := if x.settlePending then { empty with state := .settling, settlePending := false }
        else { empty with state := .measuring }
      let gives (m : Meter) := Host.Outcome.next (concluded via s { d with meters := put d.meters l m } .ok [])
      (asked via 0x66 s p = true → exec (.meterStart via) s =
        if (d.lane l).state = .stopped then .next (concluded via s d .laneStopped [])
        else if x.source = .off then .next (concluded via s d .busy [])
        else if x.state = .idle then gives begins
        else .next (concluded via s d .ok [])) ∧
      (asked via 0x67 s p = true → exec (.meterStop via) s =
        if x.state = .idle then .next (concluded via s d .ok []) else gives { empty with state := .idle })) ∧
  ∀ (s : State) (p : List Byte), asked .request 0x68 s p = true → 1 ≤ p.length →
    (7 < u8 p 0 → exec .meterRead s = .next (concluded .request s s.dev .outOfRange [])) ∧
    ∀ l : Fin 8, u8 p 0 = l.val →
      let x := s.dev.meter l
      let read : Meter := { x with fresh := false }
      (x.result = none → exec .meterRead s =
        .next (concluded .request s s.dev .notReady (b8 (meterStateCode x.state) ++ b32 x.counted))) ∧
      ∀ level time, x.result = some (level, time) → exec .meterRead s =
        .next (concluded .request s { s.dev with meters := put s.dev.meters l read } .ok
          (b16s level ++ b48 time ++ bFlag x.fresh ++ b8 (meterStateCode x.state) ++ meterSourceBytes x.source
            ++ b8 x.window ++ bFlag x.continuous))

/-! ## Bench link and chain (08) -/

/-- A link moves as R171 states: a signal takes DOWN to ALIGNING with counter 0; 15 takes ALIGNING to OFFERING with seen
clear and an OFFER due at once; 0 takes OFFERING and UP to ALIGNING, and no signal takes every state to DOWN. Leaving
OFFERING or UP counts LOSS_COUNT and drops the cell in progress; leaving UP cuts off the cell being sent, counts it, and
clears held on the bench link (R174) or flushes both queues of the chain link and counts them (R180 to R182). An OFFER cut
off in OFFERING is not counted (log entry 20). That a cut-off sending of the UNIT_RESET reply marks it as sent is log entry 22, the
counter at 15 or 0 as the run of symbols leaves it log entry 28, and the moment of the first OFFER log entry 3. -/
def Obligations.LinksFollowSignalAndAlignment : Prop :=
  ∀ (s : State) (id : LinkId),
    let x := s.link id
    let fresh (state : LinkState) : Link := { x with state := state, counter := 0, seen := false, rate := none }
    let lost (state : LinkState) : Link :=
      { fresh state with
        receiving := none, sending := none
        counters := { x.counters with
          lossCount := satInc x.counters.lossCount
          txAbort := if x.state = .up ∧ x.sending.isSome then satInc x.counters.txAbort else x.counters.txAbort } }
    let agent : Agent := if x.sending.any Sending.resetReply then { s.agent with resetSent := true } else s.agent
    let flushed : Port :=
      { s.port with
        forward := [], merge := [], holdSent := false, flowPlace := none
        counters := { s.port.counters with
          fwdFlush := satAdd s.port.counters.fwdFlush s.port.forward.length
          mergeFlush := satAdd s.port.counters.mergeFlush s.port.merge.length } }
    let left (state : LinkState) : State := match id with
      | .bench => { s with port := { s.port with bench := lost state, held := false }, agent := agent }
      | .chain => { s with port := { flushed with chain := lost state }, agent := agent }
    let offering : Link := { x with state := .offering, counter := 15, seen := false, offerAt := s.dev.now }
    (exec (.signalPresent id) s = .next (if x.state = .down then s.setLink id (fresh .aligning) else s)) ∧
    (exec (.alignmentReached id) s = .next (if x.state = .aligning then s.setLink id offering else s)) ∧
    (exec (.alignmentLost id) s = .next (match x.state with
      | .down | .aligning => s
      | .offering => s.setLink id (lost .aligning)
      | .up => left .aligning)) ∧
    exec (.signalAbsent id) s = .next (match x.state with
      | .down => s
      | .aligning => s.setLink id (fresh .down)
      | .offering => s.setLink id (lost .down)
      | .up => left .down)

/-- A link in OFFERING whose transmitter is free sends its next OFFER, 10 µs after the one before: role UNIT, this unit's
address or 15, rate capability 2, and seen (R172). A peer OFFER stores role and address and sets seen, except role SERVER
on the chain link, which counts ROLE_ERR; with the peer's seen flag set, OFFERING becomes UP at the smaller rate, with the
answer due, and the bench link reports UP to the Stream Intake, which queues the flow state of every open slot (R98); in UP
a clear flag begins the exchange anew (R173, R174). A link in DOWN or ALIGNING takes no cell (R171). Log entries 3 and 20
give the moment, and what is counted. -/
def Obligations.OffersAreSentAndTaken : Prop :=
  (∀ (s : State) (id : LinkId),
    let x := s.link id
    let moment := max s.dev.now x.offerAt
    let cell : Cell :=
      { kind := 0x0F
        addr := match s.port.address with
          | none => 15
          | some a => BitVec.ofNat 8 a.val
        wordA := 0x0002, wordB := if x.seen then 0x01000000 else 0, payload := [] }
    let y : Link := { x with sending := some { cell := cell, resetReply := false }, offerAt := moment + 307200 }
    (x.state ≠ .offering ∨ x.sending ≠ none → exec (.offerSend id) s = .next s) ∧
    (x.state = .offering → x.sending = none →
      exec (.offerSend id) s = .next ({ s with dev := { s.dev with now := moment } }.setLink id y))) ∧
  (∀ (s : State) (id : LinkId) (addr : Byte) (wordA : BitVec 16) (wordB : BitVec 32),
    let x := s.link id
    let server := wordA.getLsbD 8
    let peerSeen := wordB.getLsbD 24
    let rate := wordA.toNat % 256
    let heard : LinkCounters := { x.counters with cellsIn := satInc x.counters.cellsIn }
    let known : Link :=
      { x with peerServer := some server, peerAddr := some (addr.toNat % 16), seen := true, counters := heard }
    let entered : Link :=
      { known with state := .up, rate := some (min 2 rate), answerDue := true
                   counters := { heard with upCount := satInc x.counters.upCount } }
    let refused : Link := { x with counters := { heard with roleErr := satInc x.counters.roleErr } }
    let reported : Device := { s.dev with intake := s.dev.intake.announce }
    (x.state = .down ∨ x.state = .aligning → exec (.offer id addr wordA wordB) s = .next s) ∧
    (x.state = .offering ∨ x.state = .up → id = .chain → server = true →
      exec (.offer id addr wordA wordB) s = .next (s.setLink id refused)) ∧
    (id = .bench ∨ server = false →
      (x.state = .offering → peerSeen = false → exec (.offer id addr wordA wordB) s = .next (s.setLink id known)) ∧
      (x.state = .offering → peerSeen = true → exec (.offer id addr wordA wordB) s = .next (match id with
        | .bench => { s with dev := reported, port := { s.port with bench := entered } }
        | .chain => s.setLink .chain entered)) ∧
      (x.state = .up → peerSeen = true → exec (.offer id addr wordA wordB) s = .next (s.setLink id known)) ∧
      (x.state = .up → peerSeen = false → exec (.offer id addr wordA wordB) s = .next (match id with
        | .bench =>
          let again : Link :=
            { known with answerDue := true, counters := { heard with upCount := satInc x.counters.upCount } }
          { s with dev := reported, port := { s.port with held := false, bench := again } }
        | .chain =>
          let again : Link := { known with answerDue := true }
          { s with port := { s.port with holdSent := false, flowPlace := none, chain := again } })))) ∧
  ∀ (k : Intake) (n : Fin 16), (k.slots.get n).isOpen = true →
    ∃ e ∈ k.announce.outbox, e.subject = .slot n ∧ e.hold = (k.slots.get n).hold

/-- A bad cell is discarded and counted once, on the link that received it: by its framing fault, where START begins a new
cell and a code error lowers the alignment counter, which may lose the alignment (R170, R171, R175), or by the first check of
R177 that fails. A symbol steps the alignment counter by one up or three down within 0 to 15, in every state but
DOWN; 15 in ALIGNING makes the link OFFERING (R170, R171); inside a cell a data byte joins it up to 266 bytes, and a longer
cell, an IDLE, a START or a code error ends it with its count (R175). A code error that brings the counter to 0 ends a cell
so too, and then the alignment is lost as R171 states. The step itself, and that a bad cell is a command beside it, is log
entry 19. -/
def Obligations.BadCellsAndSymbolsAreCounted : Prop :=
  ∀ (s : State) (id : LinkId),
    let x := s.link id
    let assembling : Prop := x.state = .offering ∨ x.state = .up
    let c := x.counters
    let counted (c : LinkCounters) := (Host.Outcome.next (s.setLink id { x with counters := c }) : Out)
    let discarded (c : LinkCounters) :=
      (Host.Outcome.next (s.setLink id { x with counters := c, receiving := none }) : Out)
    let bad (b : BadCell) := exec (.badCell id b) s
    (¬ assembling → ∀ b, bad b = .next s) ∧
    (assembling →
      bad .startInside = .next (s.setLink id
        { x with counters := { c with frameErr := satInc c.frameErr }, receiving := some [] }) ∧
      bad .idleInside = discarded { c with frameErr := satInc c.frameErr } ∧
      bad .endOutside = counted { c with frameErr := satInc c.frameErr } ∧
      (let cut : Link :=
         { x with counter := x.counter - 3, counters := { c with codeErr := satInc c.codeErr }, receiving := none }
       bad .codeErrorInside =
         if x.counter ≤ 3 then exec (.alignmentLost id) (s.setLink id cut) else .next (s.setLink id cut)) ∧
      bad .tooLong = discarded { c with lenErr := satInc c.lenErr } ∧
      ∀ bytes : List Byte,
        let cell := cellOf bytes
        (bytes.length < 10 → bad (.closed bytes) = discarded { c with lenErr := satInc c.lenErr }) ∧
        (10 ≤ bytes.length → crcOf bytes ≠ 0x1D0F →
          bad (.closed bytes) = discarded { c with crcErr := satInc c.crcErr }) ∧
        (10 ≤ bytes.length → crcOf bytes = 0x1D0F → bad (.closed bytes) =
          if kindArrives id cell = false then discarded { c with kindErr := satInc c.kindErr }
          else if lengthFits cell = false then discarded { c with lenErr := satInc c.lenErr }
          else if cell.kind ≠ 0x0F ∧ x.state ≠ .up then discarded { c with notUpDrop := satInc c.notUpDrop }
          else .next s)) ∧
    ∀ symbol : Symbol,
      let n := if symbol = .codeError then x.counter - 3 else min 15 (x.counter + 1)
      let gives (y : Link) := (Host.Outcome.next (s.setLink id y) : Out)
      let y : Link := { x with counter := n }
      let offering : Link := { x with state := .offering, counter := 15, seen := false, offerAt := s.dev.now }
      (x.state = .down → exec (.decodedSymbol id symbol) s = .next s) ∧
      (x.state = .aligning → exec (.decodedSymbol id symbol) s = if n = 15 then gives offering else gives y) ∧
      (assembling → n ≠ 0 →
        (x.receiving = none → exec (.decodedSymbol id symbol) s = match symbol with
          | .start => gives { y with receiving := some [] }
          | .stop => gives { y with counters := { c with frameErr := satInc c.frameErr } }
          | .data _ | .idle | .codeError => gives y) ∧
        ∀ bytes : List Byte, x.receiving = some bytes → symbol ≠ .stop →
          exec (.decodedSymbol id symbol) s = match symbol with
            | .start => gives { y with receiving := some [], counters := { c with frameErr := satInc c.frameErr } }
            | .idle => gives { y with receiving := none, counters := { c with frameErr := satInc c.frameErr } }
            | .codeError => gives { y with receiving := none, counters := { c with codeErr := satInc c.codeErr } }
            | .data b =>
              if 266 ≤ bytes.length then
                gives { y with receiving := none, counters := { c with lenErr := satInc c.lenErr } }
              else gives { y with receiving := some (bytes ++ [b]) }
            | .stop => .next s) ∧
      (assembling → x.counter ≤ 3 →
        let ended : Link :=
          { x with
            counter := 0, receiving := none
            counters := if x.receiving.isSome then { c with codeErr := satInc c.codeErr } else c }
        exec (.decodedSymbol id .codeError) s = exec (.alignmentLost id) (s.setLink id ended))

/-- The bytes of a cell with the CRC formed over them leave the remainder 1D0Fh, and they read back as that cell (R176). The
END that closes a cell is the arrival of the whole cell: the command of its kind on a link where that kind arrives, and the
bad cell of its bytes where a check of R177 fails (R175, R177, R178). That a symbol and a whole cell are commands of their own
is the model's reading (log entry 19). -/
def Obligations.CellBytesPassTheCheck : Prop :=
  (∀ c : Cell, crcOf (cellBytes c) = 0x1D0F ∧ cellOf (cellBytes c) = c) ∧
  ∀ (s : State) (id : LinkId),
    let x := s.link id
    let y : Link := { x with counter := min 15 (x.counter + 1), receiving := none }
    let closes (c : Instr) := exec (.decodedSymbol id .stop) s = exec c (s.setLink id y)
    x.state = .offering ∨ x.state = .up →
      (∀ c : Cell, x.receiving = some (cellBytes c) →
        (id = .bench → c.kind = 0x01 → closes (.sample c.addr c.wordA c.wordB c.payload)) ∧
        (id = .bench → c.kind = 0x02 → c.payload = [] → closes (.streamEnd c.addr c.wordA c.wordB)) ∧
        (id = .bench → c.kind = 0x03 → closes (.clipData c.addr c.wordA c.wordB c.payload)) ∧
        (id = .bench → c.kind = 0x04 →
          closes (.request c.addr (c.wordA.extractLsb' 8 8) (c.wordA.extractLsb' 0 8) c.wordB c.payload)) ∧
        (id = .bench → c.kind = 0x0C → c.wordA = 0 → c.payload = [] → closes (.flowLink c.addr c.wordB)) ∧
        (c.kind = 0x0F → c.payload = [] → closes (.offer id c.addr c.wordA c.wordB)) ∧
        (id = .chain → c.upstream = true → closes (.chainUpstreamCell c))) ∧
      ∀ bytes : List Byte, x.receiving = some bytes →
        bytes.length < 10 ∨ crcOf bytes ≠ 0x1D0F ∨ kindArrives id (cellOf bytes) = false ∨
          lengthFits (cellOf bytes) = false →
        closes (.badCell id (.closed bytes))

/-- A cell with this unit's address is taken: a REQUEST joins the request queue, or is lost and counted when 16 wait
(R188). A cell with another address joins the forward queue, or counts FWD_DROP when the chain link is not UP or 32 wait; a
broadcast cell does both, taken as the unit's own and forwarded as it came (R179, R180): the own SAMPLE, STREAM_END and
CLIP_DATA cell is said through a unit at address 0. On a bench link in OFFERING such a cell counts NOT_UP_DROP, and in DOWN or
ALIGNING none is taken (R171, R177). -/
def Obligations.CellsAreDisposedOfByAddress : Prop :=
  let forwarded (c : Cell) (s : State) : State :=
    if s.port.chain.state = .up ∧ s.port.forward.length < 32 then
      { s with port := { s.port with forward := s.port.forward ++ [c] } }
    else
      { s with port := { s.port with
          counters := { s.port.counters with fwdDrop := satInc s.port.counters.fwdDrop } } }
  (∀ (s : State) (addr tag kind : Byte) (wordB : BitVec 32) (payload : List Byte), s.port.bench.state = .up →
    wholeWords payload = true →
    let r : Request := { tag := tag, kind := kind, payload := payload }
    let c : Cell := { kind := 0x04, addr := addr, wordA := tag ++ kind, wordB := wordB, payload := payload }
    let h := s.heard .bench
    let a := s.agent
    let joined : State :=
      if a.requests.length < 16 then { h with agent := { a with requests := a.requests ++ [r] } }
      else
        { h with agent := { a with
            reqDropped := satInc a.reqDropped, lost := true, lostCount := min (a.lostCount + 1) 255 } }
    (s.port.owns addr = true → exec (.request addr tag kind wordB payload) s = .next joined) ∧
    (s.port.owns addr = false → addr.toNat % 16 = 15 →
      exec (.request addr tag kind wordB payload) s = .next (forwarded c joined)) ∧
    (s.port.owns addr = false → addr.toNat % 16 ≠ 15 →
      exec (.request addr tag kind wordB payload) s = .next (forwarded c h))) ∧
  ∀ (s : State) (addr : Byte) (wordA : BitVec 16) (wordB : BitVec 32) (payload : List Byte), payload.length = 256 →
    let cell (kind : Byte) (payload : List Byte) : Cell :=
      { kind := kind, addr := addr, wordA := wordA, wordB := wordB, payload := payload }
    let commands (addr : Byte) : List (Instr × Cell) :=
      [(.sample addr wordA wordB payload, cell 0x01 payload), (.streamEnd addr wordA wordB, cell 0x02 []),
       (.clipData addr wordA wordB payload, cell 0x03 payload)]
    let named : State := { s with port := { s.port with address := some 0 } }
    let port := (s.heard .bench).port
    let dropped : LinkCounters :=
      { s.port.bench.counters with notUpDrop := satInc s.port.bench.counters.notUpDrop }
    (∀ i : Fin 3, ∃ t own x, (commands 0)[i.val]? = some own ∧ (commands addr)[i.val]? = some x ∧
      (s.port.bench.state = .up → exec own.1 named = .next t ∧
        (s.port.owns addr = true → exec x.1 s = .next { t with port := port }) ∧
        (s.port.owns addr = false → addr.toNat % 16 = 15 →
          exec x.1 s = .next (forwarded x.2 { t with port := port })))) ∧
    ∀ x ∈ commands addr,
      (s.port.bench.state = .down ∨ s.port.bench.state = .aligning → exec x.1 s = .next s) ∧
      (s.port.bench.state = .offering →
        exec x.1 s = .next (s.setLink .bench { s.port.bench with counters := dropped })) ∧
      (s.port.bench.state = .up → s.port.owns addr = false → addr.toNat % 16 ≠ 15 →
        exec x.1 s = .next (forwarded x.2 (s.heard .bench)))

/-- FLOW(LINK) on an UP bench link sets and clears held (R183). An upstream cell on an UP chain link joins the merge queue;
the arrival that brings it to 24 cells holds the next unit, and at 32 cells it is dropped and counted (R181, R182). -/
def Obligations.FlowLinkHoldsAndChainCellsMerge : Prop :=
  (∀ (s : State) (addr : Byte) (wordB : BitVec 32), s.port.bench.state = .up →
    let h := s.heard .bench
    exec (.flowLink addr wordB) s = .next { h with port := { h.port with held := wordB.getLsbD 24 } }) ∧
  ∀ (s : State) (c : Cell), c.upstream = true → s.port.chain.state = .up →
    let h := s.heard .chain
    let merge := s.port.merge ++ [c]
    exec (.chainUpstreamCell c) s = .next
      (if 32 ≤ s.port.merge.length then
        { h with port := { h.port with
            counters := { s.port.counters with mergeDrop := satInc s.port.counters.mergeDrop } } }
      else if s.port.holdSent = false ∧ merge.length = 24 then
        { h with port := { h.port with merge := merge, holdSent := true, flowPlace := some true } }
      else { h with port := { h.port with merge := merge } })

/-- The chain transmitter sends an OFFER due, else the link-flow cell, else the oldest cell of the forward queue (R180). The
upstream arbiter sends an OFFER due, else the oldest flow cell, else, while held is clear, the oldest cell of the first
ready class after the rotation mark, which then names it (R173, R184); a grant of CHAIN that leaves 8 cells releases the
next unit (R182); a grant of NOTICE empties the Notice Queue and its latches (R198). The end of a sending counts CELLS_OUT
(R186) and, of the UNIT_RESET reply, is noted (R192; log entry 22). The header and payload bytes of the OFFER, FLOW, REPLY
and NOTICE cells that the unit originates are those of R206, R208, R209 and R210. -/
def Obligations.TransmittersSendInOrder : Prop :=
  let sending (c : Cell) (b : Bool) : Option Sending := some { cell := c, resetReply := b }
  (∀ s : State,
    let p := s.port
    let x := p.chain
    let gives (p : Port) := (Host.Outcome.next { s with port := p } : Out)
    let answered : Link := { x with sending := sending (p.offerCell x.seen) false, answerDue := false }
    (x.state ≠ .up ∨ x.sending ≠ none → exec .chainTransmit s = .next s) ∧
    (x.state = .up → x.sending = none →
      (x.answerDue = true → exec .chainTransmit s = gives { p with chain := answered }) ∧
      (x.answerDue = false →
        (∀ hold, p.flowPlace = some hold →
          let y : Link := { x with sending := sending (p.flowCell 0 hold) false }
          exec .chainTransmit s = gives { p with flowPlace := none, chain := y }) ∧
        (∀ c rest, p.flowPlace = none → p.forward = c :: rest →
          let y : Link := { x with sending := sending c false }
          exec .chainTransmit s = gives { p with forward := rest, chain := y }) ∧
        (p.flowPlace = none → p.forward = [] → exec .chainTransmit s = .next s)))) ∧
  (∀ s : State,
    let p := s.port
    let x := p.bench
    let sent (c : Cell) (b : Bool) : Link := { x with sending := sending c b }
    let answered : Link := { x with sending := sending (p.offerCell x.seen) false, answerDue := false }
    (x.state ≠ .up ∨ x.sending ≠ none → exec .upstreamGrant s = .next s) ∧
    (x.state = .up → x.sending = none →
      (x.answerDue = true → exec .upstreamGrant s = .next { s with port := { p with bench := answered } }) ∧
      (x.answerDue = false →
        (∀ e rest, s.dev.intake.outbox = e :: rest → exec .upstreamGrant s = .next
          { s with
            dev := { s.dev with intake := { s.dev.intake with outbox := rest } }
            port := { p with bench := sent (p.flowCell e.subjectWord e.hold) false } }) ∧
        (s.dev.intake.outbox = [] →
          (p.held = true ∨ (∀ k, s.classReady k = false) → exec .upstreamGrant s = .next s) ∧
          ∀ (k : Machine.Class) (before after : List Machine.Class), p.held = false → ringAfter p.mark = before ++ k :: after →
            s.classReady k = true → (∀ j ∈ before, s.classReady j = false) →
            (∀ r rest, k = .reply → s.agent.replies = r :: rest → exec .upstreamGrant s = .next
              { s with
                agent := { s.agent with replies := rest }
                port := { p with mark := .reply, bench := sent (p.replyCell r) (r.kind = 0x72) } }) ∧
            (k = .notice →
              let b := s.dev.notices
              let b' : NoticeBox :=
                { b with queue := [], urgent := false, lost := false, lostCount := 0, cells := satInc b.cells }
              exec .upstreamGrant s = .next
                { s with
                  dev := { s.dev with notices := b' }
                  port := { p with mark := .notice, bench := sent (p.noticeCell b) false } }) ∧
            (∀ c rest, k = .chain → p.merge = c :: rest →
              let releases : Prop := p.chain.state = .up ∧ p.holdSent = true ∧ rest.length = 8
              let p' : Port := { p with mark := .chain, merge := rest, bench := sent c false }
              (releases → exec .upstreamGrant s =
                .next { s with port := { p' with holdSent := false, flowPlace := some false } }) ∧
              (¬ releases → exec .upstreamGrant s = .next { s with port := p' })))))) ∧
  (∀ (s : State) (id : LinkId),
    let x := s.link id
    (x.sending = none → exec (.cellSent id) s = .next s) ∧
    ∀ c, x.sending = some c →
      let y : Link :=
        { x with sending := none, counters := { x.counters with cellsOut := satInc x.counters.cellsOut } }
      let s' := s.setLink id y
      exec (.cellSent id) s =
        .next (if c.resetReply then { s' with agent := { s.agent with resetSent := true } } else s')) ∧
  ∀ p : Port,
    let own : Byte := match p.address with
      | none => 15
      | some a => BitVec.ofNat 8 a.val
    let flag (b : Bool) : Byte := if b then 1 else 0
    let results : List Result :=
      [.ok, .accepted, .busy, .inUse, .badKind, .badField, .outOfRange, .notReady, .laneStopped, .streamRunning, .full,
       .noSpace, .incomplete, .locked]
    let kinds : List NoticeKind := [.event, .cueFault, .user, .storeDone]
    let entry (n : Notice) : List Byte :=
      [BitVec.ofNat 8 (1 + kinds.idxOf n.kind), BitVec.ofNat 8 n.source, BitVec.ofNat 8 n.count, n.aux, n.detail, 0, 0, 0]
    (∀ seen, cellBody (p.offerCell seen) = [0x0F, own, 0x00, 0x02, flag seen, 0, 0, 0]) ∧
    (∀ (high low : Byte) (hold : Bool),
      cellBody (p.flowCell (high ++ low) hold) = [0x0C, own, high, low, flag hold, 0, 0, 0]) ∧
    (∀ r : Reply, ∃ fill, fill < 4 ∧ (r.data.length + fill) % 4 = 0 ∧ cellBody (p.replyCell r) =
      [0x08, own, r.tag, r.kind, BitVec.ofNat 8 (results.idxOf r.result), flag r.lost, BitVec.ofNat 8 r.lostCount, 0]
        ++ r.data ++ List.replicate fill 0) ∧
    ∀ b : NoticeBox, cellBody (p.noticeCell b) =
      [0x09, own, BitVec.ofNat 8 b.queue.length, flag b.lost, if b.lost then BitVec.ofNat 8 b.lostCount else 0, 0, 0, 0]
        ++ b.queue.flatMap entry

/-! ## Management (09) -/

/-- NOTICE_CONFIG stores its three settings, or gives OUT_OF_RANGE (R199); the holdoff expiry of the oldest entry brings the
send condition (R197; the moment by log entry 3). STORE_PROGRAM: the checks of R202 in order, and programming begun for
4 ms; at its end the field takes its value and its mark, and STORE_DONE is handed on (R203). -/
def Obligations.NoticesAndStoreAreProgrammed : Prop :=
  (∀ (s : State) (p : List Byte), asked .request 0x71 s p = true → 5 ≤ p.length →
    let b : NoticeBox := { s.dev.notices with batch := u16 p 0, holdoff := u16 p 2, urgentLevel := u8 p 4 }
    exec .noticeConfig s = .next
      (if u16 p 0 < 1 ∨ 32 < u16 p 0 ∨ u8 p 4 < 1 ∨ 8 < u8 p 4 then concluded .request s s.dev .outOfRange []
       else concluded .request s { s.dev with notices := b } .ok [])) ∧
  (∀ s : State,
    (s.dev.notices.queue = [] → exec .noticeHoldoffExpiry s = .next s) ∧
    ∀ oldest rest, s.dev.notices.queue = oldest :: rest →
      let d : Device := { s.dev with now := max s.dev.now (oldest.joined + s.dev.notices.holdoff * 30720) }
      exec .noticeHoldoffExpiry s = .next { s with dev := d } ∧ d.notices.sendReady d.now = true) ∧
  (∀ (s : State) (p : List Byte), asked .request 0x74 s p = true → 3 ≤ p.length →
    let k := s.dev.store
    let value := s16 p 1
    let gives (result : Result) := Host.Outcome.next (concluded .request s s.dev result [])
    (9 < u8 p 0 → exec .storeProgram s = gives .outOfRange) ∧
    ∀ field : Fin 10, u8 p 0 = field.val →
      let x : Programming := { field := field, value := value, endsAt := s.dev.now + 122880000 }
      exec .storeProgram s =
        if field = 0 ∧ (value < 0 ∨ 14 < value) then gives .outOfRange
        else if field ≠ 0 ∧ field ≠ 9 ∧ (value < -60 ∨ 60 < value) then gives .outOfRange
        else if field = 9 ∧ value ≠ 1 then gives .badField
        else if k.lock = true then gives .locked
        else if k.program ≠ none then gives .busy
        else if (k.fields.get field).marked = true then gives .busy
        else .next (concluded .request s { s.dev with store := { k with program := some x } } .accepted [])) ∧
  ∀ s : State,
    let k := s.dev.store
    (k.program = none → exec .programTimerExpiry s = .next s) ∧
    ∀ x, k.program = some x →
      let now := max s.dev.now x.endsAt
      let field : StoreField := { value := x.value, marked := true }
      exec .programTimerExpiry s = .next { s with
        dev := { s.dev with
          now := now, store := { k with fields := put k.fields x.field field, program := none }
          notices := takeNotice now .storeDone x.field.val 0 0x00 s.dev.notices } }

/-- UNIT_RESET is answered OK, and the Agent waits (R192). At the end of the reply's sending every block takes its unit
reset values: lane trims, READY clips, the Identity Store, the unit address and the link states are kept, and the queues,
tables, counters and settings are reset; the load slot of a LOADING clip is freed, and its pages go back to the Free Extent List
(R192, R193, R185, R96, R120). The model's moments and its two reset marks are log
entries 3 and 22, and that a link goes on receiving the cell it was receiving is the model's choice (log entry 34). -/
def Obligations.UnitResetWaitsAndThenResets : Prop :=
  (∀ (s : State) (p : List Byte), asked .request 0x72 s p = true →
    let t := concluded .request s s.dev .ok []
    exec .unitReset s = .next { t with agent := { t.agent with resetWait := true, resetSent := false } }) ∧
  (∀ (s : State) (inputs : BitVec 4), s.agent.resetWait = false → exec (.unitResetPerformed inputs) s = .next s) ∧
  ∀ (s : State) (inputs : BitVec 4), s.agent.resetWait = true →
    s.agent.resetSent = true ∨ s.port.bench.sending.any Sending.resetReply = true →
    ∃ t, exec (.unitResetPerformed inputs) s = .next t ∧
      t.agent = { Agent.reset with replies := s.agent.replies } ∧
      (let d := s.dev
       let e := t.dev
       e.segments = Vector.replicate 1024 Segment.reset ∧
       (∀ l, e.lane l = Lane.reset (d.lane l).trim) ∧
       e.domainA = Domain.reset ∧ e.domainB = Domain.reset ∧
       e.intake.tags = Vector.replicate 32 TagEntry.reset ∧ e.intake.slots = Vector.replicate 16 Slot.reset ∧
       e.intake.pool = Pool.reset ∧ e.intake.unknownTag = 0 ∧ e.intake.closedStream = 0 ∧
       e.intake.outbox = (if d.intake.pool.hold then [{ subject := .all, tag := 0, hold := false }] else []) ∧
       (∀ c, (d.clip c).state ≠ .loading → e.clip c = d.clip c) ∧
       (∀ c, (d.clip c).state = .loading → e.clip c = Clip.reset) ∧
       (∀ j, e.clips.loadSlots.get j = match d.clips.loadSlots.get j with
         | none => none
         | some x => if (d.clip x.clip).state = .loading then none else some x) ∧
       (let loading := (List.finRange 256).filter fun c => (d.clip c).state = .loading
        e.clips.freeList = loading.foldl (fun list c => returnAll (d.clip c).extents list) d.clips.freeList ∧
        ∀ page, covers e.clips.freeList page =
          covers d.clips.freeList page + (loading.map fun c => covers (d.clip c).extents page).sum) ∧
       e.clips.memory = d.clips.memory ∧ e.clips.counters = ClipCounters.zero ∧ e.coldResets = d.coldResets ∧
       e.cue = Cue.reset ∧ (∀ n, e.triggers.get n = Trigger.reset d.now (inputs.getLsbD n.val)) ∧
       e.markers = Vector.replicate 6 Marker.reset ∧ e.meters = Vector.replicate 8 Meter.reset ∧
       e.notices = NoticeBox.reset ∧ e.store = d.store ∧ e.now = d.now) ∧
      (let p := s.port
       let q := t.port
       q.address = p.address ∧ q.origin = p.origin ∧ q.held = false ∧ q.holdSent = false ∧
       q.flowPlace = (if p.holdSent then some false else p.flowPlace) ∧ q.forward = [] ∧ q.merge = [] ∧
       q.mark = .chain ∧ q.counters = PortCounters.zero ∧ q.chain = { p.chain with counters := LinkCounters.zero } ∧
       q.bench = { p.bench with
         counters := LinkCounters.zero, sending := if s.agent.resetSent then p.bench.sending else none })

/-- PLAYBACK_CLEAR stops all playback and keeps every table: lanes STOPPED at time 0 with empty schedules, voices at their
reset values with cause CLEARED, slots CLOSED and empty with all buffers free, meters IDLE without a result, an empty stack
and Pending Set, and the pool's GO cell if the pool was holding; it raises no event; each lane's master amplitude stands at its
master gain, and a marker of a lane drops its pulse starts due, and its frozen hold and pulse if the lane was FROZEN (R194,
R31, R9, R59, R78, R96, R148, R154, R156, R157, R161). -/
def Obligations.PlaybackClearStopsAndKeepsTables : Prop :=
  ∀ (s : State) (p : List Byte), asked .request 0x73 s p = true →
    ∃ e, exec .playbackClear s = .next (concluded .request s e .ok []) ∧
      (let d := s.dev
       s.dev.Steadies e ∧ e.notices = d.notices ∧
       (∀ l, let x := d.lane l
         let y := e.lane l
         y.state = .stopped ∧ y.time = 0 ∧ y.schedule = [] ∧ y.carried = [] ∧ y.startDue = false ∧ y.rampDue = false ∧
         y.ampNow = gainAmplitude x.masterGain ∧ y.ampTarget = gainAmplitude x.masterGain ∧ y.rampLeft = 0 ∧
         y.quietPendingOff = x.quietPendingOff ∧ y.overrange = x.overrange ∧
         y.domain = x.domain ∧ y.startMode = x.startMode ∧ y.freezeRamp = x.freezeRamp ∧ y.masterGain = x.masterGain ∧
         y.meterInFreeze = x.meterInFreeze ∧ y.quiet = x.quiet ∧ y.compare = x.compare ∧ y.trim = x.trim ∧
         y.voices = Vector.replicate 4 (Voice.reset (some .cleared))) ∧
       (∀ n, let x := d.slot n
         e.slot n = { x with state := .closed, queue := [], readers := [], hold := false }) ∧
       e.intake.tags = d.intake.tags ∧ e.intake.unknownTag = d.intake.unknownTag ∧
       e.intake.closedStream = d.intake.closedStream ∧
       e.intake.pool = { d.intake.pool with free := 4096, hold := false } ∧
       (d.intake.pool.hold = false → e.intake.outbox.map FlowEntry.subject = d.intake.outbox.map FlowEntry.subject) ∧
       (d.intake.pool.hold = true → ∃ x ∈ e.intake.outbox, x.subject = .all ∧ x.hold = false) ∧
       (∀ x ∈ e.intake.outbox, x.subject ≠ .all → x.hold = false) ∧
       e.cue = { d.cue with pending := Vector.replicate 126 none, stack := [] } ∧
       (∀ l, let m := d.meter l
         e.meter l = { m with state := .idle, acc := Val.zero, counted := 0, result := none, fresh := false }) ∧
       (∀ n, let m := d.markers.get n
         let unbegun : Marker := { m with startsDue := [] }
         let thawed : Marker := { m with startsDue := [], frozenHold := none, pulse := .none }
         (m.condition.lane = none → e.markers.get n = m) ∧
         ∀ l, m.condition.lane = some l →
           e.markers.get n = if (d.lane l).state = .frozen then thawed else unbegun))

/-- A cold reset sets every block to the reset values of its rules (R1, R9, R31, R33, R55, R59, R78, R102, R107, R123, R136,
R137, R148, R149, R154, R161, R169, R185, R193), keeps the contents of the Identity Store with programming ended, and loads the address, the
trims and the lock from it (R201, R203). `State.reset` is the state after a cold reset with an unprogrammed store, straps 0
and low trigger inputs (log entry 4); clip memory is undefined anew (R101, log entry 5). That the clock goes on, and that a
link's next OFFER moment is 0, is log entry 3. -/
def Obligations.ColdResetLoadsAndResets : Prop :=
  (∀ (s : State) (straps inputs : BitVec 4), ∃ t, exec (.coldReset straps inputs) s = .next t ∧
    t.pending = s.pending ∧ t.agent = Agent.reset ∧
    t.port.bench = Link.reset ∧ t.port.chain = Link.reset ∧ t.port.held = false ∧ t.port.holdSent = false ∧
    t.port.flowPlace = none ∧ t.port.forward = [] ∧ t.port.merge = [] ∧ t.port.mark = .chain ∧
    t.port.counters = PortCounters.zero ∧
    (let k := s.dev.store
     let field := k.fields.get 0
     (field.marked = true → t.port.origin = .store ∧
       ∀ a : Fin 15, field.value = (a.val : Int) → t.port.address = some a) ∧
     (field.marked = false → straps.toNat = 15 → t.port.address = none ∧ t.port.origin = .none) ∧
     (field.marked = false → ∀ a : Fin 15, straps.toNat = a.val →
       t.port.address = some a ∧ t.port.origin = .straps) ∧
     t.dev.store = { k with program := none, lock := (k.fields.get 9).marked } ∧
     ∀ (l : Fin 8) (n : Fin 10), n.val = 1 + l.val →
       t.dev.lane l = Lane.reset (if (k.fields.get n).marked then (k.fields.get n).value else 0)) ∧
    t.dev.now = s.dev.now ∧ t.dev.coldResets = s.dev.coldResets + 1 ∧
    t.dev.segments = Vector.replicate 1024 Segment.reset ∧ t.dev.domainA = Domain.reset ∧
    t.dev.domainB = Domain.reset ∧ t.dev.intake = Intake.reset ∧ t.dev.clips = ClipStore.reset ∧
    t.dev.cue = Cue.reset ∧ (∀ n, t.dev.triggers.get n = Trigger.reset s.dev.now (inputs.getLsbD n.val)) ∧
    t.dev.markers = Vector.replicate 6 Marker.reset ∧ t.dev.meters = Vector.replicate 8 Meter.reset ∧
    t.dev.notices = NoticeBox.reset) ∧
  exec (.coldReset 0 0) State.reset = .next { State.reset with dev := { State.reset.dev with coldResets := 1 } }

/-! ## What every step keeps -/

/-- No step takes a queue, a set or a level past the size and order that `State.bounded` gives it: 16 requests, 8 replies, 32
notices with no two of one kind and source, 32 cells in each chain queue, 4 contexts whose levels rise strictly, the threshold
within 7, the alignment counters within 15, one waiting flow cell for each subject, schedules of at most 16 entries in stamp
order with the entry of every pending start, and slots that hold no more than their quota with at most 8 readers of distinct
indices 0 to 7 (R188, R190, R195, R196, R180, R181, R128, R132, R170, R97, R40, R9, R69, R81). The 32-bit counters are not
part of it. -/
def Obligations.EveryStepKeepsTheSizes : Prop :=
  ∀ s t : State, s.bounded = true → step s = .next t → t.bounded = true

/-- Every step keeps clip memory in canonical form, and every page of it in the Free Extent List or in one clip and in one
place only, the list in rising order with no two entries overlapping or adjacent (R101, R102). -/
def Obligations.EveryStepAccountsForThePages : Prop :=
  ∀ s t : State, step s = .next t →
    (s.memoryCanonical = true → t.memoryCanonical = true) ∧ (s.dev.clips.accounted → t.dev.clips.accounted)

/-- Every step keeps the 4096 buffers of the Cell Pool free or held by one slot's DATA entries, and a slot that is not open
holding none (R65, R76). -/
def Obligations.EveryStepAccountsForTheBuffers : Prop :=
  ∀ s t : State, s.dev.intake.accounted → step s = .next t → t.dev.intake.accounted

/-- The state after reset meets what every step keeps. -/
def Obligations.ResetMeetsWhatStepsKeep : Prop :=
  State.reset.bounded = true ∧ State.reset.memoryCanonical = true ∧ State.reset.dev.clips.accounted ∧
    State.reset.dev.intake.accounted
end

