-- ==== Sys2Proof/Laws/State.lean ====
section
/-!
SUPPORT. One lemma for each block and each named update that leaves it alone: no later proof unfolds the update.
-/
namespace Sys2Proof.Machine

/-! ## setLane -/

@[simp] theorem setLane_now (d : Device) (l : Fin 8) (x : Lane) : (d.setLane l x).now = d.now := rfl

@[simp] theorem setLane_coldResets (d : Device) (l : Fin 8) (x : Lane) : (d.setLane l x).coldResets = d.coldResets := rfl

@[simp] theorem setLane_segments (d : Device) (l : Fin 8) (x : Lane) : (d.setLane l x).segments = d.segments := rfl

@[simp] theorem setLane_domainA (d : Device) (l : Fin 8) (x : Lane) : (d.setLane l x).domainA = d.domainA := rfl

@[simp] theorem setLane_domainB (d : Device) (l : Fin 8) (x : Lane) : (d.setLane l x).domainB = d.domainB := rfl

@[simp] theorem setLane_intake (d : Device) (l : Fin 8) (x : Lane) : (d.setLane l x).intake = d.intake := rfl

@[simp] theorem setLane_clips (d : Device) (l : Fin 8) (x : Lane) : (d.setLane l x).clips = d.clips := rfl

@[simp] theorem setLane_cue (d : Device) (l : Fin 8) (x : Lane) : (d.setLane l x).cue = d.cue := rfl

@[simp] theorem setLane_triggers (d : Device) (l : Fin 8) (x : Lane) : (d.setLane l x).triggers = d.triggers := rfl

@[simp] theorem setLane_markers (d : Device) (l : Fin 8) (x : Lane) : (d.setLane l x).markers = d.markers := rfl

@[simp] theorem setLane_meters (d : Device) (l : Fin 8) (x : Lane) : (d.setLane l x).meters = d.meters := rfl

@[simp] theorem setLane_notices (d : Device) (l : Fin 8) (x : Lane) : (d.setLane l x).notices = d.notices := rfl

@[simp] theorem setLane_store (d : Device) (l : Fin 8) (x : Lane) : (d.setLane l x).store = d.store := rfl

/-! ## updLane -/

@[simp] theorem updLane_now (d : Device) (l : Fin 8) (f : Lane → Lane) : (d.updLane l f).now = d.now := rfl

@[simp] theorem updLane_coldResets (d : Device) (l : Fin 8) (f : Lane → Lane) : (d.updLane l f).coldResets = d.coldResets := rfl

@[simp] theorem updLane_segments (d : Device) (l : Fin 8) (f : Lane → Lane) : (d.updLane l f).segments = d.segments := rfl

@[simp] theorem updLane_domainA (d : Device) (l : Fin 8) (f : Lane → Lane) : (d.updLane l f).domainA = d.domainA := rfl

@[simp] theorem updLane_domainB (d : Device) (l : Fin 8) (f : Lane → Lane) : (d.updLane l f).domainB = d.domainB := rfl

@[simp] theorem updLane_intake (d : Device) (l : Fin 8) (f : Lane → Lane) : (d.updLane l f).intake = d.intake := rfl

@[simp] theorem updLane_clips (d : Device) (l : Fin 8) (f : Lane → Lane) : (d.updLane l f).clips = d.clips := rfl

@[simp] theorem updLane_cue (d : Device) (l : Fin 8) (f : Lane → Lane) : (d.updLane l f).cue = d.cue := rfl

@[simp] theorem updLane_triggers (d : Device) (l : Fin 8) (f : Lane → Lane) : (d.updLane l f).triggers = d.triggers := rfl

@[simp] theorem updLane_markers (d : Device) (l : Fin 8) (f : Lane → Lane) : (d.updLane l f).markers = d.markers := rfl

@[simp] theorem updLane_meters (d : Device) (l : Fin 8) (f : Lane → Lane) : (d.updLane l f).meters = d.meters := rfl

@[simp] theorem updLane_notices (d : Device) (l : Fin 8) (f : Lane → Lane) : (d.updLane l f).notices = d.notices := rfl

@[simp] theorem updLane_store (d : Device) (l : Fin 8) (f : Lane → Lane) : (d.updLane l f).store = d.store := rfl

/-! ## setVoice -/

@[simp] theorem setVoice_now (d : Device) (l : Fin 8) (v : Fin 4) (x : Voice) : (d.setVoice l v x).now = d.now := rfl

@[simp] theorem setVoice_coldResets (d : Device) (l : Fin 8) (v : Fin 4) (x : Voice) : (d.setVoice l v x).coldResets = d.coldResets := rfl

@[simp] theorem setVoice_segments (d : Device) (l : Fin 8) (v : Fin 4) (x : Voice) : (d.setVoice l v x).segments = d.segments := rfl

@[simp] theorem setVoice_domainA (d : Device) (l : Fin 8) (v : Fin 4) (x : Voice) : (d.setVoice l v x).domainA = d.domainA := rfl

@[simp] theorem setVoice_domainB (d : Device) (l : Fin 8) (v : Fin 4) (x : Voice) : (d.setVoice l v x).domainB = d.domainB := rfl

@[simp] theorem setVoice_intake (d : Device) (l : Fin 8) (v : Fin 4) (x : Voice) : (d.setVoice l v x).intake = d.intake := rfl

@[simp] theorem setVoice_clips (d : Device) (l : Fin 8) (v : Fin 4) (x : Voice) : (d.setVoice l v x).clips = d.clips := rfl

@[simp] theorem setVoice_cue (d : Device) (l : Fin 8) (v : Fin 4) (x : Voice) : (d.setVoice l v x).cue = d.cue := rfl

@[simp] theorem setVoice_triggers (d : Device) (l : Fin 8) (v : Fin 4) (x : Voice) : (d.setVoice l v x).triggers = d.triggers := rfl

@[simp] theorem setVoice_markers (d : Device) (l : Fin 8) (v : Fin 4) (x : Voice) : (d.setVoice l v x).markers = d.markers := rfl

@[simp] theorem setVoice_meters (d : Device) (l : Fin 8) (v : Fin 4) (x : Voice) : (d.setVoice l v x).meters = d.meters := rfl

@[simp] theorem setVoice_notices (d : Device) (l : Fin 8) (v : Fin 4) (x : Voice) : (d.setVoice l v x).notices = d.notices := rfl

@[simp] theorem setVoice_store (d : Device) (l : Fin 8) (v : Fin 4) (x : Voice) : (d.setVoice l v x).store = d.store := rfl

/-! ## updVoice -/

@[simp] theorem updVoice_now (d : Device) (l : Fin 8) (v : Fin 4) (f : Voice → Voice) : (d.updVoice l v f).now = d.now := rfl

@[simp] theorem updVoice_coldResets (d : Device) (l : Fin 8) (v : Fin 4) (f : Voice → Voice) : (d.updVoice l v f).coldResets = d.coldResets := rfl

@[simp] theorem updVoice_segments (d : Device) (l : Fin 8) (v : Fin 4) (f : Voice → Voice) : (d.updVoice l v f).segments = d.segments := rfl

@[simp] theorem updVoice_domainA (d : Device) (l : Fin 8) (v : Fin 4) (f : Voice → Voice) : (d.updVoice l v f).domainA = d.domainA := rfl

@[simp] theorem updVoice_domainB (d : Device) (l : Fin 8) (v : Fin 4) (f : Voice → Voice) : (d.updVoice l v f).domainB = d.domainB := rfl

@[simp] theorem updVoice_intake (d : Device) (l : Fin 8) (v : Fin 4) (f : Voice → Voice) : (d.updVoice l v f).intake = d.intake := rfl

@[simp] theorem updVoice_clips (d : Device) (l : Fin 8) (v : Fin 4) (f : Voice → Voice) : (d.updVoice l v f).clips = d.clips := rfl

@[simp] theorem updVoice_cue (d : Device) (l : Fin 8) (v : Fin 4) (f : Voice → Voice) : (d.updVoice l v f).cue = d.cue := rfl

@[simp] theorem updVoice_triggers (d : Device) (l : Fin 8) (v : Fin 4) (f : Voice → Voice) : (d.updVoice l v f).triggers = d.triggers := rfl

@[simp] theorem updVoice_markers (d : Device) (l : Fin 8) (v : Fin 4) (f : Voice → Voice) : (d.updVoice l v f).markers = d.markers := rfl

@[simp] theorem updVoice_meters (d : Device) (l : Fin 8) (v : Fin 4) (f : Voice → Voice) : (d.updVoice l v f).meters = d.meters := rfl

@[simp] theorem updVoice_notices (d : Device) (l : Fin 8) (v : Fin 4) (f : Voice → Voice) : (d.updVoice l v f).notices = d.notices := rfl

@[simp] theorem updVoice_store (d : Device) (l : Fin 8) (v : Fin 4) (f : Voice → Voice) : (d.updVoice l v f).store = d.store := rfl

/-! ## setDomain -/

@[simp] theorem setDomain_now (d : Device) (i : DomainId) (x : Domain) : (d.setDomain i x).now = d.now := by cases i <;> rfl

@[simp] theorem setDomain_coldResets (d : Device) (i : DomainId) (x : Domain) : (d.setDomain i x).coldResets = d.coldResets := by cases i <;> rfl

@[simp] theorem setDomain_segments (d : Device) (i : DomainId) (x : Domain) : (d.setDomain i x).segments = d.segments := by cases i <;> rfl

@[simp] theorem setDomain_lanes (d : Device) (i : DomainId) (x : Domain) : (d.setDomain i x).lanes = d.lanes := by cases i <;> rfl

@[simp] theorem setDomain_intake (d : Device) (i : DomainId) (x : Domain) : (d.setDomain i x).intake = d.intake := by cases i <;> rfl

@[simp] theorem setDomain_clips (d : Device) (i : DomainId) (x : Domain) : (d.setDomain i x).clips = d.clips := by cases i <;> rfl

@[simp] theorem setDomain_cue (d : Device) (i : DomainId) (x : Domain) : (d.setDomain i x).cue = d.cue := by cases i <;> rfl

@[simp] theorem setDomain_triggers (d : Device) (i : DomainId) (x : Domain) : (d.setDomain i x).triggers = d.triggers := by cases i <;> rfl

@[simp] theorem setDomain_markers (d : Device) (i : DomainId) (x : Domain) : (d.setDomain i x).markers = d.markers := by cases i <;> rfl

@[simp] theorem setDomain_meters (d : Device) (i : DomainId) (x : Domain) : (d.setDomain i x).meters = d.meters := by cases i <;> rfl

@[simp] theorem setDomain_notices (d : Device) (i : DomainId) (x : Domain) : (d.setDomain i x).notices = d.notices := by cases i <;> rfl

@[simp] theorem setDomain_store (d : Device) (i : DomainId) (x : Domain) : (d.setDomain i x).store = d.store := by cases i <;> rfl

/-! ## setSlot -/

@[simp] theorem setSlot_now (d : Device) (n : Fin 16) (x : Slot) : (d.setSlot n x).now = d.now := rfl

@[simp] theorem setSlot_coldResets (d : Device) (n : Fin 16) (x : Slot) : (d.setSlot n x).coldResets = d.coldResets := rfl

@[simp] theorem setSlot_segments (d : Device) (n : Fin 16) (x : Slot) : (d.setSlot n x).segments = d.segments := rfl

@[simp] theorem setSlot_lanes (d : Device) (n : Fin 16) (x : Slot) : (d.setSlot n x).lanes = d.lanes := rfl

@[simp] theorem setSlot_domainA (d : Device) (n : Fin 16) (x : Slot) : (d.setSlot n x).domainA = d.domainA := rfl

@[simp] theorem setSlot_domainB (d : Device) (n : Fin 16) (x : Slot) : (d.setSlot n x).domainB = d.domainB := rfl

@[simp] theorem setSlot_clips (d : Device) (n : Fin 16) (x : Slot) : (d.setSlot n x).clips = d.clips := rfl

@[simp] theorem setSlot_cue (d : Device) (n : Fin 16) (x : Slot) : (d.setSlot n x).cue = d.cue := rfl

@[simp] theorem setSlot_triggers (d : Device) (n : Fin 16) (x : Slot) : (d.setSlot n x).triggers = d.triggers := rfl

@[simp] theorem setSlot_markers (d : Device) (n : Fin 16) (x : Slot) : (d.setSlot n x).markers = d.markers := rfl

@[simp] theorem setSlot_meters (d : Device) (n : Fin 16) (x : Slot) : (d.setSlot n x).meters = d.meters := rfl

@[simp] theorem setSlot_notices (d : Device) (n : Fin 16) (x : Slot) : (d.setSlot n x).notices = d.notices := rfl

@[simp] theorem setSlot_store (d : Device) (n : Fin 16) (x : Slot) : (d.setSlot n x).store = d.store := rfl

/-! ## setMeter -/

@[simp] theorem setMeter_now (d : Device) (l : Fin 8) (x : Meter) : (d.setMeter l x).now = d.now := rfl

@[simp] theorem setMeter_coldResets (d : Device) (l : Fin 8) (x : Meter) : (d.setMeter l x).coldResets = d.coldResets := rfl

@[simp] theorem setMeter_segments (d : Device) (l : Fin 8) (x : Meter) : (d.setMeter l x).segments = d.segments := rfl

@[simp] theorem setMeter_lanes (d : Device) (l : Fin 8) (x : Meter) : (d.setMeter l x).lanes = d.lanes := rfl

@[simp] theorem setMeter_domainA (d : Device) (l : Fin 8) (x : Meter) : (d.setMeter l x).domainA = d.domainA := rfl

@[simp] theorem setMeter_domainB (d : Device) (l : Fin 8) (x : Meter) : (d.setMeter l x).domainB = d.domainB := rfl

@[simp] theorem setMeter_intake (d : Device) (l : Fin 8) (x : Meter) : (d.setMeter l x).intake = d.intake := rfl

@[simp] theorem setMeter_clips (d : Device) (l : Fin 8) (x : Meter) : (d.setMeter l x).clips = d.clips := rfl

@[simp] theorem setMeter_cue (d : Device) (l : Fin 8) (x : Meter) : (d.setMeter l x).cue = d.cue := rfl

@[simp] theorem setMeter_triggers (d : Device) (l : Fin 8) (x : Meter) : (d.setMeter l x).triggers = d.triggers := rfl

@[simp] theorem setMeter_markers (d : Device) (l : Fin 8) (x : Meter) : (d.setMeter l x).markers = d.markers := rfl

@[simp] theorem setMeter_notices (d : Device) (l : Fin 8) (x : Meter) : (d.setMeter l x).notices = d.notices := rfl

@[simp] theorem setMeter_store (d : Device) (l : Fin 8) (x : Meter) : (d.setMeter l x).store = d.store := rfl

/-! ## setMarker -/

@[simp] theorem setMarker_now (d : Device) (n : Fin 6) (x : Marker) : (d.setMarker n x).now = d.now := rfl

@[simp] theorem setMarker_coldResets (d : Device) (n : Fin 6) (x : Marker) : (d.setMarker n x).coldResets = d.coldResets := rfl

@[simp] theorem setMarker_segments (d : Device) (n : Fin 6) (x : Marker) : (d.setMarker n x).segments = d.segments := rfl

@[simp] theorem setMarker_lanes (d : Device) (n : Fin 6) (x : Marker) : (d.setMarker n x).lanes = d.lanes := rfl

@[simp] theorem setMarker_domainA (d : Device) (n : Fin 6) (x : Marker) : (d.setMarker n x).domainA = d.domainA := rfl

@[simp] theorem setMarker_domainB (d : Device) (n : Fin 6) (x : Marker) : (d.setMarker n x).domainB = d.domainB := rfl

@[simp] theorem setMarker_intake (d : Device) (n : Fin 6) (x : Marker) : (d.setMarker n x).intake = d.intake := rfl

@[simp] theorem setMarker_clips (d : Device) (n : Fin 6) (x : Marker) : (d.setMarker n x).clips = d.clips := rfl

@[simp] theorem setMarker_cue (d : Device) (n : Fin 6) (x : Marker) : (d.setMarker n x).cue = d.cue := rfl

@[simp] theorem setMarker_triggers (d : Device) (n : Fin 6) (x : Marker) : (d.setMarker n x).triggers = d.triggers := rfl

@[simp] theorem setMarker_meters (d : Device) (n : Fin 6) (x : Marker) : (d.setMarker n x).meters = d.meters := rfl

@[simp] theorem setMarker_notices (d : Device) (n : Fin 6) (x : Marker) : (d.setMarker n x).notices = d.notices := rfl

@[simp] theorem setMarker_store (d : Device) (n : Fin 6) (x : Marker) : (d.setMarker n x).store = d.store := rfl

/-! ## reach -/

@[simp] theorem reach_coldResets (d : Device) (m : Nat) : (d.reach m).coldResets = d.coldResets := rfl

@[simp] theorem reach_segments (d : Device) (m : Nat) : (d.reach m).segments = d.segments := rfl

@[simp] theorem reach_lanes (d : Device) (m : Nat) : (d.reach m).lanes = d.lanes := rfl

@[simp] theorem reach_domainA (d : Device) (m : Nat) : (d.reach m).domainA = d.domainA := rfl

@[simp] theorem reach_domainB (d : Device) (m : Nat) : (d.reach m).domainB = d.domainB := rfl

@[simp] theorem reach_intake (d : Device) (m : Nat) : (d.reach m).intake = d.intake := rfl

@[simp] theorem reach_clips (d : Device) (m : Nat) : (d.reach m).clips = d.clips := rfl

@[simp] theorem reach_cue (d : Device) (m : Nat) : (d.reach m).cue = d.cue := rfl

@[simp] theorem reach_triggers (d : Device) (m : Nat) : (d.reach m).triggers = d.triggers := rfl

@[simp] theorem reach_markers (d : Device) (m : Nat) : (d.reach m).markers = d.markers := rfl

@[simp] theorem reach_meters (d : Device) (m : Nat) : (d.reach m).meters = d.meters := rfl

@[simp] theorem reach_notices (d : Device) (m : Nat) : (d.reach m).notices = d.notices := rfl

@[simp] theorem reach_store (d : Device) (m : Nat) : (d.reach m).store = d.store := rfl

/-! ## schedule -/

@[simp] theorem schedule_now (d : Device) (l : Fin 8) (e : Entry) : (d.schedule l e).now = d.now := rfl

@[simp] theorem schedule_coldResets (d : Device) (l : Fin 8) (e : Entry) : (d.schedule l e).coldResets = d.coldResets := rfl

@[simp] theorem schedule_segments (d : Device) (l : Fin 8) (e : Entry) : (d.schedule l e).segments = d.segments := rfl

@[simp] theorem schedule_domainA (d : Device) (l : Fin 8) (e : Entry) : (d.schedule l e).domainA = d.domainA := rfl

@[simp] theorem schedule_domainB (d : Device) (l : Fin 8) (e : Entry) : (d.schedule l e).domainB = d.domainB := rfl

@[simp] theorem schedule_intake (d : Device) (l : Fin 8) (e : Entry) : (d.schedule l e).intake = d.intake := rfl

@[simp] theorem schedule_clips (d : Device) (l : Fin 8) (e : Entry) : (d.schedule l e).clips = d.clips := rfl

@[simp] theorem schedule_cue (d : Device) (l : Fin 8) (e : Entry) : (d.schedule l e).cue = d.cue := rfl

@[simp] theorem schedule_triggers (d : Device) (l : Fin 8) (e : Entry) : (d.schedule l e).triggers = d.triggers := rfl

@[simp] theorem schedule_markers (d : Device) (l : Fin 8) (e : Entry) : (d.schedule l e).markers = d.markers := rfl

@[simp] theorem schedule_meters (d : Device) (l : Fin 8) (e : Entry) : (d.schedule l e).meters = d.meters := rfl

@[simp] theorem schedule_notices (d : Device) (l : Fin 8) (e : Entry) : (d.schedule l e).notices = d.notices := rfl

@[simp] theorem schedule_store (d : Device) (l : Fin 8) (e : Entry) : (d.schedule l e).store = d.store := rfl

/-! ## unschedule -/

@[simp] theorem unschedule_now (d : Device) (l : Fin 8) (v : Fin 4) : (d.unschedule l v).now = d.now := rfl

@[simp] theorem unschedule_coldResets (d : Device) (l : Fin 8) (v : Fin 4) : (d.unschedule l v).coldResets = d.coldResets := rfl

@[simp] theorem unschedule_segments (d : Device) (l : Fin 8) (v : Fin 4) : (d.unschedule l v).segments = d.segments := rfl

@[simp] theorem unschedule_domainA (d : Device) (l : Fin 8) (v : Fin 4) : (d.unschedule l v).domainA = d.domainA := rfl

@[simp] theorem unschedule_domainB (d : Device) (l : Fin 8) (v : Fin 4) : (d.unschedule l v).domainB = d.domainB := rfl

@[simp] theorem unschedule_intake (d : Device) (l : Fin 8) (v : Fin 4) : (d.unschedule l v).intake = d.intake := rfl

@[simp] theorem unschedule_clips (d : Device) (l : Fin 8) (v : Fin 4) : (d.unschedule l v).clips = d.clips := rfl

@[simp] theorem unschedule_cue (d : Device) (l : Fin 8) (v : Fin 4) : (d.unschedule l v).cue = d.cue := rfl

@[simp] theorem unschedule_triggers (d : Device) (l : Fin 8) (v : Fin 4) : (d.unschedule l v).triggers = d.triggers := rfl

@[simp] theorem unschedule_markers (d : Device) (l : Fin 8) (v : Fin 4) : (d.unschedule l v).markers = d.markers := rfl

@[simp] theorem unschedule_meters (d : Device) (l : Fin 8) (v : Fin 4) : (d.unschedule l v).meters = d.meters := rfl

@[simp] theorem unschedule_notices (d : Device) (l : Fin 8) (v : Fin 4) : (d.unschedule l v).notices = d.notices := rfl

@[simp] theorem unschedule_store (d : Device) (l : Fin 8) (v : Fin 4) : (d.unschedule l v).store = d.store := rfl

/-! ## handNotice -/

@[simp] theorem handNotice_now (d : Device) (k : NoticeKind) (n : Nat) (a b : Byte) : (d.handNotice k n a b).now = d.now := rfl

@[simp] theorem handNotice_coldResets (d : Device) (k : NoticeKind) (n : Nat) (a b : Byte) : (d.handNotice k n a b).coldResets = d.coldResets := rfl

@[simp] theorem handNotice_segments (d : Device) (k : NoticeKind) (n : Nat) (a b : Byte) : (d.handNotice k n a b).segments = d.segments := rfl

@[simp] theorem handNotice_lanes (d : Device) (k : NoticeKind) (n : Nat) (a b : Byte) : (d.handNotice k n a b).lanes = d.lanes := rfl

@[simp] theorem handNotice_domainA (d : Device) (k : NoticeKind) (n : Nat) (a b : Byte) : (d.handNotice k n a b).domainA = d.domainA := rfl

@[simp] theorem handNotice_domainB (d : Device) (k : NoticeKind) (n : Nat) (a b : Byte) : (d.handNotice k n a b).domainB = d.domainB := rfl

@[simp] theorem handNotice_intake (d : Device) (k : NoticeKind) (n : Nat) (a b : Byte) : (d.handNotice k n a b).intake = d.intake := rfl

@[simp] theorem handNotice_clips (d : Device) (k : NoticeKind) (n : Nat) (a b : Byte) : (d.handNotice k n a b).clips = d.clips := rfl

@[simp] theorem handNotice_cue (d : Device) (k : NoticeKind) (n : Nat) (a b : Byte) : (d.handNotice k n a b).cue = d.cue := rfl

@[simp] theorem handNotice_triggers (d : Device) (k : NoticeKind) (n : Nat) (a b : Byte) : (d.handNotice k n a b).triggers = d.triggers := rfl

@[simp] theorem handNotice_markers (d : Device) (k : NoticeKind) (n : Nat) (a b : Byte) : (d.handNotice k n a b).markers = d.markers := rfl

@[simp] theorem handNotice_meters (d : Device) (k : NoticeKind) (n : Nat) (a b : Byte) : (d.handNotice k n a b).meters = d.meters := rfl

@[simp] theorem handNotice_store (d : Device) (k : NoticeKind) (n : Nat) (a b : Byte) : (d.handNotice k n a b).store = d.store := rfl

/-! ## cueFault -/

@[simp] theorem cueFault_now (d : Device) (n : Fin 256) (i : Nat) (r : Result) : (d.cueFault n i r).now = d.now := rfl

@[simp] theorem cueFault_coldResets (d : Device) (n : Fin 256) (i : Nat) (r : Result) : (d.cueFault n i r).coldResets = d.coldResets := rfl

@[simp] theorem cueFault_segments (d : Device) (n : Fin 256) (i : Nat) (r : Result) : (d.cueFault n i r).segments = d.segments := rfl

@[simp] theorem cueFault_lanes (d : Device) (n : Fin 256) (i : Nat) (r : Result) : (d.cueFault n i r).lanes = d.lanes := rfl

@[simp] theorem cueFault_domainA (d : Device) (n : Fin 256) (i : Nat) (r : Result) : (d.cueFault n i r).domainA = d.domainA := rfl

@[simp] theorem cueFault_domainB (d : Device) (n : Fin 256) (i : Nat) (r : Result) : (d.cueFault n i r).domainB = d.domainB := rfl

@[simp] theorem cueFault_intake (d : Device) (n : Fin 256) (i : Nat) (r : Result) : (d.cueFault n i r).intake = d.intake := rfl

@[simp] theorem cueFault_clips (d : Device) (n : Fin 256) (i : Nat) (r : Result) : (d.cueFault n i r).clips = d.clips := rfl

@[simp] theorem cueFault_cue (d : Device) (n : Fin 256) (i : Nat) (r : Result) : (d.cueFault n i r).cue = d.cue := rfl

@[simp] theorem cueFault_triggers (d : Device) (n : Fin 256) (i : Nat) (r : Result) : (d.cueFault n i r).triggers = d.triggers := rfl

@[simp] theorem cueFault_markers (d : Device) (n : Fin 256) (i : Nat) (r : Result) : (d.cueFault n i r).markers = d.markers := rfl

@[simp] theorem cueFault_meters (d : Device) (n : Fin 256) (i : Nat) (r : Result) : (d.cueFault n i r).meters = d.meters := rfl

@[simp] theorem cueFault_store (d : Device) (n : Fin 256) (i : Nat) (r : Result) : (d.cueFault n i r).store = d.store := rfl

/-! ## stepped -/

@[simp] theorem stepped_now (d : Device) (c : Context) (rest : List Context) : (d.stepped c rest).now = d.now := rfl

@[simp] theorem stepped_coldResets (d : Device) (c : Context) (rest : List Context) : (d.stepped c rest).coldResets = d.coldResets := rfl

@[simp] theorem stepped_segments (d : Device) (c : Context) (rest : List Context) : (d.stepped c rest).segments = d.segments := rfl

@[simp] theorem stepped_lanes (d : Device) (c : Context) (rest : List Context) : (d.stepped c rest).lanes = d.lanes := rfl

@[simp] theorem stepped_domainA (d : Device) (c : Context) (rest : List Context) : (d.stepped c rest).domainA = d.domainA := rfl

@[simp] theorem stepped_domainB (d : Device) (c : Context) (rest : List Context) : (d.stepped c rest).domainB = d.domainB := rfl

@[simp] theorem stepped_intake (d : Device) (c : Context) (rest : List Context) : (d.stepped c rest).intake = d.intake := rfl

@[simp] theorem stepped_clips (d : Device) (c : Context) (rest : List Context) : (d.stepped c rest).clips = d.clips := rfl

@[simp] theorem stepped_triggers (d : Device) (c : Context) (rest : List Context) : (d.stepped c rest).triggers = d.triggers := rfl

@[simp] theorem stepped_markers (d : Device) (c : Context) (rest : List Context) : (d.stepped c rest).markers = d.markers := rfl

@[simp] theorem stepped_meters (d : Device) (c : Context) (rest : List Context) : (d.stepped c rest).meters = d.meters := rfl

@[simp] theorem stepped_notices (d : Device) (c : Context) (rest : List Context) : (d.stepped c rest).notices = d.notices := rfl

@[simp] theorem stepped_store (d : Device) (c : Context) (rest : List Context) : (d.stepped c rest).store = d.store := rfl

/-! ## select -/

@[simp] theorem select_now (d : Device) : (d.select).now = d.now := rfl

@[simp] theorem select_coldResets (d : Device) : (d.select).coldResets = d.coldResets := rfl

@[simp] theorem select_segments (d : Device) : (d.select).segments = d.segments := rfl

@[simp] theorem select_lanes (d : Device) : (d.select).lanes = d.lanes := rfl

@[simp] theorem select_domainA (d : Device) : (d.select).domainA = d.domainA := rfl

@[simp] theorem select_domainB (d : Device) : (d.select).domainB = d.domainB := rfl

@[simp] theorem select_intake (d : Device) : (d.select).intake = d.intake := rfl

@[simp] theorem select_clips (d : Device) : (d.select).clips = d.clips := rfl

@[simp] theorem select_triggers (d : Device) : (d.select).triggers = d.triggers := rfl

@[simp] theorem select_markers (d : Device) : (d.select).markers = d.markers := rfl

@[simp] theorem select_meters (d : Device) : (d.select).meters = d.meters := rfl

@[simp] theorem select_notices (d : Device) : (d.select).notices = d.notices := rfl

@[simp] theorem select_store (d : Device) : (d.select).store = d.store := rfl

/-! ## wakeContexts -/

@[simp] theorem wakeContexts_now (d : Device) (l : Fin 8) (t : Nat) : (d.wakeContexts l t).now = d.now := rfl

@[simp] theorem wakeContexts_coldResets (d : Device) (l : Fin 8) (t : Nat) : (d.wakeContexts l t).coldResets = d.coldResets := rfl

@[simp] theorem wakeContexts_segments (d : Device) (l : Fin 8) (t : Nat) : (d.wakeContexts l t).segments = d.segments := rfl

@[simp] theorem wakeContexts_lanes (d : Device) (l : Fin 8) (t : Nat) : (d.wakeContexts l t).lanes = d.lanes := rfl

@[simp] theorem wakeContexts_domainA (d : Device) (l : Fin 8) (t : Nat) : (d.wakeContexts l t).domainA = d.domainA := rfl

@[simp] theorem wakeContexts_domainB (d : Device) (l : Fin 8) (t : Nat) : (d.wakeContexts l t).domainB = d.domainB := rfl

@[simp] theorem wakeContexts_intake (d : Device) (l : Fin 8) (t : Nat) : (d.wakeContexts l t).intake = d.intake := rfl

@[simp] theorem wakeContexts_clips (d : Device) (l : Fin 8) (t : Nat) : (d.wakeContexts l t).clips = d.clips := rfl

@[simp] theorem wakeContexts_triggers (d : Device) (l : Fin 8) (t : Nat) : (d.wakeContexts l t).triggers = d.triggers := rfl

@[simp] theorem wakeContexts_markers (d : Device) (l : Fin 8) (t : Nat) : (d.wakeContexts l t).markers = d.markers := rfl

@[simp] theorem wakeContexts_meters (d : Device) (l : Fin 8) (t : Nat) : (d.wakeContexts l t).meters = d.meters := rfl

@[simp] theorem wakeContexts_notices (d : Device) (l : Fin 8) (t : Nat) : (d.wakeContexts l t).notices = d.notices := rfl

@[simp] theorem wakeContexts_store (d : Device) (l : Fin 8) (t : Nat) : (d.wakeContexts l t).store = d.store := rfl

/-! ## freezeMarkers -/

@[simp] theorem freezeMarkers_now (d : Device) (l : Fin 8) : (d.freezeMarkers l).now = d.now := rfl

@[simp] theorem freezeMarkers_coldResets (d : Device) (l : Fin 8) : (d.freezeMarkers l).coldResets = d.coldResets := rfl

@[simp] theorem freezeMarkers_segments (d : Device) (l : Fin 8) : (d.freezeMarkers l).segments = d.segments := rfl

@[simp] theorem freezeMarkers_lanes (d : Device) (l : Fin 8) : (d.freezeMarkers l).lanes = d.lanes := rfl

@[simp] theorem freezeMarkers_domainA (d : Device) (l : Fin 8) : (d.freezeMarkers l).domainA = d.domainA := rfl

@[simp] theorem freezeMarkers_domainB (d : Device) (l : Fin 8) : (d.freezeMarkers l).domainB = d.domainB := rfl

@[simp] theorem freezeMarkers_intake (d : Device) (l : Fin 8) : (d.freezeMarkers l).intake = d.intake := rfl

@[simp] theorem freezeMarkers_clips (d : Device) (l : Fin 8) : (d.freezeMarkers l).clips = d.clips := rfl

@[simp] theorem freezeMarkers_cue (d : Device) (l : Fin 8) : (d.freezeMarkers l).cue = d.cue := rfl

@[simp] theorem freezeMarkers_triggers (d : Device) (l : Fin 8) : (d.freezeMarkers l).triggers = d.triggers := rfl

@[simp] theorem freezeMarkers_meters (d : Device) (l : Fin 8) : (d.freezeMarkers l).meters = d.meters := rfl

@[simp] theorem freezeMarkers_notices (d : Device) (l : Fin 8) : (d.freezeMarkers l).notices = d.notices := rfl

@[simp] theorem freezeMarkers_store (d : Device) (l : Fin 8) : (d.freezeMarkers l).store = d.store := rfl

/-! ## thawMarkers -/

@[simp] theorem thawMarkers_now (d : Device) (l : Fin 8) : (d.thawMarkers l).now = d.now := rfl

@[simp] theorem thawMarkers_coldResets (d : Device) (l : Fin 8) : (d.thawMarkers l).coldResets = d.coldResets := rfl

@[simp] theorem thawMarkers_segments (d : Device) (l : Fin 8) : (d.thawMarkers l).segments = d.segments := rfl

@[simp] theorem thawMarkers_lanes (d : Device) (l : Fin 8) : (d.thawMarkers l).lanes = d.lanes := rfl

@[simp] theorem thawMarkers_domainA (d : Device) (l : Fin 8) : (d.thawMarkers l).domainA = d.domainA := rfl

@[simp] theorem thawMarkers_domainB (d : Device) (l : Fin 8) : (d.thawMarkers l).domainB = d.domainB := rfl

@[simp] theorem thawMarkers_intake (d : Device) (l : Fin 8) : (d.thawMarkers l).intake = d.intake := rfl

@[simp] theorem thawMarkers_clips (d : Device) (l : Fin 8) : (d.thawMarkers l).clips = d.clips := rfl

@[simp] theorem thawMarkers_cue (d : Device) (l : Fin 8) : (d.thawMarkers l).cue = d.cue := rfl

@[simp] theorem thawMarkers_triggers (d : Device) (l : Fin 8) : (d.thawMarkers l).triggers = d.triggers := rfl

@[simp] theorem thawMarkers_meters (d : Device) (l : Fin 8) : (d.thawMarkers l).meters = d.meters := rfl

@[simp] theorem thawMarkers_notices (d : Device) (l : Fin 8) : (d.thawMarkers l).notices = d.notices := rfl

@[simp] theorem thawMarkers_store (d : Device) (l : Fin 8) : (d.thawMarkers l).store = d.store := rfl

/-! ## causePulse -/

@[simp] theorem causePulse_now (d : Device) (c : Condition) (t : Nat) : (d.causePulse c t).now = d.now := rfl

@[simp] theorem causePulse_coldResets (d : Device) (c : Condition) (t : Nat) : (d.causePulse c t).coldResets = d.coldResets := rfl

@[simp] theorem causePulse_segments (d : Device) (c : Condition) (t : Nat) : (d.causePulse c t).segments = d.segments := rfl

@[simp] theorem causePulse_lanes (d : Device) (c : Condition) (t : Nat) : (d.causePulse c t).lanes = d.lanes := rfl

@[simp] theorem causePulse_domainA (d : Device) (c : Condition) (t : Nat) : (d.causePulse c t).domainA = d.domainA := rfl

@[simp] theorem causePulse_domainB (d : Device) (c : Condition) (t : Nat) : (d.causePulse c t).domainB = d.domainB := rfl

@[simp] theorem causePulse_intake (d : Device) (c : Condition) (t : Nat) : (d.causePulse c t).intake = d.intake := rfl

@[simp] theorem causePulse_clips (d : Device) (c : Condition) (t : Nat) : (d.causePulse c t).clips = d.clips := rfl

@[simp] theorem causePulse_cue (d : Device) (c : Condition) (t : Nat) : (d.causePulse c t).cue = d.cue := rfl

@[simp] theorem causePulse_triggers (d : Device) (c : Condition) (t : Nat) : (d.causePulse c t).triggers = d.triggers := rfl

@[simp] theorem causePulse_meters (d : Device) (c : Condition) (t : Nat) : (d.causePulse c t).meters = d.meters := rfl

@[simp] theorem causePulse_notices (d : Device) (c : Condition) (t : Nat) : (d.causePulse c t).notices = d.notices := rfl

@[simp] theorem causePulse_store (d : Device) (c : Condition) (t : Nat) : (d.causePulse c t).store = d.store := rfl

/-! ## takeHot -/

@[simp] theorem takeHot_now (d : Device) (l : Fin 8) : (d.takeHot l).now = d.now := rfl

@[simp] theorem takeHot_coldResets (d : Device) (l : Fin 8) : (d.takeHot l).coldResets = d.coldResets := rfl

@[simp] theorem takeHot_segments (d : Device) (l : Fin 8) : (d.takeHot l).segments = d.segments := rfl

@[simp] theorem takeHot_domainA (d : Device) (l : Fin 8) : (d.takeHot l).domainA = d.domainA := rfl

@[simp] theorem takeHot_domainB (d : Device) (l : Fin 8) : (d.takeHot l).domainB = d.domainB := rfl

@[simp] theorem takeHot_intake (d : Device) (l : Fin 8) : (d.takeHot l).intake = d.intake := rfl

@[simp] theorem takeHot_clips (d : Device) (l : Fin 8) : (d.takeHot l).clips = d.clips := rfl

@[simp] theorem takeHot_cue (d : Device) (l : Fin 8) : (d.takeHot l).cue = d.cue := rfl

@[simp] theorem takeHot_triggers (d : Device) (l : Fin 8) : (d.takeHot l).triggers = d.triggers := rfl

@[simp] theorem takeHot_markers (d : Device) (l : Fin 8) : (d.takeHot l).markers = d.markers := rfl

@[simp] theorem takeHot_meters (d : Device) (l : Fin 8) : (d.takeHot l).meters = d.meters := rfl

@[simp] theorem takeHot_notices (d : Device) (l : Fin 8) : (d.takeHot l).notices = d.notices := rfl

@[simp] theorem takeHot_store (d : Device) (l : Fin 8) : (d.takeHot l).store = d.store := rfl

/-! ## shutSlot -/

@[simp] theorem shutSlot_now (d : Device) (n : Fin 16) (x : SlotState) (c : Option StreamCause) : (d.shutSlot n x c).now = d.now := rfl

@[simp] theorem shutSlot_coldResets (d : Device) (n : Fin 16) (x : SlotState) (c : Option StreamCause) : (d.shutSlot n x c).coldResets = d.coldResets := rfl

@[simp] theorem shutSlot_segments (d : Device) (n : Fin 16) (x : SlotState) (c : Option StreamCause) : (d.shutSlot n x c).segments = d.segments := rfl

@[simp] theorem shutSlot_lanes (d : Device) (n : Fin 16) (x : SlotState) (c : Option StreamCause) : (d.shutSlot n x c).lanes = d.lanes := rfl

@[simp] theorem shutSlot_domainA (d : Device) (n : Fin 16) (x : SlotState) (c : Option StreamCause) : (d.shutSlot n x c).domainA = d.domainA := rfl

@[simp] theorem shutSlot_domainB (d : Device) (n : Fin 16) (x : SlotState) (c : Option StreamCause) : (d.shutSlot n x c).domainB = d.domainB := rfl

@[simp] theorem shutSlot_clips (d : Device) (n : Fin 16) (x : SlotState) (c : Option StreamCause) : (d.shutSlot n x c).clips = d.clips := rfl

@[simp] theorem shutSlot_cue (d : Device) (n : Fin 16) (x : SlotState) (c : Option StreamCause) : (d.shutSlot n x c).cue = d.cue := rfl

@[simp] theorem shutSlot_triggers (d : Device) (n : Fin 16) (x : SlotState) (c : Option StreamCause) : (d.shutSlot n x c).triggers = d.triggers := rfl

@[simp] theorem shutSlot_markers (d : Device) (n : Fin 16) (x : SlotState) (c : Option StreamCause) : (d.shutSlot n x c).markers = d.markers := rfl

@[simp] theorem shutSlot_meters (d : Device) (n : Fin 16) (x : SlotState) (c : Option StreamCause) : (d.shutSlot n x c).meters = d.meters := rfl

@[simp] theorem shutSlot_notices (d : Device) (n : Fin 16) (x : SlotState) (c : Option StreamCause) : (d.shutSlot n x c).notices = d.notices := rfl

@[simp] theorem shutSlot_store (d : Device) (n : Fin 16) (x : SlotState) (c : Option StreamCause) : (d.shutSlot n x c).store = d.store := rfl

/-! ## bindReader -/

@[simp] theorem bindReader_now (d : Device) (n : Fin 16) (i : Nat) : (d.bindReader n i).now = d.now := rfl

@[simp] theorem bindReader_coldResets (d : Device) (n : Fin 16) (i : Nat) : (d.bindReader n i).coldResets = d.coldResets := rfl

@[simp] theorem bindReader_segments (d : Device) (n : Fin 16) (i : Nat) : (d.bindReader n i).segments = d.segments := rfl

@[simp] theorem bindReader_lanes (d : Device) (n : Fin 16) (i : Nat) : (d.bindReader n i).lanes = d.lanes := rfl

@[simp] theorem bindReader_domainA (d : Device) (n : Fin 16) (i : Nat) : (d.bindReader n i).domainA = d.domainA := rfl

@[simp] theorem bindReader_domainB (d : Device) (n : Fin 16) (i : Nat) : (d.bindReader n i).domainB = d.domainB := rfl

@[simp] theorem bindReader_clips (d : Device) (n : Fin 16) (i : Nat) : (d.bindReader n i).clips = d.clips := rfl

@[simp] theorem bindReader_cue (d : Device) (n : Fin 16) (i : Nat) : (d.bindReader n i).cue = d.cue := rfl

@[simp] theorem bindReader_triggers (d : Device) (n : Fin 16) (i : Nat) : (d.bindReader n i).triggers = d.triggers := rfl

@[simp] theorem bindReader_markers (d : Device) (n : Fin 16) (i : Nat) : (d.bindReader n i).markers = d.markers := rfl

@[simp] theorem bindReader_meters (d : Device) (n : Fin 16) (i : Nat) : (d.bindReader n i).meters = d.meters := rfl

@[simp] theorem bindReader_notices (d : Device) (n : Fin 16) (i : Nat) : (d.bindReader n i).notices = d.notices := rfl

@[simp] theorem bindReader_store (d : Device) (n : Fin 16) (i : Nat) : (d.bindReader n i).store = d.store := rfl

/-! ## armSource -/

@[simp] theorem armSource_now (d : Device) (k : Fin 126) (b : Bool) : (d.armSource k b).now = d.now := rfl

@[simp] theorem armSource_coldResets (d : Device) (k : Fin 126) (b : Bool) : (d.armSource k b).coldResets = d.coldResets := rfl

@[simp] theorem armSource_segments (d : Device) (k : Fin 126) (b : Bool) : (d.armSource k b).segments = d.segments := rfl

@[simp] theorem armSource_lanes (d : Device) (k : Fin 126) (b : Bool) : (d.armSource k b).lanes = d.lanes := rfl

@[simp] theorem armSource_domainA (d : Device) (k : Fin 126) (b : Bool) : (d.armSource k b).domainA = d.domainA := rfl

@[simp] theorem armSource_domainB (d : Device) (k : Fin 126) (b : Bool) : (d.armSource k b).domainB = d.domainB := rfl

@[simp] theorem armSource_intake (d : Device) (k : Fin 126) (b : Bool) : (d.armSource k b).intake = d.intake := rfl

@[simp] theorem armSource_clips (d : Device) (k : Fin 126) (b : Bool) : (d.armSource k b).clips = d.clips := rfl

@[simp] theorem armSource_triggers (d : Device) (k : Fin 126) (b : Bool) : (d.armSource k b).triggers = d.triggers := rfl

@[simp] theorem armSource_markers (d : Device) (k : Fin 126) (b : Bool) : (d.armSource k b).markers = d.markers := rfl

@[simp] theorem armSource_meters (d : Device) (k : Fin 126) (b : Bool) : (d.armSource k b).meters = d.meters := rfl

@[simp] theorem armSource_notices (d : Device) (k : Fin 126) (b : Bool) : (d.armSource k b).notices = d.notices := rfl

@[simp] theorem armSource_store (d : Device) (k : Fin 126) (b : Bool) : (d.armSource k b).store = d.store := rfl

end Sys2Proof.Machine
end

