-- ==== Sys2Proof/Laws/Tables.lean ====
section
/-!
SUPPORT. Reading a table after a write: the entry written, the other entries, and the records of the blocks by number.
-/
namespace Sys2Proof.Machine

theorem get_eq_getElem {α : Type} {n : Nat} (v : Vector α n) (i : Fin n) : v.get i = v[i.val] := rfl

@[simp] theorem get_put_same {α : Type} {n : Nat} (v : Vector α n) (i : Fin n) (x : α) : (put v i x).get i = x := by
  simp [put, get_eq_getElem]

theorem get_put_of_ne {α : Type} {n : Nat} (v : Vector α n) {i j : Fin n} (x : α) (h : j ≠ i) :
    (put v i x).get j = v.get j := by
  have h' : i.val ≠ j.val := fun e => h (Fin.ext e.symm)
  simp [put, get_eq_getElem, h']

theorem get_put {α : Type} {n : Nat} (v : Vector α n) (i j : Fin n) (x : α) :
    (put v i x).get j = if j = i then x else v.get j := by
  split
  · subst_vars; exact get_put_same v _ x
  · exact get_put_of_ne v x ‹_›

@[simp] theorem get_change_same {α : Type} {n : Nat} (v : Vector α n) (i : Fin n) (f : α → α) :
    (change v i f).get i = f (v.get i) := get_put_same ..

theorem get_change_of_ne {α : Type} {n : Nat} (v : Vector α n) {i j : Fin n} (f : α → α) (h : j ≠ i) :
    (change v i f).get j = v.get j := get_put_of_ne v _ h

@[simp] theorem get_replicate {α : Type} {n : Nat} (x : α) (i : Fin n) : (Vector.replicate n x).get i = x := by
  simp [get_eq_getElem]

@[simp] theorem get_ofFn {α : Type} {n : Nat} (f : Fin n → α) (i : Fin n) : (Vector.ofFn f).get i = f i := by
  simp [get_eq_getElem]

@[simp] theorem get_map {α β : Type} {n : Nat} (v : Vector α n) (f : α → β) (i : Fin n) :
    (v.map f).get i = f (v.get i) := by
  simp [get_eq_getElem]

/-- Writing back what stands there changes nothing. -/
@[simp] theorem put_get_self {α : Type} {n : Nat} (v : Vector α n) (i : Fin n) : put v i (v.get i) = v := by
  simp [put, get_eq_getElem]

/-! ## Lanes and voices -/

@[simp] theorem lane_setLane_same (d : Device) (l : Fin 8) (x : Lane) : (d.setLane l x).lane l = x := get_put_same ..

theorem lane_setLane_of_ne (d : Device) {l m : Fin 8} (x : Lane) (h : m ≠ l) : (d.setLane l x).lane m = d.lane m :=
  get_put_of_ne _ _ h

@[simp] theorem lane_updLane_same (d : Device) (l : Fin 8) (f : Lane → Lane) : (d.updLane l f).lane l = f (d.lane l) :=
  get_put_same ..

theorem lane_updLane_of_ne (d : Device) {l m : Fin 8} (f : Lane → Lane) (h : m ≠ l) :
    (d.updLane l f).lane m = d.lane m := get_put_of_ne _ _ h

@[simp] theorem voice_setVoice_same (d : Device) (l : Fin 8) (v : Fin 4) (x : Voice) :
    (d.setVoice l v x).voice l v = x := by
  simp [Device.voice, Device.setVoice]

theorem voice_setVoice_of_ne (d : Device) (l : Fin 8) {v w : Fin 4} (x : Voice) (h : w ≠ v) :
    (d.setVoice l v x).voice l w = d.voice l w := by
  simp [Device.voice, Device.setVoice, get_put_of_ne _ _ h]

theorem lane_setVoice_of_ne (d : Device) {l m : Fin 8} (v : Fin 4) (x : Voice) (h : m ≠ l) :
    (d.setVoice l v x).lane m = d.lane m := lane_updLane_of_ne d _ h

/-- A voice written changes its lane's voices alone. -/
theorem lane_setVoice_same (d : Device) (l : Fin 8) (v : Fin 4) (x : Voice) :
    (d.setVoice l v x).lane l = { d.lane l with voices := put (d.lane l).voices v x } := lane_updLane_same ..

@[simp] theorem voice_updVoice_same (d : Device) (l : Fin 8) (v : Fin 4) (f : Voice → Voice) :
    (d.updVoice l v f).voice l v = f (d.voice l v) := voice_setVoice_same ..

theorem lane_updVoice_of_ne (d : Device) {l m : Fin 8} (v : Fin 4) (f : Voice → Voice) (h : m ≠ l) :
    (d.updVoice l v f).lane m = d.lane m := lane_setVoice_of_ne d v _ h

/-- A voice written leaves every other voice. -/
theorem voice_updVoice_other (d : Device) (l : Fin 8) (v : Fin 4) (f : Voice → Voice) {m : Fin 8} {w : Fin 4}
    (h : m ≠ l ∨ w ≠ v) : (d.updVoice l v f).voice m w = d.voice m w := by
  by_cases hm : m = l
  · subst hm
    exact voice_setVoice_of_ne d _ _ (h.resolve_left (fun g => g rfl))
  · unfold Device.voice
    rw [lane_updVoice_of_ne d v f hm]

@[simp] theorem setLane_self (d : Device) (l : Fin 8) : d.setLane l (d.lane l) = d := by
  simp only [Device.setLane, Device.lane, put_get_self]

/-! ## Slots, meters, markers, domains -/

@[simp] theorem slot_setSlot_same (d : Device) (n : Fin 16) (x : Slot) : (d.setSlot n x).slot n = x := get_put_same ..

theorem slot_setSlot_of_ne (d : Device) {n m : Fin 16} (x : Slot) (h : m ≠ n) : (d.setSlot n x).slot m = d.slot m :=
  get_put_of_ne _ _ h

@[simp] theorem setSlot_pool (k : Intake) (n : Fin 16) (x : Slot) : (k.setSlot n x).pool = k.pool := rfl

@[simp] theorem setSlot_tags (k : Intake) (n : Fin 16) (x : Slot) : (k.setSlot n x).tags = k.tags := rfl

@[simp] theorem setSlot_outbox (k : Intake) (n : Fin 16) (x : Slot) : (k.setSlot n x).outbox = k.outbox := rfl

@[simp] theorem meter_setMeter_same (d : Device) (l : Fin 8) (x : Meter) : (d.setMeter l x).meter l = x :=
  get_put_same ..

theorem meter_setMeter_of_ne (d : Device) {l m : Fin 8} (x : Meter) (h : m ≠ l) :
    (d.setMeter l x).meter m = d.meter m := get_put_of_ne _ _ h

@[simp] theorem domain_setDomain_same (d : Device) (i : DomainId) (x : Domain) : (d.setDomain i x).domain i = x := by
  cases i <;> rfl

end Sys2Proof.Machine
end

