-- ==== Sys2Proof/Laws/Flags.lean ====
section
/-!
SUPPORT. Notices, events and selection: how far each can change the blocks, and the sizes they keep.
-/
namespace Sys2Proof.Machine

/-! ## The Notice Queue -/

/-- A notice taken keeps the queue within 32 entries (R195, R196). -/
theorem queueNotice_length (now : Nat) (k : NoticeKind) (n : Nat) (a b : Byte) (x : NoticeBox)
    (h : x.queue.length ≤ 32) : (queueNotice now k n a b x).queue.length ≤ 32 := by
  unfold queueNotice
  split
  · simpa using h
  · split
    · simp; omega
    · exact h

theorem takeNotice_length (now : Nat) (k : NoticeKind) (n : Nat) (a b : Byte) (x : NoticeBox)
    (h : x.queue.length ≤ 32) : (takeNotice now k n a b x).queue.length ≤ 32 := queueNotice_length now k n a b x h

/-! ## Selection (R129, R130) -/

theorem winner_stack {c : Cue} {k : Fin 126} (h : c.winner = some k) : c.stack.length < 4 := by
  unfold Cue.winner at h
  split at h
  · assumption
  · simp at h

theorem push_stack (c : Cue) (k : Fin 126) : (c.push k).stack.length ≤ c.stack.length + 1 := by
  unfold Cue.push
  split
  · omega
  · simp

theorem selectN_stack (fuel : Nat) (c : Cue) (h : c.stack.length ≤ 4) : (c.selectN fuel).stack.length ≤ 4 := by
  induction fuel generalizing c with
  | zero => exact h
  | succ fuel ih =>
    unfold Cue.selectN
    cases hw : c.winner with
    | none => exact h
    | some k =>
      have := winner_stack hw
      have := push_stack c k
      exact ih _ (by omega)

/-- Selection keeps the stack within 4 contexts (R128, R129). -/
theorem select_stack (c : Cue) (h : c.stack.length ≤ 4) : c.select.stack.length ≤ 4 := selectN_stack 4 c h

theorem push_same (c : Cue) (k : Fin 126) :
    (c.push k).threshold = c.threshold ∧ (c.push k).lists = c.lists ∧ (c.push k).actions = c.actions := by
  unfold Cue.push
  split <;> simp

theorem selectN_same (fuel : Nat) (c : Cue) :
    (c.selectN fuel).threshold = c.threshold ∧ (c.selectN fuel).lists = c.lists ∧
      (c.selectN fuel).actions = c.actions := by
  induction fuel generalizing c with
  | zero => simp [Cue.selectN]
  | succ fuel ih =>
    unfold Cue.selectN
    cases c.winner with
    | none => simp
    | some k =>
      obtain ⟨h1, h2, h3⟩ := ih (c.push k)
      obtain ⟨g1, g2, g3⟩ := push_same c k
      exact ⟨h1.trans g1, h2.trans g2, h3.trans g3⟩

@[simp] theorem select_threshold (c : Cue) : c.select.threshold = c.threshold := (selectN_same 4 c).1

@[simp] theorem select_lists (c : Cue) : c.select.lists = c.lists := (selectN_same 4 c).2.1

@[simp] theorem select_actions (c : Cue) : c.select.actions = c.actions := (selectN_same 4 c).2.2

/-- With no pending source there is no winner, and selection does nothing. -/
theorem winner_none (c : Cue) (h : ∀ k, c.pending.get k = none) : c.winner = none := by
  have hf : ∀ (l : List (Fin 126)) (b : Option (Fin 126 × Nat)), l.foldl (betterSource c) b = b := by
    intro l
    induction l with
    | nil => intro b; rfl
    | cons k ks ih => intro b; simp [List.foldl, betterSource, h, ih]
  unfold Cue.winner
  split
  · simp [hf]
  · rfl

theorem select_of_none_pending (c : Cue) (h : ∀ k, c.pending.get k = none) : c.select = c := by
  simp [Cue.select, Cue.selectN, winner_none c h]

theorem mark_stack (c : Cue) (k : Fin 126) (n : Nat) (l : Fin 256) (x : Byte) (h : c.stack.length ≤ 4) :
    (c.mark k n l x).stack.length ≤ 4 := by
  unfold Cue.mark
  split
  · exact select_stack _ h
  · exact h

@[simp] theorem mark_threshold (c : Cue) (k : Fin 126) (n : Nat) (l : Fin 256) (x : Byte) :
    (c.mark k n l x).threshold = c.threshold := by
  unfold Cue.mark
  split <;> simp

@[simp] theorem mark_lists (c : Cue) (k : Fin 126) (n : Nat) (l : Fin 256) (x : Byte) :
    (c.mark k n l x).lists = c.lists := by
  unfold Cue.mark
  split <;> simp

@[simp] theorem mark_actions (c : Cue) (k : Fin 126) (n : Nat) (l : Fin 256) (x : Byte) :
    (c.mark k n l x).actions = c.actions := by
  unfold Cue.mark
  split <;> simp

/-! ## An event changes the Cue Engine and the Notice Queue alone (R122) -/

@[simp] theorem raise_now (d : Device) (k : Fin 126) (x : Byte) : (d.raise k x).now = d.now := by
  unfold Device.raise
  dsimp only
  split <;> split <;> (try split) <;> rfl

@[simp] theorem raise_coldResets (d : Device) (k : Fin 126) (x : Byte) : (d.raise k x).coldResets = d.coldResets := by
  unfold Device.raise
  dsimp only
  split <;> split <;> (try split) <;> rfl

@[simp] theorem raise_segments (d : Device) (k : Fin 126) (x : Byte) : (d.raise k x).segments = d.segments := by
  unfold Device.raise
  dsimp only
  split <;> split <;> (try split) <;> rfl

@[simp] theorem raise_lanes (d : Device) (k : Fin 126) (x : Byte) : (d.raise k x).lanes = d.lanes := by
  unfold Device.raise
  dsimp only
  split <;> split <;> (try split) <;> rfl

@[simp] theorem raise_domainA (d : Device) (k : Fin 126) (x : Byte) : (d.raise k x).domainA = d.domainA := by
  unfold Device.raise
  dsimp only
  split <;> split <;> (try split) <;> rfl

@[simp] theorem raise_domainB (d : Device) (k : Fin 126) (x : Byte) : (d.raise k x).domainB = d.domainB := by
  unfold Device.raise
  dsimp only
  split <;> split <;> (try split) <;> rfl

@[simp] theorem raise_intake (d : Device) (k : Fin 126) (x : Byte) : (d.raise k x).intake = d.intake := by
  unfold Device.raise
  dsimp only
  split <;> split <;> (try split) <;> rfl

@[simp] theorem raise_clips (d : Device) (k : Fin 126) (x : Byte) : (d.raise k x).clips = d.clips := by
  unfold Device.raise
  dsimp only
  split <;> split <;> (try split) <;> rfl

@[simp] theorem raise_triggers (d : Device) (k : Fin 126) (x : Byte) : (d.raise k x).triggers = d.triggers := by
  unfold Device.raise
  dsimp only
  split <;> split <;> (try split) <;> rfl

@[simp] theorem raise_markers (d : Device) (k : Fin 126) (x : Byte) : (d.raise k x).markers = d.markers := by
  unfold Device.raise
  dsimp only
  split <;> split <;> (try split) <;> rfl

@[simp] theorem raise_meters (d : Device) (k : Fin 126) (x : Byte) : (d.raise k x).meters = d.meters := by
  unfold Device.raise
  dsimp only
  split <;> split <;> (try split) <;> rfl

@[simp] theorem raise_store (d : Device) (k : Fin 126) (x : Byte) : (d.raise k x).store = d.store := by
  unfold Device.raise
  dsimp only
  split <;> split <;> (try split) <;> rfl

@[simp] theorem raiseAll_now (d : Device) (es : List (Fin 126 × Byte)) : (d.raiseAll es).now = d.now := by
  unfold Device.raiseAll
  induction es generalizing d with
  | nil => rfl
  | cons e es ih => simp [List.foldl, ih]

@[simp] theorem raiseAll_coldResets (d : Device) (es : List (Fin 126 × Byte)) : (d.raiseAll es).coldResets = d.coldResets := by
  unfold Device.raiseAll
  induction es generalizing d with
  | nil => rfl
  | cons e es ih => simp [List.foldl, ih]

@[simp] theorem raiseAll_segments (d : Device) (es : List (Fin 126 × Byte)) : (d.raiseAll es).segments = d.segments := by
  unfold Device.raiseAll
  induction es generalizing d with
  | nil => rfl
  | cons e es ih => simp [List.foldl, ih]

@[simp] theorem raiseAll_lanes (d : Device) (es : List (Fin 126 × Byte)) : (d.raiseAll es).lanes = d.lanes := by
  unfold Device.raiseAll
  induction es generalizing d with
  | nil => rfl
  | cons e es ih => simp [List.foldl, ih]

@[simp] theorem raiseAll_domainA (d : Device) (es : List (Fin 126 × Byte)) : (d.raiseAll es).domainA = d.domainA := by
  unfold Device.raiseAll
  induction es generalizing d with
  | nil => rfl
  | cons e es ih => simp [List.foldl, ih]

@[simp] theorem raiseAll_domainB (d : Device) (es : List (Fin 126 × Byte)) : (d.raiseAll es).domainB = d.domainB := by
  unfold Device.raiseAll
  induction es generalizing d with
  | nil => rfl
  | cons e es ih => simp [List.foldl, ih]

@[simp] theorem raiseAll_intake (d : Device) (es : List (Fin 126 × Byte)) : (d.raiseAll es).intake = d.intake := by
  unfold Device.raiseAll
  induction es generalizing d with
  | nil => rfl
  | cons e es ih => simp [List.foldl, ih]

@[simp] theorem raiseAll_clips (d : Device) (es : List (Fin 126 × Byte)) : (d.raiseAll es).clips = d.clips := by
  unfold Device.raiseAll
  induction es generalizing d with
  | nil => rfl
  | cons e es ih => simp [List.foldl, ih]

@[simp] theorem raiseAll_triggers (d : Device) (es : List (Fin 126 × Byte)) : (d.raiseAll es).triggers = d.triggers := by
  unfold Device.raiseAll
  induction es generalizing d with
  | nil => rfl
  | cons e es ih => simp [List.foldl, ih]

@[simp] theorem raiseAll_markers (d : Device) (es : List (Fin 126 × Byte)) : (d.raiseAll es).markers = d.markers := by
  unfold Device.raiseAll
  induction es generalizing d with
  | nil => rfl
  | cons e es ih => simp [List.foldl, ih]

@[simp] theorem raiseAll_meters (d : Device) (es : List (Fin 126 × Byte)) : (d.raiseAll es).meters = d.meters := by
  unfold Device.raiseAll
  induction es generalizing d with
  | nil => rfl
  | cons e es ih => simp [List.foldl, ih]

@[simp] theorem raiseAll_store (d : Device) (es : List (Fin 126 × Byte)) : (d.raiseAll es).store = d.store := by
  unfold Device.raiseAll
  induction es generalizing d with
  | nil => rfl
  | cons e es ih => simp [List.foldl, ih]

/-! ## The sizes that the Cue Engine and the Notice Queue keep -/

/-- The blocks' own sizes: 32 notices (R195), 4 contexts (R128), threshold 0 to 7 (R132). -/
def Device.sized (d : Device) : Prop :=
  d.notices.queue.length ≤ 32 ∧ d.cue.stack.length ≤ 4 ∧ d.cue.threshold ≤ 7

theorem sized_of_same {d e : Device} (h : d.sized) (hn : e.notices = d.notices) (hc : e.cue = d.cue) : e.sized := by
  unfold Device.sized; rw [hn, hc]; exact h

theorem sized_handNotice {d : Device} (h : d.sized) (k : NoticeKind) (n : Nat) (a b : Byte) :
    (d.handNotice k n a b).sized :=
  ⟨takeNotice_length _ _ _ _ _ _ h.1, h.2.1, h.2.2⟩

theorem sized_cueFault {d : Device} (h : d.sized) (l : Fin 256) (i : Nat) (r : Result) : (d.cueFault l i r).sized :=
  sized_handNotice h _ _ _ _

theorem sized_select {d : Device} (h : d.sized) : d.select.sized :=
  ⟨h.1, select_stack _ h.2.1, by simpa [Device.select] using h.2.2⟩

theorem sized_raise {d : Device} (h : d.sized) (k : Fin 126) (x : Byte) : (d.raise k x).sized := by
  unfold Device.raise
  dsimp only
  have hd : (if (d.cue.map.get k).notice = true then
      d.handNotice .event k.val (BitVec.ofNat 8 (d.cue.map.get k).effective) x else d).sized := by
    split
    · exact sized_handNotice h _ _ _ _
    · exact h
  split
  · exact hd
  · split
    · exact ⟨hd.1, mark_stack _ _ _ _ _ hd.2.1, by simpa using hd.2.2⟩
    · exact hd

theorem sized_raiseAll {d : Device} (h : d.sized) (es : List (Fin 126 × Byte)) : (d.raiseAll es).sized := by
  unfold Device.raiseAll
  induction es generalizing d with
  | nil => exact h
  | cons e es ih => exact ih (sized_raise h _ _)

end Sys2Proof.Machine
end

