-- ==== Sys2Proof/Laws/Pool.lean ====
section
/-!
SUPPORT. The Cell Pool's account (R76): each operation of the Stream Intake keeps the free buffers and the buffers held by
the slots together at 4096.
-/
namespace Sys2Proof.Machine

theorem sum_map_set {α : Type} (f : α → Nat) (xs : List α) (i : Nat) (x : α) (h : i < xs.length) :
    ((xs.set i x).map f).sum + f xs[i] = (xs.map f).sum + f x := by
  induction xs generalizing i with
  | nil => simp at h
  | cons y ys ih =>
    cases i with
    | zero => simp; omega
    | succ i =>
      have := ih i (by simpa using h)
      simp only [List.set_cons_succ, List.map_cons, List.sum_cons, List.getElem_cons_succ]
      omega

theorem sum_map_put {α : Type} {n : Nat} (f : α → Nat) (v : Vector α n) (i : Fin n) (x : α) :
    ((put v i x).toList.map f).sum + f (v.get i) = (v.toList.map f).sum + f x := by
  have h := sum_map_set f v.toList i.val x (by simp)
  have hs : (put v i x).toList = v.toList.set i.val x := by simp [put, Vector.toList]
  rw [hs]
  simpa only [get_eq_getElem, Vector.getElem_toList] using h

/-- What the account says of one slot: a slot that is not open has an empty queue. -/
def Slot.shutEmpty (x : Slot) : Prop := x.isOpen = false → x.queue = []

/-- The account with `m` buffers on their way between a slot and the pool. -/
def Intake.owes (k : Intake) (m : Nat) : Prop :=
  k.pool.free + (k.slots.toList.map Slot.held).sum + m = 4096 ∧ ∀ n : Fin 16, (k.slots.get n).shutEmpty

theorem accounted_iff_owes (k : Intake) : k.accounted ↔ k.owes 0 := Iff.rfl

/-- A slot replaced by one that holds `j` buffers less owes them to the pool. -/
theorem owes_setSlot {k : Intake} {m j : Nat} (h : k.owes m) (n : Fin 16) (x : Slot) (hx : x.shutEmpty)
    (hj : x.held + j = (k.slots.get n).held) : (k.setSlot n x).owes (m + j) := by
  refine ⟨?_, ?_⟩
  · have := sum_map_put Slot.held k.slots n x
    have := h.1
    simp only [Intake.setSlot]
    omega
  · intro i
    simp only [Intake.setSlot, get_put]
    split
    · exact hx
    · exact h.2 i

/-- A slot replaced by one that holds as many buffers keeps the account. -/
theorem owes_setSlot_same {k : Intake} {m : Nat} (h : k.owes m) (n : Fin 16) (x : Slot) (hx : x.shutEmpty)
    (hj : x.held = (k.slots.get n).held) : (k.setSlot n x).owes m := owes_setSlot (j := 0) h n x hx (by omega)

theorem owes_queueFlow {k : Intake} {m : Nat} (h : k.owes m) (e : FlowEntry) : (k.queueFlow e).owes m := h

theorem owes_slotFlowTest {k : Intake} {m : Nat} (h : k.owes m) (n : Fin 16) : (k.slotFlowTest n).owes m := by
  unfold Intake.slotFlowTest
  dsimp only
  split
  · exact owes_queueFlow (owes_setSlot_same h n { k.slots.get n with hold := true } (h.2 n) rfl) _
  · split
    · exact owes_queueFlow (owes_setSlot_same h n { k.slots.get n with hold := false } (h.2 n) rfl) _
    · exact h

theorem owes_poolFlowTest {k : Intake} {m : Nat} (h : k.owes m) : k.poolFlowTest.owes m := by
  unfold Intake.poolFlowTest
  split
  · exact h
  · split
    · exact h
    · exact h

/-- Buffers owed are returned. -/
theorem owes_freeBuffers {k : Intake} {m : Nat} (h : k.owes m) : (k.freeBuffers m).owes 0 := by
  unfold Intake.freeBuffers
  split
  · subst_vars; exact h
  · apply owes_poolFlowTest
    refine ⟨?_, h.2⟩
    have := h.1
    simp only
    omega

/-- A slot shut returns all it holds. -/
theorem owes_shut {k : Intake} (h : k.owes 0) (n : Fin 16) (s : SlotState) (c : Option StreamCause) :
    (k.shut n s c).owes 0 := by
  unfold Intake.shut
  dsimp only
  apply owes_freeBuffers
  have g : (k.setSlot n ((k.slots.get n).shut s c)).owes (k.slots.get n).held := by
    have := owes_setSlot (j := (k.slots.get n).held) h n ((k.slots.get n).shut s c) (fun _ => rfl)
      (by simp [Slot.shut, Slot.held])
    simpa using this
  split
  · exact owes_queueFlow g _
  · exact g

/-! ## The head -/

theorem held_dropBehind (h : Seq) (n : Nat) (q : List QueueEntry) :
    ((dropBehind h n q).filter QueueEntry.isData).length ≤ (q.filter QueueEntry.isData).length := by
  induction q with
  | nil => simp [dropBehind]
  | cons e q ih =>
    cases e with
    | data p xs =>
      have hd : ((QueueEntry.data p xs :: q).filter QueueEntry.isData).length =
          (q.filter QueueEntry.isData).length + 1 := by simp [List.filter, QueueEntry.isData]
      unfold dropBehind
      split
      · omega
      · exact Nat.le_refl _
    | void f c =>
      have hd : ∀ f c, ((QueueEntry.void f c :: q).filter QueueEntry.isData).length =
          (q.filter QueueEntry.isData).length := by intro f c; simp [List.filter, QueueEntry.isData]
      unfold dropBehind
      dsimp only
      split
      · rw [hd]; exact ih
      · split
        · exact Nat.le_of_eq (by rw [hd, hd])
        · exact Nat.le_refl _

theorem held_recompute (x : Slot) : x.recompute.held ≤ x.held := by
  unfold Slot.recompute
  split
  · exact Nat.le_refl _
  · unfold Slot.moveHead
    split
    · simp [Slot.held]
    · exact held_dropBehind ..

theorem recompute_state (x : Slot) : x.recompute.state = x.state := by
  unfold Slot.recompute
  split
  · rfl
  · unfold Slot.moveHead
    split <;> rfl

theorem shutEmpty_recompute {x : Slot} (h : x.shutEmpty) : x.recompute.shutEmpty := by
  intro ho
  have : x.queue = [] := h (by simpa [Slot.isOpen, recompute_state] using ho)
  unfold Slot.recompute
  split
  · exact this
  · unfold Slot.moveHead
    split
    · rfl
    · simp [this, dropBehind]

/-- The head moved after a hand-off or a release: what the slot lets go is freed. -/
theorem owes_settle {k : Intake} (h : k.owes 0) (n : Fin 16) :
    let y := (k.slots.get n).recompute
    let k' := k.setSlot n y
    let k' := if y.held = (k.slots.get n).held then k' else k'.slotFlowTest n
    (k'.freeBuffers ((k.slots.get n).held - y.held)).owes 0 := by
  dsimp only
  apply owes_freeBuffers
  have hle := held_recompute (k.slots.get n)
  have g : (k.setSlot n (k.slots.get n).recompute).owes ((k.slots.get n).held - (k.slots.get n).recompute.held) := by
    have := owes_setSlot (j := (k.slots.get n).held - (k.slots.get n).recompute.held) h n _
      (shutEmpty_recompute (h.2 n)) (by omega)
    simpa using this
  split
  · exact g
  · exact owes_slotFlowTest g n

end Sys2Proof.Machine
end

