-- ==== Sys2Proof/Laws/Playback.lean ====
section
/-!
SUPPORT. What playing a lane can change: the lanes, the Stream Intake, the Cue Engine, the notices, the markers and the
meters, within their sizes. Each shared operation of a lane, and of a slot has its one lemma.
-/
namespace Sys2Proof.Machine

/-- No subject waits twice in the flow outbox (R97). -/
def Intake.distinct (k : Intake) : Prop := (k.outbox.map FlowEntry.subject).Nodup

/-- From `d` to `e` playback went on: nothing outside playback changed, and the sizes are kept. -/
structure Device.Plays (d e : Device) : Prop where
  sized      : d.sized → e.sized
  distinct   : d.intake.distinct → e.intake.distinct
  pool       : d.intake.owes 0 → e.intake.owes 0
  now        : e.now = d.now
  coldResets : e.coldResets = d.coldResets
  segments   : e.segments = d.segments
  domainA    : e.domainA = d.domainA
  domainB    : e.domainB = d.domainB
  clips      : e.clips = d.clips
  triggers   : e.triggers = d.triggers
  store      : e.store = d.store

theorem Device.Plays.refl (d : Device) : d.Plays d := ⟨id, id, id, rfl, rfl, rfl, rfl, rfl, rfl, rfl, rfl⟩

theorem Device.Plays.trans {a b c : Device} (h : a.Plays b) (g : b.Plays c) : a.Plays c :=
  ⟨g.sized ∘ h.sized, g.distinct ∘ h.distinct, g.pool ∘ h.pool, g.now.trans h.now, g.coldResets.trans h.coldResets,
   g.segments.trans h.segments, g.domainA.trans h.domainA, g.domainB.trans h.domainB, g.clips.trans h.clips,
   g.triggers.trans h.triggers, g.store.trans h.store⟩

/-- A change of lanes, markers and meters alone. -/
theorem plays_of_lanes {d e : Device}
    (h : e = { d with lanes := e.lanes, markers := e.markers, meters := e.meters }) : d.Plays e := by
  rw [h]; exact ⟨id, id, id, rfl, rfl, rfl, rfl, rfl, rfl, rfl, rfl⟩

/-- A change of the Stream Intake alone that keeps the outbox distinct and the pool's account. -/
theorem plays_of_intake {d : Device} (k : Intake) (h : d.intake.distinct → k.distinct)
    (g : d.intake.owes 0 → k.owes 0) : d.Plays { d with intake := k } :=
  ⟨id, h, g, rfl, rfl, rfl, rfl, rfl, rfl, rfl, rfl⟩

theorem plays_raise (d : Device) (k : Fin 126) (x : Byte) : d.Plays (d.raise k x) :=
  ⟨fun h => sized_raise h k x, by simp, by simp, by simp, by simp, by simp, by simp, by simp, by simp, by simp, by simp⟩

theorem plays_raiseAll (d : Device) (es : List (Fin 126 × Byte)) : d.Plays (d.raiseAll es) :=
  ⟨fun h => sized_raiseAll h es, by simp, by simp, by simp, by simp, by simp, by simp, by simp, by simp, by simp, by simp⟩

theorem plays_updLane (d : Device) (l : Fin 8) (f : Lane → Lane) : d.Plays (d.updLane l f) := plays_of_lanes rfl

theorem plays_setLane (d : Device) (l : Fin 8) (x : Lane) : d.Plays (d.setLane l x) := plays_of_lanes rfl

theorem plays_updVoice (d : Device) (l : Fin 8) (v : Fin 4) (f : Voice → Voice) : d.Plays (d.updVoice l v f) :=
  plays_of_lanes rfl

theorem plays_setVoice (d : Device) (l : Fin 8) (v : Fin 4) (x : Voice) : d.Plays (d.setVoice l v x) :=
  plays_of_lanes rfl

theorem plays_setMeter (d : Device) (l : Fin 8) (x : Meter) : d.Plays (d.setMeter l x) := plays_of_lanes rfl

/-- A slot written that holds as many buffers as before, and is empty if it is shut. -/
theorem plays_setSlot (d : Device) (n : Fin 16) (x : Slot) (hs : (d.slot n).shutEmpty → x.shutEmpty)
    (hh : x.held = (d.slot n).held) : d.Plays (d.setSlot n x) :=
  plays_of_intake _ id fun g => owes_setSlot_same g n x (hs (g.2 n)) hh

/-- A fold of operations that each play on. -/
theorem plays_foldl {α : Type} (f : Device → α → Device) (h : ∀ (d : Device) x, d.Plays (f d x)) (xs : List α) (d : Device) :
    d.Plays (xs.foldl f d) := by
  induction xs generalizing d with
  | nil => exact .refl d
  | cons x xs ih => exact (h d x).trans (ih _)

/-! ## The Stream Intake -/

theorem distinct_queueFlow {k : Intake} (h : k.distinct) (e : FlowEntry) : (k.queueFlow e).distinct := by
  unfold Intake.distinct Intake.queueFlow placeFlow at *
  split
  · have : (k.outbox.map fun x => if x.subject = e.subject then e else x).map FlowEntry.subject =
        k.outbox.map FlowEntry.subject := by
      rw [List.map_map]
      apply List.map_congr_left
      intro x _
      simp only [Function.comp_apply]
      split
      · exact (‹x.subject = e.subject›).symm
      · rfl
    rw [this]; exact h
  · rename_i hn
    simp only [List.map_append, List.map_cons, List.map_nil]
    rw [List.nodup_append]
    refine ⟨h, by simp, ?_⟩
    intro a ha b hb
    simp only [List.mem_singleton] at hb
    subst hb
    intro hab
    apply hn
    simp only [List.mem_map] at ha
    obtain ⟨x, hx, rfl⟩ := ha
    simp only [List.any_eq_true, decide_eq_true_eq]
    exact ⟨x, hx, hab⟩

theorem distinct_slotFlowTest {k : Intake} (h : k.distinct) (n : Fin 16) : (k.slotFlowTest n).distinct := by
  unfold Intake.slotFlowTest
  dsimp only
  split
  · exact distinct_queueFlow h _
  · split
    · exact distinct_queueFlow h _
    · exact h

theorem distinct_poolFlowTest {k : Intake} (h : k.distinct) : k.poolFlowTest.distinct := by
  unfold Intake.poolFlowTest
  split
  · exact distinct_queueFlow (k := { k with pool := { k.pool with hold := true } }) h _
  · split
    · exact distinct_queueFlow (k := { k with pool := { k.pool with hold := false } }) h _
    · exact h

theorem distinct_freeBuffers {k : Intake} (h : k.distinct) (n : Nat) : (k.freeBuffers n).distinct := by
  unfold Intake.freeBuffers
  split
  · exact h
  · exact distinct_poolFlowTest (k := { k with pool := { k.pool with free := k.pool.free + n } }) h

theorem distinct_shut {k : Intake} (h : k.distinct) (n : Fin 16) (x : SlotState) (c : Option StreamCause) :
    (k.shut n x c).distinct := by
  unfold Intake.shut
  dsimp only
  apply distinct_freeBuffers
  split
  · exact distinct_queueFlow h _
  · exact h

theorem plays_shutSlot (d : Device) (n : Fin 16) (x : SlotState) (c : Option StreamCause) :
    d.Plays (d.shutSlot n x c) := plays_of_intake _ (fun h => distinct_shut h n x c) fun g => owes_shut g n x c

theorem plays_endTest (d : Device) (n : Fin 16) : d.Plays (d.endTest n) := by
  unfold Device.endTest
  dsimp only
  split
  · exact (plays_shutSlot ..).trans (plays_raise ..)
  · exact .refl d

theorem plays_settleSlot (d : Device) (n : Fin 16) : d.Plays (d.settleSlot n) := by
  unfold Device.settleSlot
  dsimp only [Device.slot]
  generalize hk : Intake.freeBuffers _ _ = k
  refine (plays_of_intake k ?_ ?_).trans (plays_endTest ..)
  · intro h
    rw [← hk]
    apply distinct_freeBuffers
    split
    · exact h
    · exact distinct_slotFlowTest (k := d.intake.setSlot n (d.intake.slots.get n).recompute) h _
  · intro g
    rw [← hk]
    exact owes_settle g n

theorem plays_releaseReader (d : Device) (n : Fin 16) (i : Nat) : d.Plays (d.releaseReader n i) := by
  unfold Device.releaseReader
  split
  · exact .refl d
  · rename_i r _
    exact (plays_setSlot d n ((d.slot n).leave r) (fun h => h) rfl).trans (plays_settleSlot _ n)

theorem plays_bindReader (d : Device) (n : Fin 16) (i : Nat) : d.Plays (d.bindReader n i) :=
  plays_setSlot d n ((d.slot n).rehold i false) (fun h => h) rfl

/-! ## Markers, ends and cancelled starts -/

theorem plays_freezeLane (d : Device) (l : Fin 8) : d.Plays (d.freezeLane l) := plays_of_lanes rfl

theorem plays_thawMarkers (d : Device) (l : Fin 8) : d.Plays (d.thawMarkers l) := plays_of_lanes rfl

theorem plays_stopMarkers (d : Device) (l : Fin 8) : d.Plays (d.stopMarkers l) := by
  unfold Device.stopMarkers
  dsimp only
  split
  · exact plays_of_lanes rfl
  · exact plays_of_lanes rfl

theorem plays_releaseBinding (d : Device) (l : Fin 8) (v : Fin 4) : d.Plays (d.releaseBinding l v) := by
  unfold Device.releaseBinding
  split
  · exact plays_releaseReader ..
  · exact .refl d
  · exact .refl d

theorem plays_endSegment (d : Device) (l : Fin 8) (v : Fin 4) (c : EndCause) : d.Plays (d.endSegment l v c) := by
  unfold Device.endSegment
  dsimp only
  split
  · split
    · exact ((plays_releaseBinding ..).trans (plays_updVoice ..)).trans (plays_raiseAll ..)
    · exact (plays_releaseBinding ..).trans (plays_updVoice ..)
  · split
    · exact plays_setVoice ..
    · exact .refl d

theorem plays_releaseClaim (d : Device) (p : PendingStart) : d.Plays (d.releaseClaim p) := by
  unfold Device.releaseClaim
  split
  · exact .refl d
  · exact plays_releaseReader ..

theorem plays_unschedule (d : Device) (l : Fin 8) (v : Fin 4) : d.Plays (d.unschedule l v) := plays_of_lanes rfl

theorem plays_cancelStart (d : Device) (l : Fin 8) (v : Fin 4) (c : EndCause) : d.Plays (d.cancelStart l v c) := by
  unfold Device.cancelStart
  split
  · exact .refl d
  · exact (((plays_unschedule ..).trans (plays_releaseClaim ..)).trans (plays_updVoice ..)).trans (plays_raiseAll ..)

theorem plays_endSlotVoices (d : Device) (n : Fin 16) (c : EndCause) : d.Plays (d.endSlotVoices n c) := by
  unfold Device.endSlotVoices
  apply plays_foldl
  intro d x
  dsimp only
  generalize hE : (if (d.voice x.1 x.2).reads n = true then d.endSegment x.1 x.2 c else d) = e
  have h : d.Plays e := by
    rw [← hE]
    split
    · exact plays_endSegment ..
    · exact .refl d
  split
  · exact h.trans (plays_cancelStart ..)
  · exact h

theorem plays_breakSlot (d : Device) (n : Fin 16) : d.Plays (d.breakSlot n) := by
  unfold Device.breakSlot
  exact ((plays_shutSlot ..).trans (plays_endSlotVoices ..)).trans (plays_raise ..)

/-! ## Meters and contexts -/

theorem plays_windowEnd (d : Device) (l : Fin 8) (x : Meter) : d.Plays (d.windowEnd l x) := by
  unfold Device.windowEnd
  split
  · exact plays_setMeter ..
  · exact plays_setMeter ..
  · exact (plays_setMeter ..).trans (plays_raiseAll ..)

theorem plays_meterBlock (d : Device) (l : Fin 8) (ps : List Val) : d.Plays (d.meterBlock l ps) := by
  unfold Device.meterBlock
  dsimp only
  split
  · exact .refl d
  · split
    · exact plays_windowEnd ..
    · exact plays_setMeter ..

theorem plays_wakeContexts (d : Device) (l : Fin 8) (t : Nat) : d.Plays (d.wakeContexts l t) :=
  ⟨fun h => ⟨h.1, by simpa [Device.wakeContexts] using h.2.1, h.2.2⟩, id, id, rfl, rfl, rfl, rfl, rfl, rfl, rfl, rfl⟩

theorem lowestWaiting_length {l : Fin 8} {cs : List Context} {c : Context} {rest : List Context}
    (h : lowestWaiting l cs = some (c, rest)) : cs.length = rest.length + 1 := by
  induction cs generalizing c rest with
  | nil => simp [lowestWaiting] at h
  | cons x xs ih =>
    unfold lowestWaiting at h
    split at h
    · rename_i y ys hy
      simp only [Option.some.injEq, Prod.mk.injEq] at h
      obtain ⟨rfl, rfl⟩ := h
      have := ih hy
      simp [this]
    · split at h
      · simp only [Option.some.injEq, Prod.mk.injEq] at h
        obtain ⟨-, rfl⟩ := h
        simp
      · cases h

/-- A context aborted: the contexts left are no more than before (R145). -/
theorem plays_abortContext (d : Device) (c : Context) (rest : List Context)
    (h : rest.length ≤ d.cue.stack.length) : d.Plays (d.abortContext c rest) :=
  ⟨fun g => sized_select (sized_cueFault (d := { d with cue := { d.cue with stack := rest } })
      ⟨g.1, Nat.le_trans h g.2.1, g.2.2⟩ _ _ _),
   id, id, rfl, rfl, rfl, rfl, rfl, rfl, rfl, rfl⟩

theorem plays_abortWaiting (fuel : Nat) (d : Device) (l : Fin 8) : d.Plays (Device.abortWaiting fuel d l) := by
  induction fuel generalizing d with
  | zero => exact .refl d
  | succ fuel ih =>
    unfold Device.abortWaiting
    split
    · exact .refl d
    · rename_i h
      have := lowestWaiting_length h
      exact (plays_abortContext d _ _ (by omega)).trans (ih _)

theorem plays_stopVoices (d : Device) (l : Fin 8) : d.Plays (d.stopVoices l) := by
  unfold Device.stopVoices
  apply plays_foldl
  intro d v
  exact (plays_endSegment ..).trans (plays_cancelStart ..)

/-! ## The markers at a stop (R156, R157) -/

/-- From `d` to `e` no marker and no lane's state changed. -/
structure Device.Shows (d e : Device) : Prop where
  markers : e.markers = d.markers
  state   : ∀ l, (e.lane l).state = (d.lane l).state

theorem Device.Shows.refl (d : Device) : d.Shows d := ⟨rfl, fun _ => rfl⟩

theorem Device.Shows.trans {a b c : Device} (h : a.Shows b) (g : b.Shows c) : a.Shows c :=
  ⟨g.markers.trans h.markers, fun l => (g.state l).trans (h.state l)⟩

/-- A change of neither lanes nor markers. -/
theorem shows_of_eq {d e : Device} (h : e.lanes = d.lanes) (g : e.markers = d.markers) : d.Shows e :=
  ⟨g, fun l => by unfold Device.lane; rw [h]⟩

theorem shows_updLane (d : Device) (l : Fin 8) (f : Lane → Lane) (h : ∀ x, (f x).state = x.state) :
    d.Shows (d.updLane l f) := by
  refine ⟨rfl, fun m => ?_⟩
  by_cases e : m = l
  · subst e
    rw [lane_updLane_same, h]
  · rw [lane_updLane_of_ne d f e]

theorem shows_updVoice (d : Device) (l : Fin 8) (v : Fin 4) (f : Voice → Voice) : d.Shows (d.updVoice l v f) :=
  shows_updLane d l (fun y => { y with voices := put y.voices v (f (d.voice l v)) }) fun _ => rfl

theorem shows_setVoice (d : Device) (l : Fin 8) (v : Fin 4) (x : Voice) : d.Shows (d.setVoice l v x) :=
  shows_updLane d l (fun y => { y with voices := put y.voices v x }) fun _ => rfl

theorem shows_raiseAll (d : Device) (es : List (Fin 126 × Byte)) : d.Shows (d.raiseAll es) :=
  shows_of_eq (raiseAll_lanes ..) (raiseAll_markers ..)

theorem shows_endTest (d : Device) (n : Fin 16) : d.Shows (d.endTest n) := by
  unfold Device.endTest
  dsimp only
  split
  · exact shows_of_eq (raise_lanes ..) (raise_markers ..)
  · exact .refl d

theorem shows_releaseReader (d : Device) (n : Fin 16) (i : Nat) : d.Shows (d.releaseReader n i) := by
  unfold Device.releaseReader
  split
  · exact .refl d
  · unfold Device.settleSlot
    dsimp only
    refine Device.Shows.trans ?_ (shows_endTest ..)
    exact shows_of_eq rfl rfl

theorem shows_endSegment (d : Device) (l : Fin 8) (v : Fin 4) (c : EndCause) : d.Shows (d.endSegment l v c) := by
  have hr : d.Shows (d.releaseBinding l v) := by
    unfold Device.releaseBinding
    split
    · exact shows_releaseReader ..
    · exact .refl d
    · exact .refl d
  unfold Device.endSegment
  dsimp only
  split
  · split
    · exact (hr.trans (shows_updVoice ..)).trans (shows_raiseAll ..)
    · exact hr.trans (shows_updVoice ..)
  · split
    · exact shows_setVoice ..
    · exact .refl d

theorem shows_cancelStart (d : Device) (l : Fin 8) (v : Fin 4) (c : EndCause) : d.Shows (d.cancelStart l v c) := by
  unfold Device.cancelStart
  split
  · exact .refl d
  · rename_i p _
    have hr : (d.unschedule l v).Shows ((d.unschedule l v).releaseClaim p) := by
      unfold Device.releaseClaim
      split
      · exact .refl _
      · exact shows_releaseReader ..
    have hu : d.Shows (d.unschedule l v) :=
      shows_updLane d l (fun x => { x with schedule := x.schedule.filter fun e => !e.startsVoice v }) fun _ => rfl
    exact ((hu.trans hr).trans (shows_updVoice ..)).trans (shows_raiseAll ..)

theorem shows_stopVoices (d : Device) (l : Fin 8) : d.Shows (d.stopVoices l) := by
  unfold Device.stopVoices
  generalize List.finRange 4 = vs
  induction vs generalizing d with
  | nil => exact .refl d
  | cons v vs ih => exact ((shows_endSegment ..).trans (shows_cancelStart ..)).trans (ih _)

theorem abortWaiting_markers (fuel : Nat) (d : Device) (l : Fin 8) : (Device.abortWaiting fuel d l).markers = d.markers := by
  induction fuel generalizing d with
  | zero => rfl
  | succ fuel ih =>
    unfold Device.abortWaiting
    split
    · rfl
    · exact ih _

/-- A marker at a stop of lane l: with a condition of the lane it drops its starts due, and its frozen hold and pulse too if
the lane was FROZEN (R156, R157). -/
theorem stopMarkers_get (d : Device) (l : Fin 8) (n : Fin 6) :
    (d.stopMarkers l).markers.get n =
      if (d.markers.get n).condition.lane = some l then
        if (d.lane l).state = .frozen then { d.markers.get n with startsDue := [], frozenHold := none, pulse := .none }
        else { d.markers.get n with startsDue := [] }
      else d.markers.get n := by
  have hl (x : Device) (ms : Vector Marker 6) : Device.lane { x with markers := ms } l = x.lane l := rfl
  unfold Device.stopMarkers
  dsimp only
  rw [hl]
  by_cases hf : (d.lane l).state = .frozen
  · rw [if_pos hf, if_pos hf]
    unfold Device.thawMarkers
    simp only [get_map]
    by_cases hc : (d.markers.get n).condition.lane = some l
    · rw [if_pos hc, if_pos hc, if_pos hc]
    · rw [if_neg hc, if_neg hc, if_neg hc]
  · rw [if_neg hf, if_neg hf, get_map]

/-- What a lane stop leaves of a marker (R45, R156, R157). -/
theorem stopLane_marker (d : Device) (l : Fin 8) (n : Fin 6) :
    (d.stopLane l).markers.get n =
      if (d.markers.get n).condition.lane = some l then
        if (d.lane l).state = .frozen then { d.markers.get n with startsDue := [], frozenHold := none, pulse := .none }
        else { d.markers.get n with startsDue := [] }
      else d.markers.get n := by
  have h := shows_stopVoices d l
  unfold Device.stopLane
  generalize d.stopVoices l = e at h ⊢
  dsimp only
  rw [abortWaiting_markers, ← h.markers, ← h.state l, ← stopMarkers_get]
  split <;> rfl

theorem plays_stopLane (d : Device) (l : Fin 8) : d.Plays (d.stopLane l) := by
  unfold Device.stopLane
  dsimp only
  have h : d.Plays (((d.stopVoices l).stopMarkers l).updLane l Lane.stopped) :=
    ((plays_stopVoices ..).trans (plays_stopMarkers ..)).trans (plays_updLane ..)
  refine Device.Plays.trans ?_ (plays_abortWaiting ..)
  split
  · exact h
  · exact h.trans (plays_setMeter ..)

end Sys2Proof.Machine
end

