-- ==== Sys2Proof/Laws/Blocks.lean ====
section
/-!
SUPPORT. What a block of a lane can change: each operation of a block in progress, the hand-offs and the boundary play on
(Laws/Playback.lean).
-/
namespace Sys2Proof.Machine

/-- A fold keeps what each of its steps keeps. -/
theorem foldl_keeps {α β : Type} (P : β → Prop) (f : β → α → β) (h : ∀ x a, P x → P (f x a)) (xs : List α) (x : β)
    (hx : P x) : P (xs.foldl f x) := by
  induction xs generalizing x with
  | nil => exact hx
  | cons a as ih => exact ih _ (h x a hx)

theorem plays_causePulse (d : Device) (c : Condition) (t : Nat) : d.Plays (d.causePulse c t) := plays_of_lanes rfl

/-! ## Operations of a block in progress -/

theorem plays_block_endSegment (k : Block) (l : Fin 8) (v : Fin 4) (c : EndCause) :
    k.dev.Plays (k.endSegment l v c).dev := by
  unfold Block.endSegment
  dsimp only
  split <;> exact plays_updVoice ..

theorem plays_failSegment (k : Block) (l : Fin 8) (v : Fin 4) (g : Fin 1024) (c : EndCause) :
    k.dev.Plays (k.failSegment l v g c).dev := by
  unfold Block.failSegment
  dsimp only
  exact plays_updVoice ..

theorem plays_play (k : Block) (l : Fin 8) (v : Fin 4) (g : Fin 1024) (b : Option Binding) :
    k.dev.Plays (k.play l v g b).dev := by
  unfold Block.play
  dsimp only
  exact plays_updVoice ..

theorem plays_begin (k : Block) (l : Fin 8) (v : Fin 4) (t : Nat) (g : Fin 1024) (c : Option (Fin 16 × Nat)) :
    k.dev.Plays (k.begin l v t g c).dev := by
  unfold Block.begin
  generalize hk : ({ k with dev := k.dev.causePulse (.segmentEdgePulse l) (k.dev.sampleClock l t) } : Block) = m
  have h : k.dev.Plays m.dev := by rw [← hk]; exact plays_causePulse ..
  refine h.trans ?_
  dsimp only
  split
  · exact plays_failSegment ..
  · exact plays_play ..
  · split
    · exact plays_play ..
    · exact plays_failSegment ..
  · split
    · exact plays_failSegment ..
    · rename_i s i
      exact (plays_bindReader m.dev s i).trans (plays_play { m with dev := m.dev.bindReader s i } l v g _)

theorem plays_chain (k : Block) (l : Fin 8) (v : Fin 4) (t : Nat) (g : Fin 1024) :
    k.dev.Plays (k.chain l v t g).dev := by
  unfold Block.chain
  dsimp only
  split
  · generalize hk : ({ k with dev := k.dev.setSlot _ _ } : Block) = m
    have h : k.dev.Plays m.dev := by
      rw [← hk]
      exact plays_setSlot k.dev _ ((k.dev.slot (k.dev.segment g).fixed.slot).claim l v false) (fun h => h) rfl
    exact h.trans (plays_begin ..)
  · exact plays_begin ..

theorem plays_finish (k : Block) (l : Fin 8) (v : Fin 4) (t : Nat) : k.dev.Plays (k.finish l v t).dev := by
  unfold Block.finish
  dsimp only
  split
  · exact plays_block_endSegment ..
  · exact (plays_block_endSegment ..).trans (plays_chain ..)

theorem plays_takeDue (k : Block) (l : Fin 8) (v : Fin 4) (t : Nat) : k.dev.Plays (k.takeDue l v t).dev := by
  unfold Block.takeDue
  split
  · exact .refl _
  · exact plays_finish ..
  · generalize hk : ({ k with dev := k.dev.updVoice l v _ } : Block) = m
    have h : k.dev.Plays m.dev := by rw [← hk]; dsimp only; exact plays_updVoice ..
    exact h.trans (plays_chain ..)

theorem plays_applyStart (k : Block) (l : Fin 8) (v : Fin 4) (t : Nat) (g : Fin 1024) (c : Option (Fin 16 × Nat)) :
    k.dev.Plays (k.applyStart l v t g c).dev := by
  unfold Block.applyStart
  dsimp only
  generalize hk : ({ k with dev := (k.dev.causePulse (.voiceStartPulse l) (k.dev.sampleClock l t)).updVoice l v _ } : Block) = m
  have h : k.dev.Plays m.dev := by rw [← hk]; dsimp only; exact (plays_causePulse ..).trans (plays_updVoice ..)
  refine h.trans ?_
  split
  · exact (plays_block_endSegment ..).trans (plays_begin ..)
  · exact plays_begin ..

theorem plays_applyStop (k : Block) (l : Fin 8) (v : Fin 4) (m : Mode) : k.dev.Plays (k.applyStop l v m).dev := by
  unfold Block.applyStop
  dsimp only
  split
  · split
    · exact plays_block_endSegment ..
    · exact plays_setVoice ..
  · exact .refl _
  all_goals first | exact plays_block_endSegment .. | exact .refl _

theorem plays_applyGain (k : Block) (l : Fin 8) (v : Fin 4) (g : Int) (r : Nat) :
    k.dev.Plays (k.applyGain l v g r).dev := by
  unfold Block.applyGain
  dsimp only
  split
  all_goals first | exact plays_setVoice .. | exact .refl _

theorem plays_emit (k : Block) (l : Fin 8) (v : Fin 4) (f : Fixed) (x : Sample) : k.dev.Plays (k.emit l v f x).1.dev := by
  unfold Block.emit
  dsimp only
  exact plays_setVoice ..

theorem plays_streamFinished (k : Block) (l : Fin 8) (v : Fin 4) : k.dev.Plays (k.streamFinished l v).dev := by
  unfold Block.streamFinished
  dsimp only
  split
  · exact plays_block_endSegment ..
  · refine (plays_block_endSegment k l v (k.dev.voice l v).finishCause).trans ?_
    dsimp only
    exact plays_updVoice ..

theorem plays_readSample (k : Block) (l : Fin 8) (v : Fin 4) (f : Fixed) (c : Cursor) (x : Sample) (b : Bool) :
    k.dev.Plays (k.readSample l v f c x b).1.dev := by
  unfold Block.readSample
  dsimp only
  split
  · exact (plays_emit (k := { k with cursors := put k.cursors v (some (c.advance b)) }) l v f x).trans
      (plays_streamFinished ..)
  · exact plays_emit (k := { k with cursors := put k.cursors v (some (c.advance b)) }) l v f x

theorem plays_stall (k : Block) (l : Fin 8) (v : Fin 4) (c : Cursor) : k.dev.Plays (k.stall l v c).dev := by
  unfold Block.stall
  dsimp only
  split
  · exact plays_block_endSegment ..
  · exact plays_setVoice ..

theorem plays_readStream (k : Block) (l : Fin 8) (v : Fin 4) (f : Fixed) (c : Cursor) :
    k.dev.Plays (k.readStream l v f c).1.dev := by
  unfold Block.readStream
  dsimp only
  split
  · exact plays_readSample ..
  · exact plays_readSample ..
  · split
    · exact plays_readSample ..
    · exact plays_stall ..

theorem plays_voiceSample (fuel : Nat) (k : Block) (l : Fin 8) (v : Fin 4) (t : Nat) :
    k.dev.Plays (Block.voiceSample fuel k l v t).1.dev := by
  induction fuel generalizing k with
  | zero => exact .refl _
  | succ fuel ih =>
    unfold Block.voiceSample
    dsimp only
    split
    · exact .refl _
    · split
      · split
        · split
          · exact (plays_finish ..).trans (ih _)
          · exact plays_readStream ..
        · split
          · exact plays_emit ..
          · exact plays_emit ..
      · exact .refl _

theorem plays_sumVoices (k : Block) (l : Fin 8) (t : Nat) : k.dev.Plays (k.sumVoices l t).1.dev := by
  unfold Block.sumVoices
  refine foldl_keeps (fun x : Block × Val × Val => k.dev.Plays x.1.dev) _ ?_ _ _ (.refl _)
  intro x v hx
  obtain ⟨m, i, q⟩ := x
  have := Device.Plays.trans hx (plays_voiceSample 3 m l v t)
  dsimp only
  split
  · exact this
  · exact this

/-- An entry of the schedule applied at its sample. -/
theorem plays_apply (k : Block) (l : Fin 8) (t : Nat) (e : Entry) : k.dev.Plays (k.apply l t e).dev := by
  unfold Block.apply
  split
  · exact plays_applyStart ..
  · exact plays_applyStop ..
  · exact plays_applyGain ..
  · exact plays_updLane ..
  · exact .refl _

/-! ## A sample, a block, the hand-offs and the boundary -/

theorem plays_sample (l : Fin 8) (b : Nat) (es : List Entry) (k : Block) (n : Nat) :
    k.dev.Plays (k.sample l b es n).dev := by
  unfold Block.sample
  dsimp only
  generalize hk : (List.finRange 4).foldl (fun k v => k.takeDue l v (b + n)) k = m
  have h : k.dev.Plays m.dev := by
    rw [← hk]
    exact foldl_keeps (fun x : Block => k.dev.Plays x.dev) _ (fun _ _ hx => hx.trans (plays_takeDue ..)) _ _ (.refl _)
  generalize hm : (entriesAt es b (b + n)).foldl (fun k e => k.apply l (b + n) e) m = m'
  have h' : k.dev.Plays m'.dev := by
    rw [← hm]
    exact foldl_keeps (fun x : Block => k.dev.Plays x.dev) _ (fun _ _ hx => hx.trans (plays_apply ..)) _ _ h
  exact (h'.trans (plays_sumVoices m' l (b + n))).trans (plays_updLane ..)

theorem plays_retry (k : Block) (l : Fin 8) (v : Fin 4) : k.dev.Plays (k.retry l v).dev := by
  unfold Block.retry
  dsimp only
  split
  · split
    · exact .refl _
    · split
      · exact plays_setVoice ..
      · split
        · exact .refl _
        · exact plays_setVoice ..
  · exact .refl _

/-- A lane computing a block plays on. -/
theorem plays_computeBlock (d : Device) (l : Fin 8) (es : List Entry) : d.Plays (d.computeBlock l es).dev := by
  unfold Device.computeBlock
  dsimp only
  refine foldl_keeps (fun x : Block => d.Plays x.dev) _ (fun _ _ hx => hx.trans (plays_sample ..)) _ _ ?_
  refine foldl_keeps (fun x : Block => d.Plays x.dev) _ (fun _ _ hx => hx.trans (plays_retry ..)) _ _ ?_
  exact plays_of_lanes rfl

theorem plays_takeReport (d : Device) (n : Fin 16) (c : Cursor) : d.Plays (d.takeReport n c) := by
  unfold Device.takeReport
  dsimp only
  split
  · exact .refl d
  · split
    · refine (plays_setSlot d n _ ?_ ?_).trans (plays_raise ..)
      · split <;> exact id
      · split <;> rfl
    · refine plays_setSlot d n _ ?_ ?_
      · split <;> exact id
      · split <;> rfl

theorem shutEmpty_firstRead {x : Slot} (h : x.shutEmpty) : x.firstRead.shutEmpty := by
  intro ho
  apply h
  cases hx : x.state <;> simp [Slot.firstRead, Slot.isOpen, hx] at ho ⊢

theorem shutEmpty_leaveIndex {x : Slot} (i : Nat) (h : x.shutEmpty) : (x.leaveIndex i).shutEmpty := by
  unfold Slot.leaveIndex
  split <;> exact h

theorem held_leaveIndex (x : Slot) (i : Nat) : (x.leaveIndex i).held = x.held := by
  unfold Slot.leaveIndex
  split <;> rfl

theorem plays_handOff (d : Device) (n : Fin 16) (rs : List Cursor) (is : List Nat) : d.Plays (d.handOff n rs is) := by
  unfold Device.handOff
  dsimp only
  split
  · exact .refl d
  · have h : d.Plays (if (d.slot n).consumed = false ∧
        rs.any (fun c => c.read && ((d.slot n).reader c.index).isSome) = true then d.setSlot n (d.slot n).firstRead
        else d) := by
      split
      · exact plays_setSlot d n (d.slot n).firstRead shutEmpty_firstRead rfl
      · exact .refl d
    refine Device.Plays.trans ?_ (plays_settleSlot ..)
    refine Device.Plays.trans ?_ (plays_setSlot _ n _ ?_ ?_)
    rotate_left
    · exact foldl_keeps (fun x : Slot => _ → x.shutEmpty) _ (fun x i h g => shutEmpty_leaveIndex i (h g)) _ _ id
    · exact foldl_keeps (fun x : Slot => x.held = _) _ (fun x i h => (held_leaveIndex x i).trans h) _ _ rfl
    exact h.trans (plays_foldl _ (fun _ _ => plays_takeReport ..) _ _)

theorem plays_handOffReaders (k : Block) (d : Device) : d.Plays (k.handOffReaders d) := by
  unfold Block.handOffReaders
  exact plays_foldl _ (fun _ _ => plays_handOff ..) _ _

theorem plays_compareTest (d : Device) (l : Fin 8) (b : Nat) : d.Plays (d.compareTest l b) := by
  unfold Device.compareTest
  split
  · exact .refl d
  · split
    · exact (plays_updLane ..).trans (plays_raise ..)
    · exact .refl d

theorem plays_overrange (d : Device) (l : Fin 8) (b : Bool) : d.Plays (d.overrange l b) := by
  unfold Device.overrange
  split
  · exact (plays_updLane ..).trans (plays_raise ..)
  · exact .refl d

/-- The hand-offs that complete a boundary play on. -/
theorem plays_complete (k : Block) (l : Fin 8) (b : Nat) : k.dev.Plays (k.complete l b) := by
  unfold Block.complete
  dsimp only
  generalize hd : (((k.handOffReaders (k.dev.updLane l _)).compareTest l b).meterBlock l _) = d
  have h : k.dev.Plays d := by
    rw [← hd]
    exact (((plays_updLane ..).trans (plays_handOffReaders ..)).trans (plays_compareTest ..)).trans
      (plays_meterBlock ..)
  generalize he : (if decide (Config.laneTimeEnd ≤ b + 64) = true then d else d.wakeContexts l (b + 64)) = e
  have g : k.dev.Plays e := by
    rw [← he]
    split
    · exact h
    · exact h.trans (plays_wakeContexts ..)
  split
  · exact ((g.trans (plays_raiseAll ..)).trans (plays_overrange ..)).trans (plays_stopLane ..)
  · exact (g.trans (plays_raiseAll ..)).trans (plays_overrange ..)

theorem plays_runBlock (d : Device) (l : Fin 8) : d.Plays (d.runBlock l) := by
  unfold Device.runBlock
  dsimp only
  exact ((plays_setLane ..).trans (plays_computeBlock ..)).trans (plays_complete ..)

/-- A block boundary plays on: it changes nothing outside playback, and keeps every size. -/
theorem plays_boundary (d : Device) (l : Fin 8) : d.Plays (d.boundary l) := by
  unfold Device.boundary
  dsimp only
  refine (plays_updLane d l Lane.releaseQuiet).trans ?_
  split
  · exact plays_freezeLane ..
  · split
    · exact (plays_setLane ..).trans (plays_freezeLane ..)
    · exact plays_runBlock ..

end Sys2Proof.Machine
end

