-- ==== Sys2Proof/Laws/BlockVoices.lean ====
section
/-!
SUPPORT. What a block in progress does to the one voice that an operation names, to every other voice, and to the block's
events: the end of a segment, a segment that cannot be played, and the begin of one (R15, R22, R27).
-/
namespace Sys2Proof.Machine

/-- The VOICE_END that the end of a segment adds to a block's events. -/
theorem block_endSegment_events (k : Block) (l : Fin 8) (v : Fin 4) (c : EndCause) :
    (k.endSegment l v c).events =
      if (k.dev.voice l v).endEvent then k.events ++ [voiceEndEvent l v c] else k.events := by
  unfold Block.endSegment
  dsimp only
  cases k.cursors.get v <;> rfl

theorem block_endSegment_dev (k : Block) (l : Fin 8) (v : Fin 4) (c : EndCause) :
    (k.endSegment l v c).dev = k.dev.updVoice l v (·.ended c) := by
  unfold Block.endSegment
  dsimp only
  cases k.cursors.get v <;> rfl

/-- The end of a segment hands its reader on as released. -/
theorem block_endSegment_released (k : Block) (l : Fin 8) (v : Fin 4) (c : EndCause) :
    (k.endSegment l v c).released =
      k.released ++ ((k.cursors.get v).map fun x => (x.slot, x.index)).toList := by
  unfold Block.endSegment
  dsimp only
  cases k.cursors.get v <;> simp

theorem block_failSegment_dev (k : Block) (l : Fin 8) (v : Fin 4) (g : Fin 1024) (c : EndCause) :
    (k.failSegment l v g c).dev = k.dev.updVoice l v (·.ended c) := rfl

theorem block_failSegment_events (k : Block) (l : Fin 8) (v : Fin 4) (g : Fin 1024) (c : EndCause) :
    (k.failSegment l v g c).events =
      if (k.dev.segment g).hot.endEvent then k.events ++ [voiceEndEvent l v c] else k.events := rfl

theorem block_play_dev (k : Block) (l : Fin 8) (v : Fin 4) (g : Fin 1024) (b : Option Binding) :
    (k.play l v g b).dev = k.dev.updVoice l v (·.begins g (k.dev.segment g) b) := rfl

theorem block_play_events (k : Block) (l : Fin 8) (v : Fin 4) (g : Fin 1024) (b : Option Binding) :
    (k.play l v g b).events = k.events := rfl

@[simp] theorem voice_setSlot (d : Device) (n : Fin 16) (x : Slot) (l : Fin 8) (v : Fin 4) :
    (d.setSlot n x).voice l v = d.voice l v := rfl

@[simp] theorem voice_bindReader (d : Device) (n i) (l : Fin 8) (v : Fin 4) :
    (d.bindReader n i).voice l v = d.voice l v := rfl

@[simp] theorem voice_causePulse (d : Device) (c : Condition) (t : Nat) (l : Fin 8) (v : Fin 4) :
    (d.causePulse c t).voice l v = d.voice l v := rfl

@[simp] theorem segment_causePulse (d : Device) (c : Condition) (t : Nat) (g : Fin 1024) :
    (d.causePulse c t).segment g = d.segment g := rfl

@[simp] theorem clipBinds_causePulse (d : Device) (c : Condition) (t : Nat) (f : Fixed) :
    (d.causePulse c t).clipBinds f = d.clipBinds f := rfl

@[simp] theorem segment_bindReader (d : Device) (n i) (g : Fin 1024) : (d.bindReader n i).segment g = d.segment g := rfl

@[simp] theorem sampleClock_causePulse (d : Device) (c : Condition) (t : Nat) (l : Fin 8) (u : Nat) :
    (d.causePulse c t).sampleClock l u = d.sampleClock l u := rfl

/-- The sample clocks of a lane do not depend on its voices. -/
@[simp] theorem sampleClock_updVoice (d : Device) (m : Fin 8) (v : Fin 4) (f : Voice → Voice) (l : Fin 8) (u : Nat) :
    (d.updVoice m v f).sampleClock l u = d.sampleClock l u := by
  unfold Device.sampleClock Device.updVoice Device.setVoice Device.updLane
  by_cases h : l = m
  · subst h
    rw [lane_setLane_same]
    rfl
  · rw [lane_setLane_of_ne _ _ h]
    rfl

/-- A sample clock entered joins the starts due, once. -/
theorem mem_insertDue (t u : Nat) (xs : List Nat) : u ∈ insertDue t xs ↔ u = t ∨ u ∈ xs := by
  induction xs with
  | nil => simp [insertDue]
  | cons x xs ih =>
    unfold insertDue
    split
    · simp
    · split
      · rename_i h
        subst h
        simp
      · simp only [List.mem_cons, ih]
        exact or_left_comm

/-- A segment's begin is a cause for the markers of the lane's segment edges, and touches no marker else. -/
theorem block_begin_markers (k : Block) (l : Fin 8) (v : Fin 4) (t : Nat) (g : Fin 1024) (c : Option (Fin 16 × Nat)) :
    (k.begin l v t g c).dev.markers = (k.dev.causePulse (.segmentEdgePulse l) (k.dev.sampleClock l t)).markers := by
  unfold Block.begin
  dsimp only
  split
  · rfl
  · rfl
  · split <;> rfl
  · split <;> rfl

/-- All that the begin of a segment does to its voice. -/
theorem block_begin_voice (k : Block) (l : Fin 8) (v : Fin 4) (t : Nat) (g : Fin 1024) (c : Option (Fin 16 × Nat)) :
    (k.begin l v t g c).dev.voice l v =
      match k.dev.bindingOf (k.dev.segment g).fixed c with
      | .ok b => (k.dev.voice l v).begins g (k.dev.segment g) b
      | .error e => (k.dev.voice l v).ended e := by
  unfold Block.begin Device.bindingOf
  simp only [segment_causePulse, clipBinds_causePulse]
  cases (k.dev.segment g).fixed.kind
  · simp [block_failSegment_dev]
  · cases c <;> simp [block_failSegment_dev, block_play_dev]
  · by_cases h : k.dev.clipBinds (k.dev.segment g).fixed = true <;> simp [h, block_failSegment_dev, block_play_dev]
  · simp [block_play_dev]

/-- What the begin of a segment adds to the block's events. -/
theorem block_begin_events (k : Block) (l : Fin 8) (v : Fin 4) (t : Nat) (g : Fin 1024) (c : Option (Fin 16 × Nat)) :
    (k.begin l v t g c).events =
      match k.dev.bindingOf (k.dev.segment g).fixed c with
      | .ok _ => k.events
      | .error e => if (k.dev.segment g).hot.endEvent then k.events ++ [voiceEndEvent l v e] else k.events := by
  unfold Block.begin Device.bindingOf
  simp only [segment_causePulse, clipBinds_causePulse]
  cases (k.dev.segment g).fixed.kind
  · rfl
  · cases c <;> rfl
  · by_cases h : k.dev.clipBinds (k.dev.segment g).fixed = true <;>
      simp [h, block_failSegment_events, block_play_events] <;> rfl
  · rfl

/-- The begin of a segment touches no other voice. -/
theorem block_begin_other (k : Block) (l : Fin 8) (v : Fin 4) (t : Nat) (g : Fin 1024) (c : Option (Fin 16 × Nat))
    {m : Fin 8} {w : Fin 4} (h : m ≠ l ∨ w ≠ v) : (k.begin l v t g c).dev.voice m w = k.dev.voice m w := by
  unfold Block.begin
  dsimp only
  split
  · rw [block_failSegment_dev, voice_updVoice_other _ _ _ _ h]; rfl
  · rw [block_play_dev, voice_updVoice_other _ _ _ _ h]; rfl
  · split
    · rw [block_play_dev, voice_updVoice_other _ _ _ _ h]; rfl
    · rw [block_failSegment_dev, voice_updVoice_other _ _ _ _ h]; rfl
  · split
    · rw [block_failSegment_dev, voice_updVoice_other _ _ _ _ h]; rfl
    · rw [block_play_dev, voice_updVoice_other _ _ _ _ h]; rfl

end Sys2Proof.Machine
end

