-- ==== Sys2Proof/Laws/Requests.lean ====
section
/-!
SUPPORT. What a request step and an action step do: all of it when the operands are at hand, nothing when they are not.
-/
namespace Sys2Proof.Machine

/-- The oldest request, the Agent ready: what `asked` says of a request. -/
theorem asked_request {kind : Byte} {s : State} {p : List Byte} (h : asked .request kind s p = true) :
    s.agent.ready = true ∧ ∃ r rest, s.agent.requests = r :: rest ∧ r.kind = kind ∧ r.payload = p := by
  unfold asked at h
  cases hq : s.agent.requests with
  | nil => simp [hq] at h
  | cons r rest =>
    simp only [hq, Bool.and_eq_true, decide_eq_true_eq] at h
    exact ⟨by simp [Agent.ready, h.1.1]; simpa using h.1.2, r, rest, rfl, h.2.1, h.2.2⟩

/-- The RUNNING top context with this action next: what `asked` says of an action. -/
theorem asked_action {kind : Byte} {s : State} {p : List Byte} (h : asked .action kind s p = true) :
    ∃ top rest, s.dev.cue.stack = top :: rest ∧ top.state = .running ∧
      top.index < (s.dev.cue.lists.get top.list).count ∧
      (s.dev.cue.actionAt top.list top.index).kind = kind ∧
      (s.dev.cue.actionAt top.list top.index).operands = p := by
  unfold asked at h
  cases hq : s.dev.cue.stack with
  | nil => simp [hq] at h
  | cons top rest =>
    simp only [hq, Bool.and_eq_true, decide_eq_true_eq] at h
    exact ⟨top, rest, rfl, h.1.1.1, h.1.1.2, h.1.2, h.2⟩

/-- A request at hand is taken, its operation invoked on the state without it, and its reply placed (R189, R190). -/
theorem requestStep_asked {kind : Byte} {s : State} {p : List Byte} (op : Op) (h : asked .request kind s p = true) :
    requestStep kind op s =
      concluded .request s (op .request p (begun .request s)).dev (op .request p (begun .request s)).result
        (op .request p (begun .request s)).data := by
  obtain ⟨ready, r, rest, hq, rfl, rfl⟩ := asked_request h
  simp [requestStep, Agent.take, hq, ready, answerRequest, concluded, begun, Agent.reply, replyOf]

/-- An action at hand is performed on the state with the index raised; a refused one is reported (R133, R134). -/
theorem actionStep_asked {kind : Byte} {s : State} {p : List Byte} (op : Op) (h : asked .action kind s p = true) :
    actionStep kind op s =
      concluded .action s (op (callerOf .action s) p (begun .action s)).dev
        (op (callerOf .action s) p (begun .action s)).result (op (callerOf .action s) p (begun .action s)).data := by
  obtain ⟨top, rest, hq, run, idx, hk, ho⟩ := asked_action h
  simp [actionStep, Cue.runningTop, hq, run, idx, hk, ho, performAction, concluded, begun, callerOf, Device.stepped]

/-- Requests and actions together. -/
theorem viaStep_asked {via : Via} {kind : Byte} {s : State} {p : List Byte} (op : Op)
    (h : asked via kind s p = true) :
    viaStep via kind op s =
      concluded via s (op (callerOf via s) p (begun via s)).dev (op (callerOf via s) p (begun via s)).result
        (op (callerOf via s) p (begun via s)).data := by
  cases via
  · exact requestStep_asked op h
  · exact actionStep_asked op h

/-- Without a request of this kind at the head, or with the Agent not ready, a request step does nothing (log entry 1). -/
theorem requestStep_not_asked {kind : Byte} {s : State} (op : Op) (h : ∀ p, asked .request kind s p = false) :
    requestStep kind op s = s := by
  unfold requestStep
  cases ht : s.agent.take with
  | none => rfl
  | some ra =>
    obtain ⟨r, a⟩ := ra
    have hk : r.kind ≠ kind := by
      intro hk
      have hp := h r.payload
      unfold Agent.take at ht
      cases hq : s.agent.requests with
      | nil => simp [hq] at ht
      | cons r' rest =>
        simp only [hq] at ht
        split at ht
        · rename_i hr
          simp only [Option.some.injEq, Prod.mk.injEq] at ht
          simp only [Agent.ready, Bool.and_eq_true, decide_eq_true_eq, Bool.not_eq_true'] at hr
          obtain ⟨rfl, -⟩ := ht
          simp [asked, hq, hk, hr.1, hr.2] at hp
        · cases ht
    simp [hk]

/-- Without an action of this kind at hand an action step does nothing (log entry 1). -/
theorem actionStep_not_asked {kind : Byte} {s : State} (op : Op) (h : ∀ p, asked .action kind s p = false) :
    actionStep kind op s = s := by
  unfold actionStep
  cases hq : s.dev.cue.stack with
  | nil => simp [Cue.runningTop, hq]
  | cons top rest =>
    by_cases run : top.state = .running
    · simp only [Cue.runningTop, hq, run, if_true]
      split
      · rename_i hc
        have hp := h (s.dev.cue.actionAt top.list top.index).operands
        simp [asked, hq, run, hc.1, hc.2] at hp
      · rfl
    · simp [Cue.runningTop, hq, run]

/-- A payload long enough passes check 2 of R209. -/
@[simp] theorem needs_of_le {n : Nat} {op : Op} {c : Caller} {p : List Byte} {s : State} (h : n ≤ p.length) :
    needs n op c p s = op c p s := by
  simp [needs, Nat.not_lt.mpr h]

/-- A payload too short is refused BAD_FIELD. -/
theorem needs_of_lt {n : Nat} {op : Op} {c : Caller} {p : List Byte} {s : State} (h : p.length < n) :
    needs n op c p s = refuse .badField s := by
  simp [needs, h]

@[simp] theorem refuse_result (r : Result) (s : State) : (refuse r s).result = r := rfl

@[simp] theorem refuse_data (r : Result) (s : State) : (refuse r s).data = [] := rfl

@[simp] theorem refuse_dev (r : Result) (s : State) : (refuse r s).dev = s.dev := rfl

@[simp] theorem done_result (d : Device) : (done d).result = .ok := rfl

@[simp] theorem done_data (d : Device) : (done d).data = [] := rfl

@[simp] theorem done_dev (d : Device) : (done d).dev = d := rfl

@[simp] theorem answer_result (x : List Item) (s : State) : (answer x s).result = .ok := rfl

@[simp] theorem answer_data (x : List Item) (s : State) : (answer x s).data = pack x := rfl

@[simp] theorem answer_dev (x : List Item) (s : State) : (answer x s).dev = s.dev := rfl

/-- The Agent taking a request changes no block. -/
@[simp] theorem begun_request_dev (s : State) : (begun .request s).dev = s.dev := by
  unfold begun; cases s.agent.requests <;> rfl

@[simp] theorem begun_port (via : Via) (s : State) : (begun via s).port = s.port := by
  unfold begun
  cases via
  · cases s.agent.requests <;> rfl
  · cases s.dev.cue.stack <;> rfl

end Sys2Proof.Machine
end

