-- ==== Sys2Proof/Laws/Commands.lean ====
section
/-!
SUPPORT. What the meanings share at their edges: operand indices in and out of range, an entry placed in a schedule, reply
data of one run of bytes, a cell that a link takes or drops, and the queue that no command touches.
-/
namespace Sys2Proof.Machine

/-! ## Operands -/

/-- A number that names an index reads as that index. -/
theorem fin?_of_eq {n x : Nat} {i : Fin n} (h : x = i.val) : fin? n x = some i := by
  unfold fin?
  rw [dif_pos (by omega)]
  simp [h]

/-- A number past the range names no index. -/
theorem fin?_of_le {n x : Nat} (h : n ≤ x) : fin? n x = none := by
  unfold fin?
  rw [dif_neg (by omega)]

theorem fin?_eq_some {n x : Nat} {i : Fin n} : fin? n x = some i ↔ x = i.val := by
  refine ⟨fun h => ?_, fin?_of_eq⟩
  unfold fin? at h
  split at h
  · rw [← Option.some.inj h]
  · cases h

@[simp] theorem put_put {α : Type} {n : Nat} (v : Vector α n) (i : Fin n) (a b : α) :
    put (put v i a) i b = put v i b := by
  simp [put]

/-- A byte is below 256. -/
theorem u8_lt (p : List Byte) (i : Nat) : u8 p i < 256 := (p.getD i 0).isLt

theorem u16_lt (p : List Byte) (i : Nat) : u16 p i < 65536 := by
  have := u8_lt p i
  have := u8_lt p (i + 1)
  unfold u16
  omega

theorem u32_lt (p : List Byte) (i : Nat) : u32 p i < 4294967296 := by
  have := u16_lt p i
  have := u16_lt p (i + 2)
  unfold u32
  omega

/-- Reply data of one run of bytes that fits a reply are those bytes. -/
theorem pack_one {bytes : List Byte} (h : bytes.length ≤ 256) : pack [.one bytes] = bytes := by
  simp [pack, packItems, h]

/-! ## The schedule (R40) -/

/-- An entry stands after every entry whose stamp is earlier than or equal to its own. -/
theorem insertEntry_eq (e : Entry) (xs : List Entry) :
    insertEntry e xs = xs.takeWhile (·.stamp ≤ e.stamp) ++ e :: xs.dropWhile (·.stamp ≤ e.stamp) := by
  induction xs with
  | nil => rfl
  | cons x xs ih =>
    unfold insertEntry
    by_cases h : x.stamp ≤ e.stamp
    · simp [h, ih]
    · simp [h]

@[simp] theorem insertEntry_length (e : Entry) (xs : List Entry) : (insertEntry e xs).length = xs.length + 1 := by
  induction xs with
  | nil => rfl
  | cons x xs ih =>
    unfold insertEntry
    split
    · simp [ih]
    · rfl

/-! ## Cells at a link (R177) -/

theorem assembles_of_up {x : Link} (h : x.state = .up) : x.assembles = true := by simp [Link.assembles, h]

theorem assembles_of_offering {x : Link} (h : x.state = .offering) : x.assembles = true := by simp [Link.assembles, h]

/-- A link in DOWN or ALIGNING takes no cell (R171). -/
theorem receiveCell_of_idle {s : State} {id : LinkId} (c : Cell)
    (h : (s.link id).state = .down ∨ (s.link id).state = .aligning) : s.receiveCell id c = s := by
  have ha : (s.link id).assembles = false := by rcases h with h | h <;> simp [Link.assembles, h]
  simp [State.receiveCell, ha]

/-- A cell that fits its kind is taken on an UP link, and counted (R178, R186). -/
theorem receiveCell_of_up {s : State} {id : LinkId} {c : Cell} (h : (s.link id).state = .up)
    (hk : kindArrives id c = true) (hl : lengthFits c = true) :
    s.receiveCell id c = (s.count id LinkCounters.addIn).takeCell id c := by
  simp [State.receiveCell, assembles_of_up h, cellFault, hk, hl, h]

/-- A cell other than an OFFER is dropped on a link in OFFERING, and counted (R177). -/
theorem receiveCell_of_offering {s : State} {id : LinkId} {c : Cell} (h : (s.link id).state = .offering)
    (hk : kindArrives id c = true) (hl : lengthFits c = true) (ho : c.kind ≠ 0x0F) :
    s.receiveCell id c = s.count id LinkCounters.addNotUp := by
  have hf : cellFault id (s.link id).state c = some LinkCounters.addNotUp := by
    unfold cellFault
    rw [hk, hl, h, if_neg (by decide), if_neg (by decide), if_pos ⟨ho, by decide⟩]
  simp [State.receiveCell, assembles_of_offering h, hf]

/-- A cell for this unit alone is handed to its block (R179). -/
theorem addressed_own {s : State} {c : Cell} (h : s.port.owns c.addr = true) : s.addressed c = s.ownCell c := by
  simp [State.addressed, h]

@[simp] theorem link_setLink_same (s : State) (id : LinkId) (x : Link) : (s.setLink id x).link id = x := by
  cases id <;> rfl

/-- All that a discard does: the cell in progress is gone, and one counter has risen. -/
theorem discard_eq (s : State) (id : LinkId) (f : LinkCounters → LinkCounters) :
    s.discard id f =
      s.setLink id { s.link id with counters := f (s.link id).counters, receiving := none } := by
  cases id <;> rfl

/-- All that a symbol does on a link in OFFERING or UP: its counter, what it does to the cells, and the alignment lost at 0. -/
theorem withSymbol_eq (s : State) (id : LinkId) (x : Symbol) (act : State → State) :
    s.withSymbol id x act =
      (let n := alignStep (s.link id).counter x
       let t := act (s.setLink id { s.link id with counter := n })
       if n = 0 then t.alignmentLost id else t) := rfl

@[simp] theorem setLink_dev (s : State) (id : LinkId) (x : Link) : (s.setLink id x).dev = s.dev := rfl

@[simp] theorem setLink_agent (s : State) (id : LinkId) (x : Link) : (s.setLink id x).agent = s.agent := rfl

@[simp] theorem setLink_pending (s : State) (id : LinkId) (x : Link) : (s.setLink id x).pending = s.pending := rfl

@[simp] theorem count_dev (s : State) (id : LinkId) (f : LinkCounters → LinkCounters) : (s.count id f).dev = s.dev := rfl

@[simp] theorem count_agent (s : State) (id : LinkId) (f : LinkCounters → LinkCounters) :
    (s.count id f).agent = s.agent := rfl

@[simp] theorem count_pending (s : State) (id : LinkId) (f : LinkCounters → LinkCounters) :
    (s.count id f).pending = s.pending := rfl

/-! ## The queue of commands (log entry 2) -/

@[simp] theorem requestStep_pending (kind : Byte) (op : Op) (s : State) :
    (requestStep kind op s).pending = s.pending := by
  unfold requestStep
  split
  · rfl
  · split <;> rfl

@[simp] theorem actionStep_pending (kind : Byte) (op : Op) (s : State) :
    (actionStep kind op s).pending = s.pending := by
  unfold actionStep
  split
  · rfl
  · dsimp only
    split <;> rfl

@[simp] theorem viaStep_pending (via : Via) (kind : Byte) (op : Op) (s : State) :
    (viaStep via kind op s).pending = s.pending := by
  cases via
  · exact requestStep_pending ..
  · exact actionStep_pending ..

/-- With the Agent blocked a request step does nothing (R189). -/
theorem requestStep_of_blocked {kind : Byte} {op : Op} {s : State} (h : s.agent.take = none) :
    requestStep kind op s = s := by
  simp [requestStep, h]

/-- The Agent takes no request with a full reply queue, in a reset wait, or with none held (R189). -/
theorem take_none {a : Agent} (h : 8 ≤ a.replies.length ∨ a.resetWait = true ∨ a.requests = []) : a.take = none := by
  unfold Agent.take
  cases hq : a.requests with
  | nil => rfl
  | cons r rest =>
    have hr : a.ready = false := by
      rcases h with h | h | h
      · simp [Agent.ready, Nat.not_lt.mpr h]
      · simp [Agent.ready, h]
      · rw [hq] at h; cases h
    simp [hr]

end Sys2Proof.Machine
end

