-- ==== Sys2Proof/Laws/BlockLanes.lean ====
section
/-!
SUPPORT. What a block in progress leaves of every lane: all but its state, its amplitude and its voices; no start becomes
pending; and only a whole sample adds to the output. Each operation of a block has its one lemma.
-/
namespace Sys2Proof.Machine

/-- The lane with only state, amplitude and voices as in another. -/
def Lane.playedAs (x y : Lane) : Lane :=
  { x with state := y.state, ampNow := y.ampNow, ampTarget := y.ampTarget, rampLeft := y.rampLeft, rampDue := y.rampDue,
           voices := y.voices }

/-- From `d` to `e` lanes were only played, and no start became pending. -/
structure Device.Sounds (d e : Device) : Prop where
  lane    : ∀ m, e.lane m = (d.lane m).playedAs (e.lane m)
  pending : ∀ m w, (e.voice m w).pending = (d.voice m w).pending ∨ (e.voice m w).pending = none

theorem Device.Sounds.refl (d : Device) : d.Sounds d := ⟨fun _ => rfl, fun _ _ => .inl rfl⟩

theorem Device.Sounds.trans {a b c : Device} (h : a.Sounds b) (g : b.Sounds c) : a.Sounds c := by
  refine ⟨fun m => ?_, fun m w => ?_⟩
  · have h1 := h.lane m
    have h2 := g.lane m
    generalize c.lane m = z at *
    generalize b.lane m = y at *
    rw [h2, h1]
    rfl
  · rcases g.pending m w with g | g
    · rw [g]; exact h.pending m w
    · exact .inr g

/-- Lanes untouched. -/
theorem sounds_of_lanes {d e : Device} (h : e.lanes = d.lanes) : d.Sounds e := by
  have hl : ∀ m, e.lane m = d.lane m := fun m => by unfold Device.lane; rw [h]
  refine ⟨fun m => ?_, fun m w => ?_⟩
  · rw [hl]; rfl
  · unfold Device.voice; rw [hl]; exact .inl rfl

/-- One lane played. -/
theorem sounds_updLane (d : Device) (l : Fin 8) (f : Lane → Lane) (h : ∀ x, f x = x.playedAs (f x))
    (hp : ∀ x w, ((f x).voices.get w).pending = (x.voices.get w).pending ∨ ((f x).voices.get w).pending = none) :
    d.Sounds (d.updLane l f) := by
  refine ⟨fun m => ?_, fun m w => ?_⟩
  · by_cases hm : m = l
    · subst hm; rw [lane_updLane_same]; exact h _
    · rw [lane_updLane_of_ne d f hm]; rfl
  · by_cases hm : m = l
    · subst hm; unfold Device.voice; rw [lane_updLane_same]; exact hp _ _
    · unfold Device.voice; rw [lane_updLane_of_ne d f hm]; exact .inl rfl

theorem sounds_setVoice (d : Device) (l : Fin 8) (v : Fin 4) (x : Voice)
    (h : x.pending = (d.voice l v).pending ∨ x.pending = none) : d.Sounds (d.setVoice l v x) := by
  refine ⟨fun m => ?_, fun m w => ?_⟩
  · by_cases hm : m = l
    · subst hm; rw [lane_setVoice_same]; rfl
    · rw [lane_setVoice_of_ne d v x hm]; rfl
  · by_cases hm : m = l
    · subst hm
      by_cases hw : w = v
      · subst hw; rw [voice_setVoice_same]; exact h
      · rw [voice_setVoice_of_ne d m x hw]; exact .inl rfl
    · unfold Device.voice; rw [lane_setVoice_of_ne d v x hm]; exact .inl rfl

theorem sounds_updVoice (d : Device) (l : Fin 8) (v : Fin 4) (f : Voice → Voice)
    (h : ∀ x, (f x).pending = x.pending ∨ (f x).pending = none) : d.Sounds (d.updVoice l v f) :=
  sounds_setVoice d l v _ (h _)

/-- From `k` to `m` the block went on within one sample: lanes were only played, and no output sample was made or found saturated. -/
structure Block.Works (k m : Block) : Prop where
  sounds    : k.dev.Sounds m.dev
  out       : m.out = k.out
  saturated : m.saturated = k.saturated

theorem Block.Works.refl (k : Block) : k.Works k := ⟨.refl _, rfl, rfl⟩

theorem Block.Works.trans {a b c : Block} (h : a.Works b) (g : b.Works c) : a.Works c :=
  ⟨h.sounds.trans g.sounds, g.out.trans h.out, g.saturated.trans h.saturated⟩

/-! ## Operations of a block in progress -/

theorem works_endSegment (k : Block) (l : Fin 8) (v : Fin 4) (c : EndCause) : k.Works (k.endSegment l v c) := by
  refine ⟨?_, ?_, ?_⟩
  · rw [block_endSegment_dev]; exact sounds_updVoice _ _ _ _ fun _ => .inl rfl
  all_goals
    unfold Block.endSegment
    dsimp only
    cases k.cursors.get v <;> rfl

theorem works_failSegment (k : Block) (l : Fin 8) (v : Fin 4) (g : Fin 1024) (c : EndCause) :
    k.Works (k.failSegment l v g c) :=
  ⟨sounds_updVoice k.dev l v (·.ended c) fun _ => .inl rfl, rfl, rfl⟩

theorem works_play (k : Block) (l : Fin 8) (v : Fin 4) (g : Fin 1024) (b : Option Binding) : k.Works (k.play l v g b) :=
  ⟨sounds_updVoice k.dev l v (·.begins g (k.dev.segment g) b) fun _ => .inl rfl, rfl, rfl⟩

theorem works_begin (k : Block) (l : Fin 8) (v : Fin 4) (t : Nat) (g : Fin 1024) (c : Option (Fin 16 × Nat)) :
    k.Works (k.begin l v t g c) := by
  unfold Block.begin
  generalize hk : ({ k with dev := k.dev.causePulse (.segmentEdgePulse l) (k.dev.sampleClock l t) } : Block) = m
  have h : k.Works m := by rw [← hk]; exact ⟨sounds_of_lanes rfl, rfl, rfl⟩
  refine h.trans ?_
  dsimp only
  split
  · exact works_failSegment ..
  · exact works_play ..
  · split
    · exact works_play ..
    · exact works_failSegment ..
  · split
    · exact works_failSegment ..
    · rename_i s i
      exact Block.Works.trans (b := { m with dev := m.dev.bindReader s i }) ⟨sounds_of_lanes rfl, rfl, rfl⟩ (works_play ..)

theorem works_chain (k : Block) (l : Fin 8) (v : Fin 4) (t : Nat) (g : Fin 1024) : k.Works (k.chain l v t g) := by
  unfold Block.chain
  dsimp only
  split
  · generalize hk : ({ k with dev := k.dev.setSlot _ _ } : Block) = m
    have h : k.Works m := by rw [← hk]; exact ⟨sounds_of_lanes rfl, rfl, rfl⟩
    exact h.trans (works_begin ..)
  · exact works_begin ..

theorem works_finish (k : Block) (l : Fin 8) (v : Fin 4) (t : Nat) : k.Works (k.finish l v t) := by
  unfold Block.finish
  dsimp only
  split
  · exact works_endSegment ..
  · exact (works_endSegment ..).trans (works_chain ..)

theorem works_takeDue (k : Block) (l : Fin 8) (v : Fin 4) (t : Nat) : k.Works (k.takeDue l v t) := by
  unfold Block.takeDue
  split
  · exact .refl _
  · exact works_finish ..
  · generalize hk : ({ k with dev := k.dev.updVoice l v _ } : Block) = m
    have h : k.Works m := by rw [← hk]; exact ⟨sounds_updVoice k.dev l v (fun x => { x with due := .none }) fun _ => .inl rfl, rfl, rfl⟩
    exact h.trans (works_chain ..)

theorem works_applyStart (k : Block) (l : Fin 8) (v : Fin 4) (t : Nat) (g : Fin 1024) (c : Option (Fin 16 × Nat)) :
    k.Works (k.applyStart l v t g c) := by
  unfold Block.applyStart
  dsimp only
  generalize hk : ({ k with dev := (k.dev.causePulse (.voiceStartPulse l) (k.dev.sampleClock l t)).updVoice l v _ } : Block) = m
  have h : k.Works m := by
    rw [← hk]
    exact ⟨(sounds_of_lanes (d := k.dev) (e := k.dev.causePulse (.voiceStartPulse l) (k.dev.sampleClock l t)) rfl).trans
      (sounds_updVoice _ l v (fun x => { x with pending := none }) fun _ => .inr rfl), rfl, rfl⟩
  refine h.trans ?_
  split
  · exact (works_endSegment ..).trans (works_begin ..)
  · exact works_begin ..

theorem works_applyStop (k : Block) (l : Fin 8) (v : Fin 4) (m : Mode) : k.Works (k.applyStop l v m) := by
  unfold Block.applyStop
  dsimp only
  split
  · split
    · exact works_endSegment ..
    · exact ⟨sounds_setVoice k.dev l v { k.dev.voice l v with state := .fading, stopFade := _ } (.inl rfl), rfl, rfl⟩
  · exact .refl _
  all_goals first | exact works_endSegment .. | exact .refl _

theorem works_applyGain (k : Block) (l : Fin 8) (v : Fin 4) (g : Int) (r : Nat) : k.Works (k.applyGain l v g r) := by
  have h (x : Voice) (hx : x.pending = (k.dev.voice l v).pending) : k.Works { k with dev := k.dev.setVoice l v x } :=
    ⟨sounds_setVoice k.dev l v x (.inl hx), rfl, rfl⟩
  unfold Block.applyGain
  dsimp only
  split
  all_goals first | exact h _ rfl | exact .refl _

theorem playedAs_softFreeze (x : Lane) : x.softFreeze = x.playedAs x.softFreeze := by
  unfold Lane.softFreeze Lane.playedAs
  split <;> rfl

theorem voices_softFreeze (x : Lane) : x.softFreeze.voices = x.voices := by
  unfold Lane.softFreeze
  split <;> rfl

/-- An entry of the schedule applied at its sample. -/
theorem works_apply (k : Block) (l : Fin 8) (t : Nat) (e : Entry) : k.Works (k.apply l t e) := by
  unfold Block.apply
  split
  · exact works_applyStart ..
  · exact works_applyStop ..
  · exact works_applyGain ..
  · exact ⟨sounds_updLane _ _ _ playedAs_softFreeze fun x w => .inl (by rw [voices_softFreeze]), rfl, rfl⟩
  · exact .refl _

theorem pending_stepSample (x : Voice) (f : Fixed) : (x.stepSample f).pending = x.pending := by
  have fade : ∀ y : Voice, y.fade.pending = y.pending := by
    intro y; unfold Voice.fade; split <;> rfl
  have adv : ∀ y : Voice, (y.advance f).pending = y.pending := by
    intro y
    unfold Voice.advance
    split
    · rfl
    · split
      · rfl
      · split
        · rfl
        · split <;> rfl
  unfold Voice.stepSample
  rw [fade, adv]

theorem works_emit (k : Block) (l : Fin 8) (v : Fin 4) (f : Fixed) (x : Sample) : k.Works (k.emit l v f x).1 :=
  ⟨sounds_setVoice k.dev l v ((k.dev.voice l v).stepSample f) (.inl (pending_stepSample ..)), rfl, rfl⟩

theorem works_streamFinished (k : Block) (l : Fin 8) (v : Fin 4) : k.Works (k.streamFinished l v) := by
  unfold Block.streamFinished
  dsimp only
  split
  · exact works_endSegment ..
  · refine (works_endSegment k l v (k.dev.voice l v).finishCause).trans ⟨?_, rfl, rfl⟩
    rename_i g _
    exact sounds_updVoice _ l v (fun y => { y with state := .playing, due := .chain g }) fun _ => .inl rfl

theorem works_readSample (k : Block) (l : Fin 8) (v : Fin 4) (f : Fixed) (c : Cursor) (x : Sample) (b : Bool) :
    k.Works (k.readSample l v f c x b).1 := by
  have h : k.Works (Block.emit { k with cursors := put k.cursors v (some (c.advance b)) } l v f x).1 :=
    Block.Works.trans (b := { k with cursors := put k.cursors v (some (c.advance b)) }) ⟨.refl _, rfl, rfl⟩ (works_emit ..)
  unfold Block.readSample
  dsimp only
  split
  · exact h.trans (works_streamFinished ..)
  · exact h

theorem works_stall (k : Block) (l : Fin 8) (v : Fin 4) (c : Cursor) : k.Works (k.stall l v c) := by
  unfold Block.stall
  dsimp only
  split
  · exact works_endSegment ..
  · exact ⟨sounds_setVoice k.dev l v { k.dev.voice l v with state := .stalled } (.inl rfl), rfl, rfl⟩

theorem works_readStream (k : Block) (l : Fin 8) (v : Fin 4) (f : Fixed) (c : Cursor) :
    k.Works (k.readStream l v f c).1 := by
  unfold Block.readStream
  dsimp only
  split
  · exact works_readSample ..
  · exact works_readSample ..
  · split
    · exact works_readSample ..
    · exact works_stall ..

theorem works_voiceSample (fuel : Nat) (k : Block) (l : Fin 8) (v : Fin 4) (t : Nat) :
    k.Works (Block.voiceSample fuel k l v t).1 := by
  induction fuel generalizing k with
  | zero => exact .refl _
  | succ fuel ih =>
    unfold Block.voiceSample
    dsimp only
    split
    · exact .refl _
    · split
      · split
        · split
          · exact (works_finish ..).trans (ih _)
          · exact works_readStream ..
        · split
          · exact works_emit ..
          · exact works_emit ..
      · exact .refl _

theorem works_sumVoices (k : Block) (l : Fin 8) (t : Nat) : k.Works (k.sumVoices l t).1 := by
  unfold Block.sumVoices
  refine foldl_keeps (fun x : Block × Val × Val => k.Works x.1) _ ?_ _ _ (.refl _)
  intro x v hx
  obtain ⟨m, i, q⟩ := x
  have h := Block.Works.trans hx (works_voiceSample 3 m l v t)
  dsimp only
  split
  · exact ⟨h.sounds, h.out, h.saturated⟩
  · exact h

/-! ## A sample and a block -/

/-- The master amplitude moves one step to its target, and ramp remaining falls by one (R31). -/
theorem stepMaster_eq (x : Lane) : x.stepMaster = { x with
    ampNow := match x.rampLeft with
      | 0 => x.ampNow
      | 1 => x.ampTarget
      | m + 2 => addVal (scaleVal (m + 1) (m + 2) x.ampNow) (scaleVal 1 (m + 2) x.ampTarget)
    rampLeft := x.rampLeft - 1 } := by
  unfold Lane.stepMaster rampStep
  cases x.rampLeft with
  | zero => rfl
  | succ n => cases n <;> rfl

/-- One voice added to the sum of those before it (R43). -/
def Block.addVoice (l : Fin 8) (t : Nat) (a : Block × Val × Val) (v : Fin 4) : Block × Val × Val :=
  let r := Block.voiceSample 3 a.1 l v t
  ({ r.1 with powers := if (r.1.dev.meter l).source = .voice v then r.1.powers ++ [r.2.power] else r.1.powers },
    addVal a.2.1 r.2.i, addVal a.2.2 r.2.q)

/-- The four voices are added from 0 to 3. -/
theorem sumVoices_eq (k : Block) (l : Fin 8) (t : Nat) :
    k.sumVoices l t = (List.finRange 4).foldl (Block.addVoice l t) (k, Val.zero, Val.zero) := by
  unfold Block.sumVoices
  congr 1
  funext a v
  obtain ⟨k, i, q⟩ := a
  unfold Block.addVoice
  dsimp only
  generalize Block.voiceSample 3 k l v t = r
  obtain ⟨k, c⟩ := r
  have h : (k.dev.meter l).source.isVoice v = decide ((k.dev.meter l).source = .voice v) := by
    unfold MeterSource.isVoice
    split <;> simp_all
  dsimp only
  rw [h]
  by_cases h : (k.dev.meter l).source = .voice v <;> simp [h]

theorem playedAs_stepMaster (x : Lane) : x.stepMaster = x.playedAs x.stepMaster := rfl

/-- The block of a sample before it is output: what is due, and the entries of the sample. -/
def Block.prepared (l : Fin 8) (b : Nat) (es : List Entry) (k : Block) (n : Nat) : Block :=
  (entriesAt es b (b + n)).foldl (fun k e => k.apply l (b + n) e)
    ((List.finRange 4).foldl (fun k v => k.takeDue l v (b + n)) k)

theorem works_prepared (l : Fin 8) (b : Nat) (es : List Entry) (k : Block) (n : Nat) :
    k.Works (Block.prepared l b es k n) :=
  foldl_keeps (fun x : Block => k.Works x) _ (fun _ _ hx => hx.trans (works_apply ..)) _ _
    (foldl_keeps (fun x : Block => k.Works x) _ (fun _ _ hx => hx.trans (works_takeDue ..)) _ _ (.refl _))

/-- A sample in its two parts: the voices added up on the block prepared, and the output. -/
theorem sample_eq (l : Fin 8) (b : Nat) (es : List Entry) (k : Block) (n : Nat) :
    Block.sample l b es k n =
      let s := (Block.prepared l b es k n).sumVoices l (b + n)
      let o := (s.1.dev.lane l).output s.2.1 s.2.2
      { s.1 with
        dev := s.1.dev.updLane l Lane.stepMaster, out := s.1.out ++ [o.1], saturated := s.1.saturated || o.2 } := by
  unfold Block.sample Block.prepared
  dsimp only

/-- A whole sample outputs one sample. -/
theorem sounds_sample (l : Fin 8) (b : Nat) (es : List Entry) (k : Block) (n : Nat) :
    k.dev.Sounds (k.sample l b es n).dev ∧ (k.sample l b es n).out.length = k.out.length + 1 := by
  rw [sample_eq]
  have h := (works_prepared l b es k n).trans (works_sumVoices (Block.prepared l b es k n) l (b + n))
  refine ⟨h.sounds.trans (sounds_updLane _ _ _ playedAs_stepMaster fun _ _ => .inl rfl), ?_⟩
  simp [h.out]

theorem works_retry (k : Block) (l : Fin 8) (v : Fin 4) : k.Works (k.retry l v) := by
  unfold Block.retry
  dsimp only
  split
  · split
    · exact .refl _
    · split
      · exact ⟨sounds_setVoice k.dev l v { k.dev.voice l v with due := .ended } (.inl rfl), rfl, rfl⟩
      · split
        · exact ⟨.refl _, rfl, rfl⟩
        · exact ⟨sounds_setVoice k.dev l v { k.dev.voice l v with state := .playing } (.inl rfl), rfl, rfl⟩
  · exact .refl _

theorem pending_takeHot (x : Voice) (g : Segment) : (x.takeHot g).pending = x.pending := by
  unfold Voice.takeHot
  split
  · rfl
  · dsimp only
    split <;> rfl

theorem sounds_takeHot (d : Device) (l : Fin 8) : d.Sounds (d.takeHot l) := by
  refine sounds_updLane d l _ (fun _ => rfl) fun x w => .inl ?_
  simp only [get_map]
  split
  · rfl
  · exact pending_takeHot ..

theorem playedAs_settleMaster (x : Lane) : x.settleMaster = x.playedAs x.settleMaster := rfl

theorem voices_settleMaster (x : Lane) : x.settleMaster.voices = x.voices := rfl

/-- Samples one after another play the lanes alone, and output one sample each. -/
theorem sounds_samples (l : Fin 8) (b : Nat) (es : List Entry) (ns : List Nat) (k : Block) :
    k.dev.Sounds (ns.foldl (Block.sample l b es) k).dev ∧
      (ns.foldl (Block.sample l b es) k).out.length = k.out.length + ns.length := by
  induction ns generalizing k with
  | nil => exact ⟨.refl _, rfl⟩
  | cons n ns ih =>
    obtain ⟨h1, h2⟩ := sounds_sample l b es k n
    obtain ⟨h3, h4⟩ := ih (k.sample l b es n)
    rw [List.foldl_cons]
    refine ⟨h1.trans h3, ?_⟩
    rw [h4, h2, List.length_cons]
    omega

/-- A lane computing a block plays its lanes alone, and outputs 64 samples. -/
theorem sounds_computeBlock (d : Device) (l : Fin 8) (es : List Entry) :
    d.Sounds (d.computeBlock l es).dev ∧ (d.computeBlock l es).out.length = 64 := by
  unfold Device.computeBlock
  dsimp only
  generalize hk : (List.finRange 4).foldl (fun (k : Block) v => k.retry l v) _ = m
  have h : d.Sounds m.dev ∧ m.out = [] := by
    rw [← hk]
    refine foldl_keeps (fun x : Block => d.Sounds x.dev ∧ x.out = []) (fun k v => k.retry l v)
      (fun (k : Block) v hx => ?_) _ _ ⟨?_, rfl⟩
    · exact ⟨hx.1.trans (works_retry k l v).sounds, (works_retry k l v).out.trans hx.2⟩
    · exact (sounds_takeHot d l).trans (sounds_updLane _ _ _ playedAs_settleMaster
        fun x w => .inl (by rw [voices_settleMaster]))
  obtain ⟨h1, h2⟩ := sounds_samples l (d.lane l).time es (List.range 64) m
  exact ⟨h.1.trans h1, by rw [h2, h.2, List.length_range]; rfl⟩

/-! ## The boundary (R41) -/

@[simp] theorem setLane_setLane (d : Device) (l : Fin 8) (x y : Lane) : (d.setLane l x).setLane l y = d.setLane l y := by
  unfold Device.setLane
  dsimp only
  rw [put_put]

/-- No hard freeze is due where each of the schedule stands later. -/
theorem dropHardFreeze_of_later {b : Nat} {es : List Entry}
    (h : ∀ e ∈ es, e.kind = .laneFreeze .hard → b < e.stamp) : dropHardFreeze b es = none := by
  induction es with
  | nil => rfl
  | cons e es ih =>
    unfold dropHardFreeze
    rw [if_neg, ih fun x hx => h x (List.mem_cons_of_mem _ hx)]
    · rfl
    · simp only [Entry.hardFreezeBy, Bool.and_eq_true, decide_eq_true_eq, not_and]
      intro hk
      have := h e List.mem_cons_self hk
      omega

/-- The release of quiet touches the two quiet flags alone. -/
theorem releaseQuiet_eq (x : Lane) :
    x.releaseQuiet = { x with quiet := x.releaseQuiet.quiet, quietPendingOff := x.releaseQuiet.quietPendingOff } := by
  unfold Lane.releaseQuiet
  split <;> rfl

/-- A boundary with no freeze to do computes a block of the entries it takes. -/
theorem boundary_runs (d : Device) (l : Fin 8) (hs : (d.lane l).state = .freezing → (d.lane l).rampLeft ≠ 0)
    (hf : ∀ e ∈ (d.lane l).schedule, e.kind = .laneFreeze .hard → (d.lane l).time < e.stamp) :
    d.boundary l =
      ((d.setLane l
          { (d.lane l).releaseQuiet with
            schedule := (d.lane l).schedule.dropWhile (·.takenBy (d.lane l).time) }).computeBlock l
        ((d.lane l).schedule.takeWhile (·.takenBy (d.lane l).time))).complete l (d.lane l).time := by
  unfold Device.boundary
  simp only [Device.updLane, lane_setLane_same]
  rw [releaseQuiet_eq]
  dsimp only
  rw [if_neg (fun h => hs h.1 h.2), dropHardFreeze_of_later hf]
  unfold Device.runBlock
  simp only [lane_setLane_same, setLane_setLane]

end Sys2Proof.Machine
end

