-- ==== Sys2Proof/Laws/Edges.lean ====
section
/-!
SUPPORT. Block edges (R33; log entry 32): where the next edge of a domain lies, and what a lane that takes it changes.
-/
namespace Sys2Proof.Machine

theorem blockPeriod_pos (rate : Nat) : 0 < blockPeriod rate := by
  have : 0 < dividerOf rate := by unfold dividerOf; split <;> omega
  unfold blockPeriod Config.unitsPerCycle
  omega

/-- An edge lies a whole number of block periods, at least one, after the domain became READY. -/
theorem edgeFrom_eq (x : Domain) (moment : Nat) :
    ∃ k, 1 ≤ k ∧ x.edgeFrom moment = x.readyAt + k * blockPeriod x.rate :=
  ⟨_, Nat.le_max_left .., rfl⟩

/-- The edge is not before the moment. -/
theorem le_edgeFrom (x : Domain) (moment : Nat) : moment ≤ x.edgeFrom moment := by
  unfold Domain.edgeFrom
  dsimp only
  have hp := blockPeriod_pos x.rate
  generalize blockPeriod x.rate = p at *
  have h1 : (moment - x.readyAt + (p - 1)) / p * p + (moment - x.readyAt + (p - 1)) % p = _ := Nat.div_add_mod' ..
  have h2 := Nat.mod_lt (moment - x.readyAt + (p - 1)) hp
  have h3 : (moment - x.readyAt + (p - 1)) / p * p ≤ max 1 ((moment - x.readyAt + (p - 1)) / p) * p :=
    Nat.mul_le_mul_right _ (Nat.le_max_right ..)
  omega

/-- No edge lies between the moment and it. -/
theorem edgeFrom_least (x : Domain) (moment k : Nat) (hk : 1 ≤ k) (h : moment ≤ x.readyAt + k * blockPeriod x.rate) :
    x.edgeFrom moment ≤ x.readyAt + k * blockPeriod x.rate := by
  unfold Domain.edgeFrom
  dsimp only
  have hp := blockPeriod_pos x.rate
  generalize blockPeriod x.rate = p at *
  apply Nat.add_le_add_left
  apply Nat.mul_le_mul_right
  refine Nat.max_le.mpr ⟨hk, ?_⟩
  apply Nat.le_of_lt_succ
  rw [Nat.div_lt_iff_lt_mul hp, Nat.succ_mul]
  omega

theorem now_le_nextEdge (d : Device) (l : Fin 8) : d.now ≤ d.nextEdge l :=
  Nat.le_trans (Nat.le_max_left ..) (le_edgeFrom ..)

/-- A lane takes no edge twice. -/
theorem lastEdge_lt_nextEdge (d : Device) (l : Fin 8) : (d.lane l).lastEdge < d.nextEdge l :=
  Nat.lt_of_lt_of_le (Nat.lt_succ_self _) (Nat.le_trans (Nat.le_max_right ..) (le_edgeFrom ..))

/-- Taking an edge moves the clock up to it and notes it in the lane, and changes nothing else. -/
theorem takeEdge_eq (d : Device) (l : Fin 8) :
    d.takeEdge l =
      ({ d with now := d.nextEdge l }).setLane l { d.lane l with lastEdge := d.nextEdge l } := by
  simp only [Device.takeEdge, Device.updLane, Device.reach, Nat.max_eq_right (now_le_nextEdge d l)]
  rfl

/-- The next edge of the model is the one that the rule gives, and no other moment is (R33). -/
theorem isNextEdge_iff (d : Device) (l : Fin 8) (e : Nat) : isNextEdge d l e ↔ e = d.nextEdge l := by
  change (let x := d.domain (d.lane l).domain
    let edge (k : Nat) : Nat := x.readyAt + k * blockPeriod x.rate
    (∃ k, 1 ≤ k ∧ e = edge k) ∧ d.now ≤ e ∧ (d.lane l).lastEdge < e ∧
      ∀ k, 1 ≤ k → d.now ≤ edge k → (d.lane l).lastEdge < edge k → e ≤ edge k) ↔ _
  dsimp only
  constructor
  · rintro ⟨⟨k, hk, rfl⟩, hn, hl, least⟩
    apply Nat.le_antisymm
    · obtain ⟨j, hj, he⟩ := edgeFrom_eq (d.domain (d.lane l).domain) (max d.now ((d.lane l).lastEdge + 1))
      unfold Device.nextEdge
      rw [he]
      apply least j hj
      · rw [← he]; exact now_le_nextEdge d l
      · rw [← he]; exact lastEdge_lt_nextEdge d l
    · exact edgeFrom_least _ _ k hk (Nat.max_le.mpr ⟨hn, hl⟩)
  · rintro rfl
    exact ⟨edgeFrom_eq .., now_le_nextEdge d l, lastEdge_lt_nextEdge d l,
      fun k hk hn hl => edgeFrom_least _ _ k hk (Nat.max_le.mpr ⟨hn, hl⟩)⟩

/-- A lane that takes its next edge, in the words of the statements. -/
theorem takeEdge_eq_atEdge (d : Device) (l : Fin 8) : d.takeEdge l = d.atEdge l (d.nextEdge l) (d.lane l) :=
  takeEdge_eq d l

/-- Before a lane's block the clock moves up to its edge: what plays on from there. -/
theorem plays_takeEdge (d : Device) (l : Fin 8) : ({ d with now := d.nextEdge l } : Device).Plays (d.takeEdge l) := by
  rw [takeEdge_eq]
  exact plays_setLane ..

end Sys2Proof.Machine
end

