-- ==== Sys2Proof/Laws/Memory.lean ====
section
/-!
SUPPORT. Clip memory: every write keeps the canonical form, a byte written reads as written, and every other byte reads
as before.
-/
namespace Sys2Proof.Machine

theorem memRises_mono {low high : Nat} (m : List Host.Cell) (h : high ≤ low) (hm : memRises low m = true) :
    memRises high m = true := by
  cases m with
  | nil => rfl
  | cons c rest =>
    obtain ⟨b, x⟩ := c
    simp only [memRises, Bool.and_eq_true, decide_eq_true_eq] at hm ⊢
    exact ⟨⟨Nat.le_trans h hm.1.1, hm.1.2⟩, hm.2⟩

theorem memRises_place {low a : Nat} (x : Byte) (m : List Host.Cell) (hl : low ≤ a) (ha : a < memoryEnd)
    (hm : memRises low m = true) : memRises low (memPlace a x m) = true := by
  induction m generalizing low with
  | nil => simp [memPlace, memRises, hl, ha]
  | cons c rest ih =>
    obtain ⟨b, y⟩ := c
    simp only [memRises, Bool.and_eq_true, decide_eq_true_eq] at hm
    unfold memPlace
    split
    · simp only [memRises, Bool.and_eq_true, decide_eq_true_eq]
      exact ⟨⟨hl, ha⟩, ⟨by omega, hm.1.2⟩, hm.2⟩
    · split
      · subst_vars
        simp only [memRises, Bool.and_eq_true, decide_eq_true_eq]
        exact ⟨⟨hl, ha⟩, hm.2⟩
      · simp only [memRises, Bool.and_eq_true, decide_eq_true_eq]
        exact ⟨hm.1, ih (by omega) hm.2⟩

/-- A byte written keeps the canonical form. -/
theorem wf_memWrite (m : List Host.Cell) (a : Nat) (x : Byte) (h : Memory.wf m = true) :
    Memory.wf (memWrite m a x) = true := by
  unfold memWrite
  split
  · exact memRises_place x m (Nat.zero_le a) ‹_› h
  · exact h

/-- A run written keeps the canonical form. -/
theorem wf_memWriteRun (m : List Host.Cell) (a : Nat) (bytes : List Byte) (h : Memory.wf m = true) :
    Memory.wf (memWriteRun m a bytes) = true := by
  induction bytes generalizing m a with
  | nil => exact h
  | cons x xs ih => exact ih _ _ (wf_memWrite m a x h)

theorem memRead_place_same (n a : Nat) (x : Byte) (m : List Host.Cell) : memRead n (memPlace a x m) a = x := by
  induction m with
  | nil => simp [memPlace, memRead]
  | cons c rest ih =>
    obtain ⟨b, y⟩ := c
    unfold memPlace
    split
    · simp [memRead]
    · split
      · simp [memRead]
      · simp [memRead, ‹¬a = b›, ih]

theorem memRead_place_of_ne (n : Nat) {a b : Nat} (x : Byte) (m : List Host.Cell) (h : b ≠ a) :
    memRead n (memPlace a x m) b = memRead n m b := by
  induction m with
  | nil => simp [memPlace, memRead, h]
  | cons c rest ih =>
    obtain ⟨e, y⟩ := c
    unfold memPlace
    split
    · simp [memRead, h]
    · split
      · subst_vars; simp [memRead, h]
      · simp [memRead, ih]

/-- A byte written within clip memory reads as written. -/
theorem memRead_write_same (n : Nat) (m : List Host.Cell) {a : Nat} (x : Byte) (h : a < memoryEnd) :
    memRead n (memWrite m a x) a = x := by
  simp [memWrite, h, memRead_place_same]

/-- Every other byte reads as before. -/
theorem memRead_write_of_ne (n : Nat) (m : List Host.Cell) {a b : Nat} (x : Byte) (h : b ≠ a) :
    memRead n (memWrite m a x) b = memRead n m b := by
  unfold memWrite
  split
  · exact memRead_place_of_ne n x m h
  · rfl

/-- A byte outside a run written reads as before. -/
theorem memRead_run_outside (n : Nat) (m : List Host.Cell) (a b : Nat) (bytes : List Byte)
    (h : b < a ∨ a + bytes.length ≤ b) : memRead n (memWriteRun m a bytes) b = memRead n m b := by
  induction bytes generalizing m a with
  | nil => rfl
  | cons x xs ih =>
    simp only [List.length_cons] at h
    rw [memWriteRun, ih _ _ (by omega), memRead_write_of_ne n m x (by omega)]

/-- A byte of a run written within clip memory reads as written. -/
theorem memRead_run_inside (n : Nat) (m : List Host.Cell) (a k : Nat) (bytes : List Byte) (hk : k < bytes.length)
    (he : a + bytes.length ≤ memoryEnd) : memRead n (memWriteRun m a bytes) (a + k) = bytes.getD k 0 := by
  induction bytes generalizing m a k with
  | nil => simp at hk
  | cons x xs ih =>
    simp only [List.length_cons] at hk he
    cases k with
    | zero =>
      rw [memWriteRun, memRead_run_outside n _ _ _ _ (by omega)]
      simpa using memRead_write_same n m x (by omega)
    | succ k =>
      have := ih (memWrite m a x) (a + 1) k (by omega) (by omega)
      rw [memWriteRun, show a + (k + 1) = a + 1 + k by omega, this]
      simp

/-- The memory of a cold reset, with nothing listed, has the canonical form. -/
theorem wf_nil : Memory.wf [] = true := rfl

end Sys2Proof.Machine
end

