-- ==== Sys2Proof/Laws/Pages.lean ====
section
/-!
SUPPORT. The Free Extent List: the walk of an allocation takes what it is asked for and moves no page (R103), a returned
extent joins the list with its pages (R104), and both keep the list's law (R102). A unit reset gives back the pages and the
load slots of the LOADING clips (R120).
-/
namespace Sys2Proof.Machine

theorem covers_cons (x : Extent) (xs : List Extent) (page : Nat) :
    covers (x :: xs) page = (if x.start ≤ page ∧ page < x.start + x.count then 1 else 0) + covers xs page := by
  unfold covers
  by_cases h : x.start ≤ page ∧ page < x.start + x.count
  · simp [List.filter, h]; omega
  · have hb : (decide (x.start ≤ page) && decide (page < x.start + x.count)) = false := by
      rw [← Bool.not_eq_true, Bool.and_eq_true, decide_eq_true_eq, decide_eq_true_eq]
      exact h
    rw [List.filter_cons, hb, if_neg h]
    simp

@[simp] theorem covers_nil (page : Nat) : covers [] page = 0 := rfl

theorem covers_append (xs ys : List Extent) (page : Nat) : covers (xs ++ ys) page = covers xs page + covers ys page := by
  simp [covers]

@[simp] theorem pagesOf_cons (x : Extent) (xs : List Extent) : pagesOf (x :: xs) = x.count + pagesOf xs := by
  simp [pagesOf]

@[simp] theorem pagesOf_nil : pagesOf [] = 0 := rfl

/-! ## Allocation (R103) -/

/-- Every page is in the extents taken or in the list left as it was in the list before. -/
theorem covers_allocate (need : Nat) (list : List Extent) (page : Nat) :
    covers (allocate need list).1 page + covers (allocate need list).2 page = covers list page := by
  induction list generalizing need with
  | nil => rfl
  | cons x rest ih =>
    unfold allocate
    by_cases h : x.count < need
    · rw [if_pos h]
      have := ih (need - x.count)
      simp only [covers_cons]
      omega
    · rw [if_neg h]
      by_cases e : x.count = need
      · rw [if_pos e]
        simp only [covers_cons, covers_nil]
        omega
      · rw [if_neg e]
        simp only [covers_cons, covers_nil]
        repeat' split
        all_goals omega

/-- A walk over enough pages takes as many as it needs. -/
theorem pagesOf_allocate (need : Nat) (list : List Extent) (h : need ≤ pagesOf list) :
    pagesOf (allocate need list).1 = need := by
  induction list generalizing need with
  | nil => simpa [allocate, eq_comm] using h
  | cons x rest ih =>
    unfold allocate
    rw [pagesOf_cons] at h
    by_cases hx : x.count < need
    · rw [if_pos hx]
      simp only [pagesOf_cons]
      rw [ih _ (by omega)]
      omega
    · rw [if_neg hx]
      by_cases e : x.count = need
      · rw [if_pos e]; simp [e]
      · rw [if_neg e]; simp

/-- A walk over the pages of the first n entries takes at most n extents. -/
theorem length_allocate (n need : Nat) (list : List Extent) (h : need ≤ pagesOf (list.take n)) (hn : 1 ≤ need) :
    (allocate need list).1.length ≤ n := by
  induction list generalizing need n with
  | nil => simp [allocate]
  | cons x rest ih =>
    cases n with
    | zero => simp at h; omega
    | succ n =>
      rw [List.take_succ_cons, pagesOf_cons] at h
      unfold allocate
      by_cases hx : x.count < need
      · rw [if_pos hx]
        have := ih n (need - x.count) (by omega) (by omega)
        simp only [List.length_cons]
        omega
      · rw [if_neg hx]
        by_cases e : x.count = need
        · rw [if_pos e]; simp
        · rw [if_neg e]; simp

/-- The walk: whole entries from the first on while they are fewer than the need, and then the first pages of the next. -/
theorem allocate_walk (need : Nat) (list : List Extent) (hn : 1 ≤ need) (h : need ≤ pagesOf list) :
    ∃ whole x rest, list = whole ++ x :: rest ∧ pagesOf whole < need ∧ need ≤ pagesOf whole + x.count ∧
      allocate need list =
        (whole ++ [{ start := x.start, count := need - pagesOf whole }],
         if need - pagesOf whole = x.count then rest
         else { start := x.start + (need - pagesOf whole), count := x.count - (need - pagesOf whole) } :: rest) := by
  induction list generalizing need with
  | nil => simp at h; omega
  | cons y ys ih =>
    by_cases hy : y.count < need
    · obtain ⟨whole, x, rest, h1, h2, h3, h4⟩ := ih (need - y.count) (by omega) (by simp at h; omega)
      refine ⟨y :: whole, x, rest, by simp [h1], by simp; omega, by simp; omega, ?_⟩
      rw [allocate, if_pos hy, h4]
      have e : need - y.count - pagesOf whole = need - pagesOf (y :: whole) := by simp; omega
      simp only [e, List.cons_append]
    · refine ⟨[], y, ys, rfl, by simp; omega, by simp; omega, ?_⟩
      rw [allocate, if_neg hy]
      by_cases e : y.count = need
      · rw [if_pos e]; cases y; simp_all
      · have e' : ¬ need - pagesOf [] = y.count := fun h => e (by simpa [eq_comm] using h)
        rw [if_neg e, if_neg e']
        rfl

theorem risesApart_mono {low high : Nat} {list : List Extent} (h : low ≤ high) (hl : risesApart high list = true) :
    risesApart low list = true := by
  cases list with
  | nil => rfl
  | cons x rest =>
    simp only [risesApart, Bool.and_eq_true, decide_eq_true_eq] at hl ⊢
    exact ⟨⟨⟨by omega, hl.1.1.2⟩, hl.1.2⟩, hl.2⟩

/-- The list left by an allocation keeps the list's law. -/
theorem risesApart_allocate (need low : Nat) (list : List Extent) (h : risesApart low list = true) :
    risesApart low (allocate need list).2 = true := by
  induction list generalizing need low with
  | nil => rfl
  | cons x rest ih =>
    have hl := h
    simp only [risesApart, Bool.and_eq_true, decide_eq_true_eq] at h
    unfold allocate
    by_cases hx : x.count < need
    · rw [if_pos hx]
      exact risesApart_mono (by omega) (ih (need - x.count) _ h.2)
    · rw [if_neg hx]
      by_cases e : x.count = need
      · rw [if_pos e]
        exact risesApart_mono (by omega) h.2
      · rw [if_neg e]
        simp only [risesApart, Bool.and_eq_true, decide_eq_true_eq]
        refine ⟨⟨⟨by omega, by omega⟩, by omega⟩, ?_⟩
        rw [show x.start + need + (x.count - need) + 1 = x.start + x.count + 1 by omega]
        exact h.2

/-- Every extent that a walk of 1 or more pages takes has a page. -/
theorem count_allocate (need low : Nat) (list : List Extent) (h : risesApart low list = true) (hn : 1 ≤ need) :
    ∀ x ∈ (allocate need list).1, 1 ≤ x.count := by
  induction list generalizing need low with
  | nil => intro x hx; cases hx
  | cons y rest ih =>
    simp only [risesApart, Bool.and_eq_true, decide_eq_true_eq] at h
    unfold allocate
    intro x hx
    by_cases hy : y.count < need
    · rw [if_pos hy] at hx
      rcases List.mem_cons.mp hx with rfl | hx
      · exact h.1.1.2
      · exact ih (need - y.count) _ h.2 (by omega) x hx
    · rw [if_neg hy] at hx
      by_cases e : y.count = need
      · rw [if_pos e] at hx
        rcases List.mem_cons.mp hx with rfl | hx
        · exact h.1.1.2
        · cases hx
      · rw [if_neg e] at hx
        rcases List.mem_cons.mp hx with rfl | hx
        · exact hn
        · cases hx

/-! ## Return (R104) -/

/-- A returned extent adds its pages to the list and moves no other. -/
theorem covers_returnExtent (x : Extent) (list : List Extent) (page : Nat) :
    covers (returnExtent x list) page = covers list page + covers [x] page := by
  induction list with
  | nil => simp [returnExtent]
  | cons y rest ih =>
    unfold returnExtent
    by_cases h1 : y.start + y.count = x.start
    · rw [if_pos h1]
      cases rest with
      | nil =>
        simp only [covers_cons, covers_nil]
        repeat' split
        all_goals omega
      | cons z more =>
        dsimp only
        by_cases h2 : x.start + x.count = z.start
        · rw [if_pos h2]
          simp only [covers_cons, covers_nil]
          repeat' split
          all_goals omega
        · rw [if_neg h2]
          simp only [covers_cons, covers_nil]
          repeat' split
          all_goals omega
    · rw [if_neg h1]
      by_cases h2 : x.start + x.count = y.start
      · rw [if_pos h2]
        simp only [covers_cons, covers_nil]
        repeat' split
        all_goals omega
      · rw [if_neg h2]
        by_cases h3 : x.start < y.start
        · rw [if_pos h3]
          simp only [covers_cons, covers_nil]
          repeat' split
          all_goals omega
        · rw [if_neg h3]
          simp only [covers_cons, covers_nil] at ih ⊢
          omega

/-- Extents returned one after another add their pages to the list. -/
theorem covers_returnAll (extents list : List Extent) (page : Nat) :
    covers (returnAll extents list) page = covers list page + covers extents page := by
  unfold returnAll
  induction extents generalizing list with
  | nil => simp
  | cons x xs ih =>
    rw [List.foldl_cons, ih, covers_returnExtent, covers_cons, covers_cons, covers_nil]
    omega

/-- The list's law with room in front: all entries stand at or above a bound. -/
theorem covers_below {low page : Nat} {list : List Extent} (h : risesApart low list = true) (hp : page < low) :
    covers list page = 0 := by
  induction list generalizing low with
  | nil => rfl
  | cons x rest ih =>
    simp only [risesApart, Bool.and_eq_true, decide_eq_true_eq] at h
    rw [covers_cons, if_neg (by omega), ih h.2 (by omega)]

/-- An extent of 1 or more pages within memory, none of which the list holds, joins the list and the list keeps its law. -/
theorem risesApart_returnExtent (x : Extent) (low : Nat) (list : List Extent) (h : risesApart low list = true)
    (hx : 1 ≤ x.count) (he : x.start + x.count ≤ 65536) (hl : low ≤ x.start)
    (hd : ∀ page, x.start ≤ page → page < x.start + x.count → covers list page = 0) :
    risesApart low (returnExtent x list) = true := by
  induction list generalizing low with
  | nil =>
    simp only [returnExtent, risesApart, Bool.and_eq_true, decide_eq_true_eq]
    exact ⟨⟨⟨hl, hx⟩, he⟩, trivial⟩
  | cons y rest ih =>
    have hfirst := hd x.start (Nat.le_refl _) (by omega)
    have hlast := hd (x.start + x.count - 1) (by omega) (by omega)
    rw [covers_cons] at hfirst hlast
    have hrest : ∀ page, x.start ≤ page → page < x.start + x.count → covers rest page = 0 := by
      intro page h1 h2
      have := hd page h1 h2
      rw [covers_cons] at this
      omega
    have hyx : ∀ page, x.start ≤ page → page < x.start + x.count → ¬ (y.start ≤ page ∧ page < y.start + y.count) := by
      intro page h1 h2 hy
      have := hd page h1 h2
      rw [covers_cons, if_pos hy] at this
      omega
    have hys := hyx y.start
    simp only [risesApart, Bool.and_eq_true, decide_eq_true_eq] at h
    unfold returnExtent
    by_cases h1 : y.start + y.count = x.start
    · rw [if_pos h1]
      cases rest with
      | nil =>
        simp only [risesApart, Bool.and_eq_true, decide_eq_true_eq]
        exact ⟨⟨⟨by omega, by omega⟩, by omega⟩, trivial⟩
      | cons z more =>
        have hz := h.2
        simp only [risesApart, Bool.and_eq_true, decide_eq_true_eq] at hz
        have hzx := hrest z.start
        rw [covers_cons, if_pos (by omega)] at hzx
        dsimp only
        by_cases h2 : x.start + x.count = z.start
        · rw [if_pos h2]
          simp only [risesApart, Bool.and_eq_true, decide_eq_true_eq]
          refine ⟨⟨⟨by omega, by omega⟩, by omega⟩, ?_⟩
          exact risesApart_mono (by omega) hz.2
        · rw [if_neg h2]
          simp only [risesApart, Bool.and_eq_true, decide_eq_true_eq]
          have hgap : x.start + x.count < z.start := by
            by_cases hc : z.start < x.start + x.count
            · exact absurd (hzx (by omega) hc) (by omega)
            · omega
          exact ⟨⟨⟨by omega, by omega⟩, by omega⟩, ⟨⟨⟨by omega, hz.1.1.2⟩, hz.1.2⟩, hz.2⟩⟩
    · rw [if_neg h1]
      by_cases h2 : x.start + x.count = y.start
      · rw [if_pos h2]
        simp only [risesApart, Bool.and_eq_true, decide_eq_true_eq]
        refine ⟨⟨⟨by omega, by omega⟩, by omega⟩, ?_⟩
        exact risesApart_mono (by omega) h.2
      · rw [if_neg h2]
        by_cases h3 : x.start < y.start
        · rw [if_pos h3]
          have : ¬ y.start < x.start + x.count := fun hc => hys (by omega) hc ⟨Nat.le_refl _, by omega⟩
          simp only [risesApart, Bool.and_eq_true, decide_eq_true_eq]
          exact ⟨⟨⟨hl, hx⟩, he⟩, ⟨⟨⟨by omega, h.1.1.2⟩, h.1.2⟩, h.2⟩⟩
        · rw [if_neg h3]
          have : ¬ x.start < y.start + y.count := fun hc => hyx x.start (Nat.le_refl _) (by omega) ⟨by omega, hc⟩
          simp only [risesApart, Bool.and_eq_true, decide_eq_true_eq]
          exact ⟨⟨⟨h.1.1.1, h.1.1.2⟩, h.1.2⟩, ih _ h.2 (by omega) hrest⟩

/-! ## The LOADING clips aborted at a unit reset (R120) -/

/-- A clip removed, if it is LOADING. -/
def ClipStore.abortLoading (k : ClipStore) (c : Fin 256) : ClipStore :=
  if (k.clips.get c).state = .loading then k.removeClip c else k

theorem abortLoading_other (k : ClipStore) {c x : Fin 256} (h : x ≠ c) : (k.abortLoading c).clips.get x = k.clips.get x := by
  unfold ClipStore.abortLoading
  split
  · exact get_put_of_ne _ _ h
  · rfl

/-- A walk of clips depends on their extents alone. -/
theorem foldl_extents {f g : Fin 256 → List Extent} (cs : List (Fin 256)) (h : ∀ c ∈ cs, f c = g c) (list : List Extent) :
    cs.foldl (fun list c => returnAll (f c) list) list = cs.foldl (fun list c => returnAll (g c) list) list := by
  have hf : ∀ f : Fin 256 → List Extent, cs.foldl (fun list c => returnAll (f c) list) list =
      (cs.map f).foldl (fun list x => returnAll x list) list := fun f => by rw [List.foldl_map]
  rw [hf, hf, List.map_congr_left h]

/-- Clips removed one after another give back the extents of those that were LOADING, in that order. -/
theorem freeList_abortLoading (cs : List (Fin 256)) (hn : cs.Nodup) (k : ClipStore) :
    (cs.foldl ClipStore.abortLoading k).freeList = (cs.filter fun c => (k.clips.get c).state = .loading).foldl
      (fun list c => returnAll (k.clips.get c).extents list) k.freeList := by
  induction cs generalizing k with
  | nil => rfl
  | cons c cs ih =>
    obtain ⟨hc, hn⟩ := List.nodup_cons.1 hn
    have hx : ∀ x ∈ cs, (k.abortLoading c).clips.get x = k.clips.get x := fun x hx =>
      abortLoading_other k fun e => hc (e ▸ hx)
    rw [List.foldl_cons, ih hn, List.filter_congr fun x h => by rw [hx x h],
      foldl_extents _ fun x h => congrArg Clip.extents (hx x (List.mem_filter.1 h).1)]
    by_cases h : (k.clips.get c).state = .loading
    · rw [List.filter_cons_of_pos (by simpa using h), List.foldl_cons]
      unfold ClipStore.abortLoading
      rw [if_pos h]
      rfl
    · rw [List.filter_cons_of_neg (by simpa using h)]
      unfold ClipStore.abortLoading
      rw [if_neg h]

/-- Clips removed one after another free the load slots of those that were LOADING. -/
theorem loadSlots_abortLoading (cs : List (Fin 256)) (hn : cs.Nodup) (k : ClipStore) (j : Fin 2) :
    (cs.foldl ClipStore.abortLoading k).loadSlots.get j = (k.loadSlots.get j).filter fun x =>
      !(decide (x.clip ∈ cs) && decide ((k.clips.get x.clip).state = .loading)) := by
  induction cs generalizing k with
  | nil =>
    rw [List.foldl_nil]
    cases k.loadSlots.get j <;> rfl
  | cons c cs ih =>
    obtain ⟨hc, hn⟩ := List.nodup_cons.1 hn
    have hj : (k.abortLoading c).loadSlots.get j = (k.loadSlots.get j).filter fun x =>
        !(decide (x.clip = c) && decide ((k.clips.get c).state = .loading)) := by
      unfold ClipStore.abortLoading
      by_cases h : (k.clips.get c).state = .loading
      · rw [if_pos h]
        show (k.freeLoad c).get j = _
        unfold ClipStore.freeLoad
        rw [get_map]
        cases k.loadSlots.get j with
        | none => rfl
        | some x => by_cases hx : x.clip = c <;> simp [h, hx, Option.filter]
      · rw [if_neg h]
        cases k.loadSlots.get j <;> simp [h, Option.filter]
    rw [List.foldl_cons, ih hn, hj]
    cases k.loadSlots.get j with
    | none => rfl
    | some x =>
      by_cases hx : x.clip = c
      · have : ¬ c ∈ cs := hc
        by_cases h : (k.clips.get c).state = .loading <;> simp [hx, h, this, Option.filter]
      · simp [hx, abortLoading_other k hx, Option.filter]

/-- The Clip Store at a unit reset: the load slots and the pages of LOADING clips are given back (R120). -/
theorem clips_unitReset (k : ClipStore) :
    (∀ j, k.unitReset.loadSlots.get j = (k.loadSlots.get j).filter fun x =>
      !decide ((k.clips.get x.clip).state = .loading)) ∧
    k.unitReset.freeList = ((List.finRange 256).filter fun c => (k.clips.get c).state = .loading).foldl
      (fun list c => returnAll (k.clips.get c).extents list) k.freeList := by
  have hf : k.unitReset =
      { (List.finRange 256).foldl ClipStore.abortLoading k with counters := ClipCounters.zero } := rfl
  have hn : (List.finRange 256).Nodup := List.nodup_finRange _
  have hm : ∀ x : Fin 256, x ∈ List.finRange 256 := List.mem_finRange
  rw [hf]
  generalize List.finRange 256 = cs at hn hm ⊢
  refine ⟨fun j => ?_, freeList_abortLoading cs hn k⟩
  refine (loadSlots_abortLoading cs hn k j).trans ?_
  congr 1
  funext x
  simp [hm]

end Sys2Proof.Machine
end

