-- ==== Sys2Proof/Tests/Slice0.lean ====
section
/-!
SUPPORT. Small tests, each about one step on a small state: the terms that well-formedness refuses, what commands do,
and for every statement a state and operands that meet its hypotheses (`meets_`), clause by clause.
-/
set_option Elab.async false

namespace Sys2Proof.Tests

open Sys2Proof Sys2Proof.Machine

/-! ## Well-formedness -/

theorem test_wf_sample_short : (Instr.sample 0 0 0 (List.replicate 255 0)).wellFormed = false := by decide +kernel

theorem test_wf_clipData_long : (Instr.clipData 0 0 0 (List.replicate 257 0)).wellFormed = false := by decide +kernel

theorem test_wf_request_part_word : (Instr.request 0 0 0 0 [0, 0, 0]).wellFormed = false := by decide +kernel

theorem test_wf_request_long : (Instr.request 0 0 0 0 (List.replicate 260 0)).wellFormed = false := by decide +kernel

/-- An upstream cell of this kind, word A and payload length. -/
def upCell (kind : Byte) (wordA : BitVec 16) (n : Nat) : Cell :=
  { kind := kind, addr := 0, wordA := wordA, wordB := 0, payload := List.replicate n 0 }

theorem test_wf_chain_flow_link : (Instr.chainUpstreamCell (upCell 0x0C 0 0)).wellFormed = false := by decide +kernel

theorem test_wf_chain_flow_payload : (Instr.chainUpstreamCell (upCell 0x0C 5 4)).wellFormed = false := by decide +kernel

theorem test_wf_chain_reply_part_word : (Instr.chainUpstreamCell (upCell 0x08 0 6)).wellFormed = false := by
  decide +kernel

theorem test_wf_chain_notice_empty : (Instr.chainUpstreamCell (upCell 0x09 0 0)).wellFormed = false := by decide +kernel

theorem test_wf_chain_notice_length : (Instr.chainUpstreamCell (upCell 0x09 0x0200 8)).wellFormed = false := by
  decide +kernel

theorem test_wf_chain_notice_many : (Instr.chainUpstreamCell (upCell 0x09 0x2100 264)).wellFormed = false := by
  decide +kernel

theorem test_wf_chain_downstream_kind : (Instr.chainUpstreamCell (upCell 0x01 0 256)).wellFormed = false := by
  decide +kernel

theorem test_wf_bad_cell_long : (Instr.badCell .bench (.closed (List.replicate 267 0))).wellFormed = false := by
  decide +kernel

theorem test_wf_good : (Instr.chainUpstreamCell (upCell 0x09 0x0200 16)).wellFormed = true ∧
    (Instr.sample 0 0 0 (List.replicate 256 0)).wellFormed = true ∧
    (Instr.badCell .bench (.closed (List.replicate 266 0))).wellFormed = true ∧ Instr.segWrite.wellFormed = true := by
  decide +kernel

/-- No row of the table gives bits, so no word spells a command. -/
theorem test_no_word_spells_a_command : decodeTableWord 8 0x10 = none := rfl

/-! ## A small scene -/

/-- A payload filled with zeros to n bytes. -/
def pad (n : Nat) (p : List Byte) : List Byte := p ++ List.replicate (n - p.length) 0

/-- One request in the queue, the reply queue empty. -/
def ask (d : Device) (kind : Byte) (p : List Byte) : State :=
  { State.reset with dev := d, agent := { Agent.reset with requests := [{ tag := 7, kind := kind, payload := p }] } }

/-- A context of list 255, whose one action, in slot 2047, is next. -/
def top : Context :=
  { source := 125, level := 5, list := 255, detail := 0, merge := 0, index := 0, state := .running
    reference := some (1, 640) }

/-- One action next in a context of level 5. -/
def act (d : Device) (kind : Byte) (p : List Byte) : State :=
  { State.reset with
    dev := { d with cue := { d.cue with
      stack := [top], lists := put d.cue.lists 255 { first := 2047, count := 1 }
      actions := put d.cue.actions 2047 { kind := kind, operands := p } } } }

def seg (kind : SourceKind) (id length : Nat) : Segment :=
  { fixed := { kind := kind, sourceId := id, startOffset := 0, length := .samples length, repeats := 1, ramp := 0,
               fadeEach := false }
    hot := { gain := 0, shift := 0, phaseContinue := false, next := none, endEvent := false } }

/-- Clip 3 played at 0 dB from position 7. -/
def playing : Voice :=
  { Voice.reset none with
    state := .playing, current := some 5, hot := some (seg .clip 3 200).hot, binding := some (.clip 3)
    ampNow := Val.one, ampTarget := Val.one, position := 7 }

/-- A start of segment 6 held in the schedule, with reader 0 of slot 2. -/
def waiting : Voice :=
  { Voice.reset none with state := .pending, pending := some { segment := 6, stamp := 700, claim := some (2, 0) } }

def laneAt (state : LaneState) (time : Nat) : Lane := { Lane.reset 0 with state := state, time := time }

/-- A slot with room, its next expected sequence 100. -/
def opened (state : SlotState) : Slot :=
  { Slot.reset with
    state := state
    config := { quota := 4, prime := 1, high := 2, low := 0, gapLimit := 3, policy := .stall, firstExpected := 100 }
    e := 100, h := 100 }

/-- A scene: segments 5 (CLIP), 6 (STREAM), 7 (SILENCE); lane 1 RUNNING with a playing and a waiting voice, lane 2 ARMED,
lane 3 FROZEN, lane 4 FREEZING with its ramp over, lane 5 RUNNING with a hard freeze due, lane 6 RUNNING and silent; slot 2
PRIMED with tag 2200h, slot 15 DRAINING with tag 2201h, a discarded tag 2202h, slot 7 CLOSED with tag 2203h; clip 3 READY, clip 4 LOADING. -/
def scene : Device :=
  let d := State.reset.dev
  let slot2 : Slot := { opened .primed with
    queue := [.void 100 1], e := 101
    readers := [{ index := 0, lane := 1, voice := 3, pending := true, cell := 100, offset := 0, lacking := false }] }
  let lane1 : Lane := { laneAt .running 640 with
    schedule := [{ stamp := 700, kind := .voiceStart 3 6 (some (2, 0)) }]
    voices := put (put (Vector.replicate 4 (Voice.reset none)) 2 playing) 3 waiting }
  { d with
    segments := put (put (put d.segments 5 (seg .clip 3 200)) 6 (seg .stream 2 64)) 7 (seg .silence 0 100)
    domainA := { state := .ready, rate := 3, settle := 0, settleEnds := none, readyAt := 0 }
    domainB := { state := .settling, rate := 2, settle := 1, settleEnds := some 100, readyAt := 0 }
    lanes := #v[laneAt .stopped 0, lane1, { laneAt .armed 0 with startDue := true },
      { laneAt .frozen 64 with meterInFreeze := true }, { laneAt .freezing 64 with rampLeft := 0 },
      { laneAt .running 64 with schedule := [{ stamp := 64, kind := .laneFreeze .hard }] }, laneAt .running 128,
      laneAt .running 281474976710592]
    intake := { d.intake with
      slots := put (put d.intake.slots 2 slot2) 15 { opened .draining with final := some 100 }
      tags := put (put (put d.intake.tags 31 { valid := true, tag := 0x2200, toSlot := true, slot := 2 })
        30 { valid := true, tag := 0x2201, toSlot := true, slot := 15 })
        29 { valid := true, tag := 0x2202, toSlot := false, slot := 0 } |> fun t =>
        put t 28 { valid := true, tag := 0x2203, toSlot := true, slot := 7 } }
    clips := { d.clips with
      clips := put (put d.clips.clips 3 { state := .ready, length := 500, extents := [{ start := 2, count := 1 }] })
        4 { state := .loading, length := 128, extents := [{ start := 3, count := 1 }] }
      loadSlots := #v[some { clip := 4, received := [0] }, none]
      freeList := [{ start := 0, count := 2 }, { start := 4, count := 65532 }] }
    meters := put d.meters 3 { Meter.reset with source := .laneSum, state := .measuring, window := 0 } }

def after (c : Instr) (s : State) : State :=
  match exec c s with
  | .next t => t
  | _ => s

/-- The result and the data of the reply that a request gets in the scene. -/
def reply (c : Instr) (kind : Byte) (p : List Byte) : List (Result × List Byte) :=
  (after c (ask scene kind p)).agent.replies.map fun r => (r.result, r.data)

/-- The result alone. -/
def result (c : Instr) (kind : Byte) (p : List Byte) : List Result := (reply c kind p).map Prod.fst

/-- A request of the scene that finds its operands, long enough for its layout. -/
def asks (kind : Byte) (n : Nat) (p : List Byte) : Bool := asked .request kind (ask scene kind p) p && n ≤ p.length

/-- An action of the scene that finds its operands, long enough for its layout. -/
def acts (kind : Byte) (n : Nat) (p : List Byte) : Bool := asked .action kind (act scene kind p) p && n ≤ p.length

/-! ## The queue and requests -/

theorem meets_EveryStepGoesOn : State.reset.pending = [] := rfl

theorem test_step_takes_the_front :
    (match step { State.reset with pending := [.signalPresent .bench, .signalAbsent .bench] } with
     | .next t => (t.port.bench.state, t.pending)
     | _ => (.down, [])) = (.aligning, [.signalAbsent .bench]) := by decide +kernel

theorem meets_AgentTakesNoRequestWhileBlocked :
    takesRequest .segWrite = true ∧ takesRequest (.laneStop .request) = true ∧
    State.reset.agent.requests = [] ∧
    8 ≤ ({ Agent.reset with replies := List.replicate 8 (replyOf Agent.reset
      { tag := 0, kind := 0, payload := [] } .ok []) }).replies.length ∧
    ({ Agent.reset with resetWait := true }).resetWait = true := by decide +kernel

theorem meets_UnknownAndShortRequestsAreRefused :
    (Instr.segWrite, (0x10 : Byte), 26) ∈ layoutLengths ∧ asks 0x10 25 (pad 25 []) = true ∧
    asks 0x5E 0 [] = true ∧ (0x5E : Byte) ∉ requestKinds := by decide +kernel

theorem test_unknown_kind : result .unknownRequestKind 0x5E [] = [.badKind] := by decide +kernel

theorem test_broadcast_is_taken_and_forwarded :
    (let s : State := { State.reset with port := { State.reset.port with
      bench := { Link.reset with state := .up }, chain := { Link.reset with state := .up } } }
     let t := after (.request 0x0F 1 0x76 0 []) s
     (t.agent.requests.length, t.port.forward.length, t.port.bench.counters.cellsIn)) = (1, 1, 1) := by decide +kernel

/-! ## Scene Program -/

theorem meets_SegWriteChecksInOrderAndStores :
    asks 0x10 26 (pad 26 [4, 0]) = true ∧ 1024 ≤ u16 (pad 26 [4, 0]) 0 ∧
    asks 0x10 26 (pad 26 [3, 255, 4]) = true ∧ u16 (pad 26 [3, 255, 4]) 0 < 1024 ∧
    4 ≤ (rawSegmentAt (pad 26 [3, 255, 4]) 2).kind ∧
    u16 (pad 26 [3, 255, 1]) 0 = (1023 : Fin 1024).val ∧
    sourceKindOf (rawSegmentAt (pad 26 [3, 255, 1]) 2).kind = some .stream := by decide +kernel

/-- SILENCE of 256 samples into segment 1023. -/
def silenceRecord : List Byte := pad 26 [3, 255, 3, 9, 0, 0, 0, 9, 0, 0, 1, 0, 0, 1, 0, 0, 0xFC, 0x7C, 0, 0, 0, 0, 255, 255]

theorem test_segWrite_stores :
    ((after .segWrite (ask scene 0x10 silenceRecord)).dev.segment 1023) =
      { fixed := { kind := .silence, sourceId := 0, startOffset := 0, length := .samples 256, repeats := 1, ramp := 0
                   fadeEach := false }
        hot := { gain := -900, shift := 0, phaseContinue := false, next := none, endEvent := false } } := by
  decide +kernel

theorem test_segWrite_in_use :
    result .segWrite 0x10 (pad 26 [0, 5, 3, 0, 0, 0, 0, 0, 0, 0, 1, 0, 0, 1]) = [.inUse] := by decide +kernel

theorem meets_SegHotStoresTheSelectedFields :
    acts 0x11 12 (pad 15 [4, 0]) = true ∧ 1023 < u16 (pad 15 [4, 0]) 0 ∧
    asks 0x11 12 (pad 12 [0, 5, 1, 0, 0, 61]) = true ∧ bitAt (pad 12 [0, 5, 1, 0, 0, 61]) 2 0 = true ∧
    60 < s16 (pad 12 [0, 5, 1, 0, 0, 61]) 4 ∧
    bitAt (pad 12 [0, 5, 8, 0, 0, 0, 0, 0, 0, 0, 4]) 2 3 = true ∧
    1023 < u16 (pad 12 [0, 5, 8, 0, 0, 0, 0, 0, 0, 0, 4]) 10 ∧
    u16 (pad 12 [3, 255, 31, 12, 0, 60, 0, 0, 0, 1, 255, 255]) 0 = (1023 : Fin 1024).val ∧
    s16 (pad 12 [3, 255, 31, 12, 0, 60, 0, 0, 0, 1, 255, 255]) 4 ≤ 60 ∧
    u16 (pad 12 [3, 255, 31, 12, 0, 60, 0, 0, 0, 1, 255, 255]) 10 = 0xFFFF := by decide +kernel

theorem test_segHot_as_an_action :
    ((after (.segHot .action) (act scene 0x11 (pad 15 [0, 5, 1, 0, 0, 60]))).dev.segment 5).hot.gain = 60 ∧
    ((after (.segHot .action) (act scene 0x11 (pad 15 [0, 5, 1, 0, 0, 60]))).dev.cue.stack.map Context.index) = [1] := by
  decide +kernel

theorem meets_SegReadReturnsTheRecord :
    asks 0x12 2 [4, 0] = true ∧ 1023 < u16 [4, 0] 0 ∧ asks 0x12 2 [3, 255] = true ∧
    u16 [3, 255] 0 = (1023 : Fin 1024).val := by decide +kernel

theorem test_segRead_live_count :
    (reply .segRead 0x12 [0, 5]).map (fun x => (x.1, x.2.length, x.2.drop 26)) = [(.ok, 28, [0, 1])] := by decide +kernel

/-- VOICE_START of a segment on a voice, at NEXT. -/
def start (l v : Byte) (g : BitVec 16) : List Byte := pad 15 [l, v, g.extractLsb' 8 8, g.extractLsb' 0 8]

theorem meets_VoiceStartChecksInOrder :
    asks 0x13 11 (pad 11 [1, 0, 0, 5, 3]) = true ∧ 2 < u8 (pad 11 [1, 0, 0, 5, 3]) 4 ∧
    acts 0x13 11 (pad 15 [1, 0, 0, 5, 2, 0, 1]) = true ∧
    whenAt (pad 15 [1, 0, 0, 5, 2, 0, 1]) 4 = some (.rel 4294967296) ∧
    asks 0x13 11 (start 8 0 5) = true ∧ whenAt (start 8 0 5) 4 = some .next ∧
    7 < u8 (start 8 0 5) 0 ∧
    3 < u8 (start 7 4 5) 1 ∧ 1023 < u16 (start 7 3 1024) 2 ∧
    acts 0x13 11 (start 7 3 1023) = true ∧ u8 (start 7 3 1023) 0 = (7 : Fin 8).val ∧
    u8 (start 7 3 1023) 1 = (3 : Fin 4).val ∧ u16 (start 7 3 1023) 2 = (1023 : Fin 1024).val := by decide +kernel

theorem meets_resolveWhen :
    resolveWhen (callerOf .request (ask scene 0x13 [])) .next = .ok .next ∧
    resolveWhen (callerOf .action (act scene 0x13 [])) (.rel 40) = .ok (.at 680) ∧
    resolveWhen (callerOf .action (act scene 0x13 [])) (.rel 4294967296) = .error .outOfRange ∧
    resolveWhen (.action 125 none) (.rel 4294967295) = .error .badField ∧
    resolveWhen (.action 125 (some (1, 281474976710655))) (.rel 1) = .error .outOfRange ∧
    resolveWhen (.action 125 (some (1, 281474976710655))) (.rel 0) = .ok (.at 281474976710655) :=
  ⟨rfl, rfl, rfl, rfl, rfl, rfl⟩

theorem test_voiceStart_refusals :
    result (.voiceStart .request) 0x13 (start 0 0 7) = [.laneStopped] ∧
    result (.voiceStart .request) 0x13 (start 1 0 9) = [.badField] ∧
    result (.voiceStart .request) 0x13 (start 1 0 7) = [.ok] := by decide +kernel

theorem meets_VoiceStartEntersTheSchedule :
    asks 0x13 11 (start 6 0 6) = true ∧ When.next.isRel = false ∧ (scene.segment 6).fixed.kind = .stream ∧
    (scene.lane 6).state ≠ .stopped ∧ (scene.voice 6 0).pending = none ∧ (scene.lane 6).schedule.length < 16 ∧
    (scene.slot (scene.segment 6).fixed.slot).state = .primed ∧
    (scene.slot (scene.segment 6).fixed.slot).readers.length < 8 ∧
    (scene.segment 5).fixed.kind = .clip ∧ (scene.clip (scene.segment 5).fixed.clip).state = .ready := by decide +kernel

/-- The scene with this voice at 2 of lane 1, and a voice start marker of the lane at M0. -/
def withVoice (x : Voice) : Device :=
  let d := scene.updLane 1 fun y => { y with voices := put y.voices 2 x }
  { d with markers := put d.markers 0 { Marker.reset with condition := .voiceStartPulse 1 } }

/-- Segment 6 played from reader 0 of slot 2. -/
def streaming : Voice :=
  { playing with current := some 6, hot := some (seg .stream 2 64).hot, binding := some (.stream 2 0) }

theorem meets_VoiceStartEntersTheSchedule_applied :
    ((withVoice streaming).bindingOf (seg .silence 0 100).fixed none = .ok none) ∧
    ((withVoice streaming).bindingOf (seg .clip 3 200).fixed none = .ok (some (.clip 3))) ∧
    ((withVoice streaming).bindingOf (seg .clip 4 9).fixed none = .error .sourceFault) ∧
    ((withVoice streaming).bindingOf (seg .stream 2 64).fixed (some (2, 0)) = .ok (some (.stream 2 0))) ∧
    ((withVoice streaming).bindingOf (seg .stream 2 64).fixed none = .error .noReader) ∧
    (let k := Block.start (withVoice streaming) 1
     (k.dev.voice 1 2).current.isSome = true ∧ (k.cursors.get 2).map Cursor.index = some 0 ∧
     (k.dev.markers.get 0).condition = .voiceStartPulse 1 ∧ (k.dev.markers.get 1).condition ≠ .voiceStartPulse 1 ∧
     (k.dev.markers.get 1).condition ≠ .segmentEdgePulse 1) := by
  exact ⟨rfl, rfl, rfl, rfl, rfl, by decide +kernel⟩

theorem test_start_is_applied :
    (let k := (Block.start (withVoice streaming) 1).apply 1 642 { stamp := 642, kind := .voiceStart 2 7 none }
     ((k.dev.voice 1 2).current, (k.dev.voice 1 2).lastCause, (k.dev.markers.get 0).startsDue, k.released)) =
      (some 7, some .replaced, [3000], [(2, 0)]) := by decide +kernel

theorem meets_VoiceStartReplacesAPendingStart :
    asks 0x13 11 (start 1 3 6) = true ∧
    (scene.voice 1 3).pending = some { segment := 6, stamp := 700, claim := some (2, 0) } ∧
    (scene.segment 6).fixed.slot = 2 ∧ (scene.segment 7).fixed.kind = .silence ∧ (scene.lane 1).state ≠ .stopped := by
  decide +kernel

theorem test_voiceStart_passes_its_reader :
    ((after (.voiceStart .request) (ask scene 0x13 (start 1 3 6))).dev.slot 2).readers.length = 1 ∧
    ((after (.voiceStart .request) (ask scene 0x13 (start 1 3 7))).dev.slot 2).readers.length = 0 := by decide +kernel

theorem meets_VoiceStopAndGainEnterTheSchedule :
    asks 0x14 10 (pad 10 [7, 3, 2]) = true ∧ modeAt (pad 10 [7, 3, 2]) 2 = none ∧
    whenAt (pad 10 [7, 3, 1, 3]) 3 = none ∧
    modeAt (pad 10 [8, 3, 1]) 2 = some .hard ∧ whenAt (pad 10 [8, 3, 1]) 3 = some .next ∧ 7 < u8 (pad 10 [8, 3, 1]) 0 ∧
    acts 0x14 10 (pad 15 [7, 3, 1]) = true ∧ u8 (pad 15 [7, 3, 1]) 0 = (7 : Fin 8).val ∧
    acts 0x14 10 (pad 15 [7, 3, 1, 2, 0, 1]) = true ∧ modeAt (pad 15 [7, 3, 1, 2, 0, 1]) 2 = some .hard ∧
    whenAt (pad 15 [7, 3, 1, 2, 0, 1]) 3 = some (.rel 4294967296) ∧
    acts 0x15 13 (pad 15 [7, 3, 0, 60, 0, 0, 2, 0, 1]) = true ∧
    whenAt (pad 15 [7, 3, 0, 60, 0, 0, 2, 0, 1]) 6 = some (.rel 4294967296) ∧
    asks 0x15 13 (pad 13 [7, 3, 0, 61]) = true ∧ whenAt (pad 13 [7, 3, 0, 61, 0, 0, 3]) 6 = none ∧
    whenAt (pad 13 [7, 3, 0, 61]) 6 = some .next ∧ 60 < s16 (pad 13 [7, 3, 0, 61]) 2 ∧
    s16 (pad 13 [7, 3, 0xFC, 0x7C]) 2 = -900 := by decide +kernel

theorem meets_VoiceStopAndGainEnterTheSchedule_applied :
    (let k := Block.start (withVoice { playing with state := .fading }) 1
     (k.dev.voice 1 2).state = .fading ∧ (k.dev.voice 1 3).state = .pending ∧ (k.dev.voice 1 0).state = .idle) ∧
    (let ramped : Segment := { seg .clip 3 200 with fixed := { (seg .clip 3 200).fixed with ramp := 8 } }
     let k := Block.start { withVoice playing with segments := put scene.segments 5 ramped } 1
     (k.dev.voice 1 2).state = .playing ∧
     0 < (k.dev.voice 1 2).current.elim 0 fun g => (k.dev.segment g).fixed.ramp) ∧
    ((Block.start (withVoice { streaming with state := .stalled }) 1).dev.voice 1 2).state = .stalled ∧
    ((scene.voice 1 2).current.elim 0 fun g => (scene.segment g).fixed.ramp) = 0 := by decide +kernel

theorem test_voiceStop_relative :
    result (.voiceStop .request) 0x14 (pad 10 [1, 2, 0, 2]) = [.badField] ∧
    (((after (.voiceStop .action) (act scene 0x14 (pad 15 [1, 2, 0, 2, 0, 0, 0, 0, 0, 40]))).dev.lane 1).schedule.map
      Entry.stamp) = [680, 700] := by decide +kernel

theorem test_voiceGain_is_placed :
    (((after (.voiceGain .request) (ask scene 0x15 (pad 13 [6, 0, 0, 60]))).dev.lane 6).schedule) =
      [{ stamp := 128, kind := .voiceGain 0 60 0 }] := by decide +kernel

theorem meets_StatusReadsReturnTheRecord :
    asks 0x16 2 [8, 0] = true ∧ asks 0x16 2 [7, 3] = true ∧ asks 0x28 2 [7, 0] = true ∧ asks 0x28 2 [8, 0] = true ∧
    asks 0x2A 2 [1, 0] = true ∧ u8 [1, 0] 0 = domainCode .b ∧ asks 0x2A 2 [2, 0] = true ∧
    asks 0x34 2 [15, 0] = true ∧ asks 0x34 2 [16, 0] = true ∧ asks 0x61 2 [3, 0] = true ∧ asks 0x61 2 [4, 0] = true ∧
    asks 0x64 2 [5, 0] = true ∧ asks 0x64 2 [6, 0] = true := by decide +kernel

theorem meets_TableReadsReturnWhatIsHeld :
    asks 0x51 1 [125] = true ∧ asks 0x51 4 (pad 4 [126]) = true ∧ asks 0x56 2 [0, 255] = true ∧
    asks 0x56 4 (pad 4 [1, 0]) = true ∧ asks 0x58 6 [8, 0, 0, 0, 0, 0] = true ∧
    asks 0x58 6 [7, 255, 0, 0, 0, 1] = true ∧ u16 [7, 255, 0, 0, 0, 1] 0 + u32 [7, 255, 0, 0, 0, 1] 2 = 2048 ∧
    2048 < u16 [7, 255, 0, 0, 0, 2] 0 + u32 [7, 255, 0, 0, 0, 2] 2 ∧ asks 0x5B 0 [] = true ∧
    asks 0x44 2 [0, 255] = true ∧ asks 0x44 4 (pad 4 [1, 0]) = true ∧ asks 0x45 0 [] = true := by
  decide +kernel

theorem meets_UnitReadsReturnWhatIsHeld :
    asks 0x70 0 [] = true ∧ asks 0x75 0 [] = true ∧ asks 0x76 0 [] = true ∧ asks 0x36 1 [3] = true ∧
    asks 0x36 1 [4] = true := by decide +kernel

theorem test_reads_answer :
    result .laneStatus 0x28 [1] = [.ok] ∧ result .cueRead 0x58 [7, 255, 0, 0, 0, 1] = [.ok] ∧
    result .statsRead 0x36 [4] = [.badField] ∧ result .mapRead 0x51 [126] = [.outOfRange] := by decide +kernel

theorem test_identify_names :
    (reply .identify 0x76 []).map (fun x => x.2.take 18) =
      [[0x5A, 0x50, 0x2D, 0x31, 0x36, 0x32, 0x30, 0, 0x5A, 0x65, 0x6D, 0x62, 0x6F, 0x72, 0, 0, 1, 0]] := by decide +kernel

/-! ## Lanes and clock domains -/

/-- LANE_CONFIG with freeze ramp 65535 and the flag set. -/
def config (l domain hi lo : Byte) : List Byte := [l, domain, 255, 255, hi, lo, 1]

theorem meets_LaneConfigStoresItsSettings :
    asks 0x20 7 (config 8 0 0 0) = true ∧ 7 < u8 (config 8 0 0 0) 0 ∧ 60 < s16 (config 7 0 0 61) 4 ∧
    s16 (config 7 0 0xFC 0x7B) 4 < -900 ∧ s16 (config 7 2 0xFC 0x7C) 4 = -900 ∧ domainAt (config 7 2 0xFC 0x7C) 1 = none ∧
    s16 (config 7 1 0 60) 4 = 60 ∧ domainAt (config 7 1 0 60) 1 = some .b ∧ (scene.lane 7).domain ≠ .b ∧
    (scene.lane 7).state ≠ .stopped := by decide +kernel

theorem test_laneConfig_in_running :
    (let x := (after .laneConfig (ask scene 0x20 (config 1 0 0 60))).dev.lane 1
     x.masterGain = 60 ∧ x.rampLeft = 65535 ∧ x.rampDue = true ∧ x.freezeRamp = 65535 ∧ x.ampNow = Val.one) ∧
    result .laneConfig 0x20 (config 1 1 0 60) = [.busy] := by decide +kernel

theorem test_laneConfig_twice_before_a_block :
    (let x : Lane := ((scene.lane 1).configure .a 500 60 false).configure .a 10 60 false
     (x.rampLeft, x.rampDue, x.settleMaster.rampLeft, x.settleMaster.rampDue)) = (10, true, 10, false) ∧
    (((({ scene.lane 1 with rampLeft := 9 } : Lane).settleMaster).configure .a 500 0 false).rampLeft = 9) ∧
    ((((scene.lane 3).resume Val.zero).configure .a 10 0 false).rampLeft = 10) := by decide +kernel

theorem meets_LaneArmPutsTheLaneInArmed :
    asks 0x21 3 [7, 2, 0] = true ∧ 1 < u8 [7, 2, 0] 1 ∧ 7 < u8 [8, 0, 0] 0 ∧ 3 < u8 [7, 1, 4] 2 ∧
    asks 0x21 3 [0, 1, 3] = true ∧ u8 [0, 1, 3] 0 = (0 : Fin 8).val ∧ u8 [0, 1, 3] 2 = (3 : Fin 4).val ∧
    (scene.lane 0).state = .stopped ∧ (scene.domain (scene.lane 0).domain).state = .ready ∧
    u8 [1, 0, 9] 1 = 0 ∧ (scene.lane 1).state ≠ .stopped := by decide +kernel

theorem test_laneArm_trigger :
    (((after .laneArm (ask scene 0x21 [0, 1, 3])).dev.lane 0).state,
     ((after .laneArm (ask scene 0x21 [0, 1, 3])).dev.lane 0).startMode) = (.armed, .trigger 3) := by decide +kernel

theorem meets_LaneStartAndResumeActByLaneState :
    asks 0x22 1 [8] = true ∧ acts 0x22 1 (pad 15 [7]) = true ∧ asks 0x25 1 [7] = true ∧ acts 0x25 1 (pad 15 [8]) = true ∧
    7 < u8 [8] 0 ∧ u8 [7] 0 = (7 : Fin 8).val ∧ (scene.lane 0).state = .stopped ∧
    (scene.lane 2).state = .armed ∧ (scene.lane 2).startMode = .immediate ∧ (scene.lane 1).state = .running ∧
    (scene.lane 3).state = .frozen ∧ (scene.lane 4).state = .freezing := by decide +kernel

theorem test_laneStart_by_state :
    result (.laneStart .request) 0x22 [0] = [.laneStopped] ∧ result (.laneStart .request) 0x22 [3] = [.ok] ∧
    ((after (.laneResume .action) (act scene 0x25 (pad 15 [3]))).dev.lane 3).state = .running := by decide +kernel

theorem meets_LaneStopStopsEverythingOfTheLane :
    asks 0x23 1 [8] = true ∧ 7 < u8 [8] 0 ∧ asks 0x23 1 [0] = true ∧ (scene.lane 0).state = .stopped ∧
    acts 0x23 1 (pad 15 [7]) = true ∧ (scene.lane 7).state ≠ .stopped ∧ asks 0x23 1 [1] = true ∧
    (scene.lane 1).state ≠ .stopped := by decide +kernel

theorem meets_LaneStopStopsEverythingOfTheLane_reports :
    ((withVoice streaming).voice 1 2).current.isSome = true ∧
    ((withVoice streaming).voice 1 2).binding = some (.stream 2 0) ∧
    (scene.voice 1 3).pending.map PendingStart.claim = some (some (2, 0)) ∧
    (({ MapEntry.reset with notice := true } : MapEntry).notice = true) ∧
    (({ top with state := .waiting 1 700 } : Context).waitsOn 1 = true) := by decide +kernel

/-- The scene with a context that waits on lane 1 and a notice for the end of voice L1.V3. -/
def reporting : Device :=
  { scene with cue := { scene.cue with
      stack := [{ top with index := 1, state := .waiting 1 700 }]
      map := put scene.cue.map (srcVoiceEnd 1 3) { MapEntry.reset with notice := true } } }

theorem test_laneStop_reports :
    (after (.laneStop .request) (ask reporting 0x23 [1])).dev.notices.queue.map
      (fun n => (n.kind, n.source, n.aux, n.detail)) = [(.event, 27, 0, 1), (.cueFault, 255, 0, 8)] := by decide +kernel

theorem test_laneStop_acts_on_its_markers :
    (let due : Marker := { Marker.reset with startsDue := [640], pulse := .running 9, frozenHold := some true }
     let m (l k : Fin 8) := (({ scene with markers := put scene.markers 5 { due with condition := .laneRunning l } } :
       Device).stopLane k).markers.get 5
     (((m 1 1).startsDue, (m 1 1).pulse), ((m 3 3).pulse, (m 3 3).frozenHold), (m 1 3).startsDue)) =
      (([], .running 9), (.none, none), [640]) := by decide +kernel

theorem test_laneStop_ends_its_voices :
    (let d := (after (.laneStop .request) (ask scene 0x23 [1])).dev
     ((d.lane 1).state, (d.voice 1 2).lastCause, (d.voice 1 3).lastCause, (d.slot 2).readers.length)) =
      (.stopped, some .stopped, some .stopped, 0) := by decide +kernel

theorem meets_LaneFreezeEntersTheSchedule :
    asks 0x24 9 (pad 9 [7, 2]) = true ∧ modeAt (pad 9 [7, 2]) 1 = none ∧ whenAt (pad 9 [7, 0, 3]) 2 = none ∧
    modeAt (pad 9 [8, 1]) 1 = some .hard ∧ whenAt (pad 9 [8, 1]) 2 = some .next ∧ 7 < u8 (pad 9 [8, 1]) 0 ∧
    acts 0x24 9 (pad 15 [7, 1, 2, 0, 1]) = true ∧ modeAt (pad 15 [7, 1, 2, 0, 1]) 1 = some .hard ∧
    whenAt (pad 15 [7, 1, 2, 0, 1]) 2 = some (.rel 4294967296) ∧
    acts 0x24 9 (pad 15 [7, 1]) = true ∧ u8 (pad 15 [7, 1]) 0 = (7 : Fin 8).val ∧
    whenAt (pad 15 [7, 1, 1, 255, 255, 255, 255, 255, 255]) 2 = some (.at 281474976710655) := by decide +kernel

theorem test_laneFreeze_by_state :
    result (.laneFreeze .request) 0x24 (pad 9 [2]) = [.busy] ∧
    ((after (.laneFreeze .request) (ask scene 0x24 (pad 9 [3]))).dev.lane 3).schedule = [] ∧
    ((after (.laneFreeze .request) (ask scene 0x24 (pad 9 [6]))).dev.lane 6).schedule =
      [{ stamp := 128, kind := .laneFreeze .soft }] := by decide +kernel

theorem meets_LaneQuietAndCompareActInAnyState :
    asks 0x26 2 [7, 3] = true ∧ 2 < u8 [7, 3] 1 ∧ u8 [8, 2] 1 ≤ 2 ∧ 7 < u8 [8, 2] 0 ∧ asks 0x26 2 [7, 2] = true ∧
    u8 [7, 2] 0 = (7 : Fin 8).val ∧ asks 0x27 8 (pad 8 [7, 2]) = true ∧ 1 < u8 (pad 8 [7, 2]) 1 ∧
    7 < u8 (pad 8 [8, 1]) 0 ∧ u8 (pad 8 [8, 1]) 1 ≤ 1 ∧ u8 (pad 8 [7, 1]) 0 = (7 : Fin 8).val := by decide +kernel

theorem test_laneQuiet_and_compare :
    ((after .laneQuiet (ask scene 0x26 [0, 0])).dev.lane 0).quiet = true ∧
    ((after .laneCompareSet (ask scene 0x27 [0, 1, 0, 0, 0, 1, 0, 0])).dev.lane 0).compare = some 65536 := by
  decide +kernel

theorem meets_DomainSetSettlesAndThenIsReady :
    asks 0x29 3 [2, 0, 0] = true ∧ 1 < u8 [2, 0, 0] 0 ∧ 7 < u8 [1, 8, 0] 1 ∧ asks 0x29 3 [1, 7, 3] = true ∧
    u8 [1, 7, 3] 0 = domainCode .b ∧ u8 [1, 7, 3] 1 ≤ 7 ∧ (scene.domain .b).state = .settling ∧
    (scene.domain .b).settleEnds = some 100 := by decide +kernel

theorem test_domainSet :
    ((after .domainSet (ask scene 0x29 [1, 7, 3])).dev.domainB) =
      { state := .settling, rate := 7, settle := 3, settleEnds := some 307200000, readyAt := 0 } ∧
    result .domainSet 0x29 [0, 7, 3] = [.busy] ∧
    (after (.settleTimerExpiry .b) { State.reset with dev := scene }).dev.domainB =
      { state := .ready, rate := 2, settle := 1, settleEnds := none, readyAt := 100 } := by decide +kernel

/-- The next block edge of every lane of the scene: one block period after READY. -/
theorem meets_isNextEdge (l : Fin 8) : isNextEdge scene l 96000 := by
  have h : ∀ l, scene.domain (scene.lane l).domain = { state := .ready, rate := 3, settle := 0, settleEnds := none, readyAt := 0 }
      ∧ (scene.lane l).lastEdge = 0 ∧ scene.now = 0 := by decide +kernel
  obtain ⟨h1, h2, h3⟩ := h l
  unfold isNextEdge
  rw [h1, h2, h3]
  refine ⟨⟨1, by decide, by decide⟩, by decide, by decide, fun k hk _ _ => ?_⟩
  show 96000 ≤ 0 + k * 96000
  omega

theorem test_edges_are_one_period_apart :
    (let s := after (.frozenEdge 3) { State.reset with dev := scene }
     let t := after (.frozenEdge 3) s
     (s.dev.now, (s.dev.lane 3).lastEdge, (s.dev.meter 3).counted, t.dev.now, (t.dev.meter 3).counted)) =
      (96000, 96000, 64, 192000, 128) := by decide +kernel

/-- A silent voice: nothing to play and nothing due. -/
def silent (x : Voice) : Bool := x.state = .idle && x.current = none && x.binding = none && x.due = .none

theorem meets_BoundaryComputesABlock :
    (scene.domain (scene.lane 1).domain).state = .ready ∧ (scene.lane 1).state = .running ∧
    (∀ e ∈ (scene.lane 1).schedule, e.kind = .laneFreeze .hard → (scene.lane 1).time < e.stamp) ∧
    (scene.lane 1).time + 64 < 281474976710656 ∧ (scene.lane 7).state = .running ∧
    281474976710656 = (scene.lane 7).time + 64 ∧ (∀ e ∈ (scene.lane 7).schedule, e.kind = .laneFreeze .hard →
      (scene.lane 7).time < e.stamp) ∧
    (scene.domain (scene.lane 7).domain).state = .ready := by decide +kernel

theorem meets_BoundaryComputesABlock_handOffs :
    (({ scene.lane 1 with quietPendingOff := true } : Lane).quietPendingOff = true) ∧ (scene.lane 1).compare = none ∧
    (({ scene.lane 1 with compare := some 703 } : Lane).compare = some 703) ∧ 703 ≤ (scene.lane 1).time + 63 ∧
    (-3 : Int) ≠ 0 ∧ roundVal { den := 2, terms := [{ root := 0, angle := 0, num := -3 }] } = -2 := by decide +kernel

theorem meets_BoundaryComputesABlock_freezing :
    (let x : Lane := { scene.lane 4 with rampLeft := 1 }
     x.state = .freezing ∧ x.rampLeft ≠ 0 ∧ x.schedule = []) := by decide +kernel

theorem meets_BoundaryComputesABlock_silent :
    (scene.domain (scene.lane 6).domain).state = .ready ∧ (scene.lane 6).state = .running ∧
    (scene.lane 6).time + 64 < 281474976710656 ∧ (scene.lane 6).schedule = [] ∧ (scene.lane 6).quiet = false ∧
    (∀ v, silent (scene.voice 6 v) = true) := by decide +kernel

/-- Lane 1 with its playing voice alone, at a position. -/
def aloneAt (position : Nat) : Device :=
  scene.updLane 1 fun x =>
    { x with schedule := []
             voices := put (Vector.replicate 4 (Voice.reset none)) 2 { playing with position := position } }

theorem test_sample_steps_the_master :
    (let d := scene.updLane 1 fun x => { x with ampTarget := Val.zero, rampLeft := 2 }
     let one := (Block.start d 1).sample 1 640 [] 0
     let two := one.sample 1 640 [] 1
     ((one.dev.lane 1).rampLeft, (two.dev.lane 1).rampLeft, (two.dev.lane 1).ampNow, two.out.length)) =
      (1, 0, Val.zero, 2) := by decide +kernel

theorem meets_ClipAtUnityReachesThePort :
    (let d := aloneAt 135
     let x := d.lane 1
     let y := d.voice 1 2
     let f := (d.segment 5).fixed
     (d.domain x.domain).state = .ready ∧ x.state = .running ∧ x.time + 64 < 281474976710656 ∧ x.schedule = [] ∧
     x.quiet = false ∧ x.ampTarget = Val.one ∧ x.rampLeft = 0 ∧ x.trim = 0 ∧
     (∀ w, w ≠ 2 → silent (d.voice 1 w) = true) ∧
     y.state = .playing ∧ y.current = some 5 ∧ y.hot = some (d.segment 5).hot ∧ y.binding = some (.clip 3) ∧
     y.ampNow = Val.one ∧ y.ampTarget = Val.one ∧ y.rampLeft = 0 ∧ y.stopFade = none ∧ y.phase = 0 ∧ y.step = 0 ∧
     (d.segment 5).hot.shift = 0 ∧ y.due = .none ∧ f.ramp = 0 ∧ f.length = .samples 200 ∧ y.position + 64 < 200) := by
  decide +kernel

theorem meets_ClipAtUnityReachesThePort_samples :
    ((scene.voice 1 2).current = some 5 ∧ (scene.voice 1 2).hot = some (seg .clip 3 200).hot ∧
     (scene.voice 1 0).current = none ∧ (scene.voice 1 0).state ≠ .playing ∧ (scene.voice 1 0).state ≠ .fading ∧
     (scene.voice 1 2).state = .playing ∧ (Block.start scene 1).cursors.get 2 = none ∧ (scene.voice 1 2).due = .none) ∧
    (let k := Block.start (withVoice { playing with due := .ended }) 1
     (k.dev.voice 1 2).due = .ended ∧ (k.dev.voice 1 2).hot.bind Hot.next = none ∧ (k.dev.voice 1 2).state ≠ .fading) ∧
    (let x : Voice := { playing with due := .ended, hot := some { (seg .clip 3 200).hot with next := some 6 } }
     let k := Block.start (withVoice x) 1
     (k.dev.voice 1 2).due = .ended ∧ (k.dev.voice 1 2).hot.bind Hot.next = some 6 ∧
     (k.dev.segment 6).fixed.kind = .stream ∧ (k.dev.slot 2).state = .primed ∧ (k.dev.slot 2).readers.length < 8) ∧
    ((withVoice { playing with due := .chain 7 }).voice 1 2).due = .chain 7 := by decide +kernel

/-- The scene with that voice streaming from slot 2, the slot with this policy, state and final sequence, and its reader
here. -/
def reads (x : Voice) (state : SlotState) (policy : Policy) (final : Option Seq) (cell : Seq) (offset : Nat)
    (queue : List QueueEntry) : Block :=
  let d := withVoice x
  let slot : Slot :=
    { opened state with
      config := { (opened state).config with policy := policy }, e := 101, queue := queue, final := final
      readers := [{ index := 0, lane := 1, voice := 2, pending := false, cell := cell, offset := offset, lacking := false }] }
  Block.start (d.setSlot 2 slot) 1

/-- How a voice with a reader reads its sample: at the end, coming to it, and what it finds. -/
def readAs (k : Block) : Option (Bool × Bool × Position) :=
  (k.cursors.get 2).map fun c =>
    let slot := k.dev.slot c.slot
    (slot.state = .draining && slot.final.any (fun final => atOrAfter c.cell final),
     slot.state = .draining && decide (63 ≤ c.offset) && slot.final = some (c.cell + 1), lookAt c.cell slot.queue)

theorem meets_ClipAtUnityReachesThePort_streams :
    readAs (reads streaming .running .stall none 100 5 [.data 100 []]) = some (false, false, .data []) ∧
    readAs (reads streaming .running .stall none 100 5 [.void 100 1]) = some (false, false, .void) ∧
    readAs (reads streaming .running .zeroFill none 101 5 []) = some (false, false, .absent) ∧
    readAs (reads streaming .running .stall none 101 5 []) = some (false, false, .absent) ∧
    readAs (reads streaming .draining .stall (some 101) 100 63 [.data 100 []]) = some (false, true, .data []) ∧
    readAs (reads streaming .draining .stall (some 101) 101 0 []) = some (true, false, .absent) ∧
    readAs (reads { streaming with state := .stalled } .draining .stall (some 101) 101 0 []) = some (true, false, .absent) ∧
    readAs (reads { streaming with state := .stalled } .running .stall none 100 0 [.void 100 1]) =
      some (false, false, .void) ∧
    ((reads { streaming with state := .fading } .running .stall none 101 5 []).dev.voice 1 2).state = .fading ∧
    ((reads { streaming with state := .stalled } .running .stall none 101 5 []).dev.voice 1 2).state = .stalled := by
  decide +kernel

theorem meets_ClipAtUnityReachesThePort_chained_at_the_end :
    (let x : Voice := { streaming with hot := some { (seg .stream 2 64).hot with next := some 5 } }
     let k := reads x .draining .stall (some 101) 101 0 []
     readAs k = some (true, false, .absent) ∧ (k.dev.voice 1 2).hot.bind Hot.next = some 5 ∧
     (k.dev.voice 1 2).current.isSome = true ∧ (k.dev.voice 1 2).state = .playing ∧
     ((Block.voiceSample 3 k 1 2 642).1.dev.voice 1 2).current = some 5 ∧
     ((Block.voiceSample 3 k 1 2 642).1.dev.voice 1 2).position = 1) := by decide +kernel

theorem test_stall_and_end_of_stream :
    (((Block.voiceSample 3 (reads streaming .running .stall none 101 5 []) 1 2 640).1.dev.voice 1 2).state = .stalled) ∧
    (((Block.voiceSample 3 (reads streaming .draining .stall (some 101) 100 63 [.data 100 []]) 1 2 640).1.dev.voice 1 2).lastCause = some .complete) := by
  decide +kernel

/-- One sample of that lane: the output is the clip's sample. -/
def memorized : Device :=
  let d := aloneAt 7
  { d with clips := { d.clips with memory := memWriteRun d.clips.memory (2 * 4096 + 7 * 4) [0x12, 0x34, 0xFF, 0xFE] } }

theorem test_one_sample_of_a_clip :
    (Block.sample 1 640 [] (Block.start memorized 1) 0).out = [{ i := 0x1234, q := -2 }] := by decide +kernel

theorem meets_BoundaryFreezesTheLane :
    (scene.domain (scene.lane 4).domain).state = .ready ∧ (scene.lane 4).state = .freezing ∧ (scene.lane 4).rampLeft = 0 ∧
    (scene.domain (scene.lane 5).domain).state = .ready ∧ (scene.lane 5).state = .running ∧
    (scene.lane 5).schedule = [] ++ { stamp := 64, kind := .laneFreeze .hard } :: [] ∧ 64 ≤ (scene.lane 5).time := by
  decide +kernel

theorem meets_BoundaryFreezesTheLane_markers :
    (({ Marker.reset with condition := .laneRunning 4 } : Marker).condition.lane = some 4) ∧
    Marker.reset.frozenLevel = .holdLast ∧ (({ Marker.reset with frozenLevel := .forceActive } : Marker).frozenLevel ≠ .holdLast) ∧
    Marker.reset.condition.lane ≠ some 4 := by decide +kernel

theorem test_boundary_freezes :
    (let d := (after (.blockBoundary 5) { State.reset with dev := scene }).dev
     ((d.lane 5).state, (d.lane 5).time, (d.lane 5).schedule.length)) = (.frozen, 64, 0) ∧
    ((after (.blockBoundary 4) { State.reset with dev := scene }).dev.lane 4).state = .frozen := by decide +kernel

theorem meets_EdgesOfArmedAndFrozenLanes :
    (scene.domain (scene.lane 2).domain).state = .ready ∧ (scene.lane 2).state = .armed ∧
    (scene.lane 2).startDue = true ∧ (scene.lane 2).schedule = [] ∧
    (scene.domain (scene.lane 3).domain).state = .ready ∧ (scene.lane 3).state = .frozen ∧
    (scene.lane 3).meterInFreeze = true ∧ (scene.meter 3).state ≠ .idle ∧
    (scene.meter 3).counted + 64 < windowSize (scene.meter 3).window ∧
    (({ scene.lane 3 with meterInFreeze := false } : Lane).state = .frozen) := by decide +kernel

/-- Meter 3 with 192 samples counted of its window of 256. -/
def metered (state : MeterState) (result : Option (Int × Nat)) : Device :=
  let m : Meter := { scene.meter 3 with state := state, counted := 192, result := result, high := -12500, low := -13000 }
  { scene with meters := put scene.meters 3 m }

theorem meets_EdgesOfArmedAndFrozenLanes_windows :
    (scene.meter 7).state = .idle ∧ ((metered .settling none).meter 3).state = .settling ∧
    256 * 4 ^ ((metered .settling none).meter 3).window ≤ ((metered .settling none).meter 3).counted + 64 ∧
    ((metered .measuring none).meter 3).state = .measuring ∧ (0 : Nat) < 1 := by decide +kernel

theorem test_meter_window_ends :
    (let d := (metered .measuring none).meterBlock 3 []
     ((d.meter 3).result, (d.meter 3).fresh, (d.meter 3).counted)) = (some (-12000, 64), true, 0) ∧
    (let d := (metered .settling none).meterBlock 3 []
     ((d.meter 3).result, (d.meter 3).state)) = (none, .measuring) := by decide +kernel

theorem test_frozen_edge_counts :
    ((after (.frozenEdge 3) { State.reset with dev := scene }).dev.meter 3).counted = 64 := by decide +kernel

/-! ## Stream Intake -/

theorem meets_TagWriteStoresAndTagReadReturns :
    asks 0x30 7 (pad 7 [0, 0, 0, 0, 0, 2]) = true ∧ 1 < u8 (pad 7 [0, 0, 0, 0, 0, 2]) 5 ∧
    u8 (pad 7 [0, 32]) 5 ≤ 1 ∧ 31 < u16 (pad 7 [0, 32]) 0 ∧ asks 0x30 7 (pad 7 [0, 31, 1, 0x33, 0, 1]) = true ∧
    u8 (pad 7 [0, 31, 1, 0x33, 0, 1]) 5 = 1 ∧ u16 (pad 7 [0, 31, 1, 0x33, 0, 1]) 0 = (31 : Fin 32).val ∧
    asks 0x31 2 [0, 32] = true ∧ 31 < u16 [0, 32] 0 ∧ u16 [0, 31] 0 = (31 : Fin 32).val := by decide +kernel

theorem test_tagWrite_of_a_fed_slot :
    result .tagWrite 0x30 [0, 31, 1, 0x22, 0, 1, 0] = [.inUse] ∧
    reply .tagRead 0x31 [0, 31] = [(.ok, [1, 0x22, 0, 0, 2])] := by decide +kernel

/-- STREAM_OPEN of a slot with quota 4096. -/
def open' (n policy : Byte) : List Byte :=
  [n, 0, 0, 0x10, 0, 0, 0, 0, 1, 0, 0, 0, 2, 0, 0, 0, 1, 1, policy, 255, 255, 255, 255]

theorem meets_StreamOpenChecksInOrderAndSetsUp :
    asks 0x32 23 (open' 0 2) = true ∧ 1 < u8 (open' 0 2) 18 ∧ u8 (open' 16 1) 18 ≤ 1 ∧ 15 < u8 (open' 16 1) 0 ∧
    u8 (open' 15 1) 0 = (15 : Fin 16).val ∧ u8 (open' 15 1) 18 ≤ 1 ∧ asks 0x32 23 (open' 7 0) = true ∧
    (scene.slot 7).isOpen = false ∧ scene.intake.slotTag 7 ≠ none := by decide +kernel

theorem test_streamOpen :
    result .streamOpen 0x32 (open' 2 0) = [.busy] ∧ result .streamOpen 0x32 (open' 1 0) = [.notReady] ∧
    (let x := (after .streamOpen (ask scene 0x32 (open' 7 1))).dev.slot 7
     (x.state, x.e, x.config.quota, x.config.policy)) = (.filling, 0xFFFFFFFF, 4096, .stall) := by decide +kernel

theorem meets_StreamCloseShutsTheSlot :
    asks 0x33 2 [16, 0] = true ∧ 15 < u8 [16, 0] 0 ∧ (scene.slot 0).isOpen = false ∧
    asks 0x33 2 [2, 0] = true ∧ (scene.slot 2).isOpen = true ∧ (scene.slot 2).readers ≠ [] ∧ flagAt [2, 0] 1 = false ∧
    flagAt [2, 1] 1 = true ∧ u8 [15, 0] 0 = (15 : Fin 16).val ∧ (scene.slot 15).isOpen = true ∧
    (scene.slot 15).readers = [] ∧
    (∀ l v, (scene.voice l v).reads 15 = false ∧ (scene.voice l v).claims 15 = false) := by decide +kernel

theorem test_streamClose_cancels :
    (let d := (after .streamClose (ask scene 0x33 [2, 1])).dev
     ((d.slot 2).state, (d.voice 1 3).pending, (d.voice 1 3).lastCause)) = (.closed, none, some .closed) := by
  decide +kernel

theorem meets_PoolConfigStoresAndTests : asks 0x35 8 [0, 0, 0x0F, 0xFF, 0, 0, 0, 1] = true := by decide +kernel

theorem test_poolConfig :
    (after .poolConfig (ask scene 0x35 [0, 0, 0x0F, 0xFF, 0, 0, 0, 1])).dev.intake.pool =
      { free := 4096, reserve := 4095, hysteresis := 1, hold := false } := by decide +kernel

/-- The blocks with the bench link UP at address 0. -/
def linked (d : Device) : State :=
  { State.reset with
    dev := d, port := { State.reset.port with
      bench := { Link.reset with state := .up }, chain := { Link.reset with state := .up } } }

def cellPayload : List Byte := List.replicate 256 1

theorem meets_SampleInOrderIsStored :
    (linked scene).hears 0 = true ∧ cellPayload.length = 256 ∧ scene.intake.lookup 0x2200 = .slot 2 ∧
    (let x := scene.slot 2
     x.state = .primed ∧ x.e = 101 ∧ precedes x.e x.h = false ∧ (x.e + 1 - x.h).toNat ≤ 1073741824 ∧
     x.held < x.config.quota) ∧ 0 < scene.intake.pool.free := by decide +kernel

theorem meets_SampleInOrderIsStored_longest :
    (let x : Slot := { scene.slot 2 with e := 100 + 1073741823 }
     precedes x.e x.h = false ∧ (x.e + 1 - x.h).toNat = 1073741824) := by decide +kernel

/-- Slot 2 with its quota of 1 used up. -/
def fullSlot : Slot :=
  { opened .running with
    config := { (opened .running).config with quota := 1 }, e := 101, queue := [.data 100 []] }

theorem meets_SampleInOrderIsStored_gaps_and_voids :
    (let x := scene.slot 2
     precedes 104 x.h = false ∧ precedes x.e 104 = true ∧ ((104 : Seq) - x.e).toNat = x.config.gapLimit ∧
     ((104 : Seq) + 1 - x.h).toNat ≤ 1073741824 ∧ x.held ≠ x.config.quota) ∧
    scene.intake.pool.free ≠ 0 ∧ (({ scene.intake.pool with free := 0 } : Pool).free = 0) ∧
    fullSlot.held = fullSlot.config.quota ∧ precedes 101 fullSlot.h = false ∧ fullSlot.e = 101 := by decide +kernel

theorem test_gap_is_filled :
    (let x := (after (.sample 0 0x2200 104 cellPayload) (linked scene)).dev.slot 2
     (x.queue.take 1, x.queue.length, x.e, x.counters.gapVoids, x.counters.accepted)) =
      ([.void 100 4], 2, 105, 3, 1) ∧
    (let x := (after (.sample 0 0x2200 101 cellPayload) (linked (scene.setSlot 2 fullSlot))).dev.slot 2
     (x.queue.length, x.e, x.counters.overQuota)) = (2, 102, 1) := by decide +kernel

theorem test_sample_is_stored :
    (let x := (after (.sample 0 0x2200 101 cellPayload) (linked scene)).dev.slot 2
     (x.queue.length, x.e, x.counters.accepted)) = (2, 102, 1) := by decide +kernel

theorem meets_UntakenSamplesAreCounted :
    scene.intake.lookup 0x2204 = .unknown ∧ scene.intake.lookup 0x2202 = .discard ∧
    scene.intake.lookup 0x2203 = .slot 7 ∧ (scene.slot 7).isOpen = false ∧
    scene.intake.lookup 0x2200 = .slot 2 ∧ (scene.slot 2).isOpen = true ∧ precedes 99 (scene.slot 2).h = true ∧
    precedes 100 (scene.slot 2).h = false ∧ precedes 100 (scene.slot 2).e = true ∧
    scene.intake.lookup 0x2201 = .slot 15 ∧ (scene.slot 15).state = .draining ∧
    precedes 100 (scene.slot 15).h = false ∧ precedes 100 (scene.slot 15).e = false := by decide +kernel

theorem meets_UntakenSamplesAreCounted_ends :
    (let x := scene.slot 2
     x.state = .primed ∧ precedes 99 x.h = true ∧ precedes 100 x.h = false ∧ precedes 100 x.e = true) ∧
    (scene.slot 15).final = some 100 := by decide +kernel

theorem test_sample_past_the_end :
    ((after (.sample 0 0x2201 100 cellPayload) (linked scene)).dev.slot 15).counters.pastEnd = 1 := by decide +kernel

theorem meets_SlotsDrainAndBreak :
    (let x := scene.slot 2
     x.state = .primed ∧ x.e = 101 ∧ precedes x.e x.h = false ∧
     precedes 105 x.h = false ∧ precedes 105 x.e = false ∧ x.config.gapLimit < ((105 : Seq) - x.e).toNat) := by
  decide +kernel

theorem meets_SlotsDrainAndBreak_ends :
    (let x := scene.slot 2
     precedes x.e 104 = true ∧ ((104 : Seq) - x.e).toNat = x.config.gapLimit ∧ ((104 : Seq) - x.h).toNat ≤ 1073741824) ∧
    (let x : Slot := { opened .running with e := 100 + 1073741824 }
     precedes x.e x.h = false ∧ precedes x.e x.e = false ∧ 1073741824 < (x.e + 1 - x.h).toNat ∧
     precedes (x.e + 1) x.h = false ∧ precedes (x.e + 1) x.e = false ∧ x.e + 1 ≠ x.e ∧
     1073741824 < (x.e + 1 - x.h).toNat) ∧
    (scene.slot 15).state = .draining ∧ (scene.slot 15).final ≠ some 101 := by decide +kernel

/-- A report that a reader of slot 2 lacks its position. -/
def lacking : Cursor :=
  { slot := 2, index := 0, cell := 101, offset := 0, lacking := true, read := true, touched := true }

theorem meets_SlotsDrainAndBreak_handOffs :
    ((scene.slot 2).reader 0).map Reader.lacking = some false ∧ (scene.slot 2).reader 1 = none ∧
    (scene.slot 2).consumed = false ∧ (scene.slot 2).readers ≠ [] ∧ (scene.slot 15).readers = [] ∧
    precedes (scene.slot 2).e (scene.slot 2).recompute.h = false ∧
    (let x : Slot := { scene.slot 2 with
       readers := [{ index := 0, lane := 1, voice := 3, pending := false, cell := 110, offset := 0, lacking := true }] }
     precedes x.e x.recompute.h = true) ∧
    (let x : Slot := { scene.slot 15 with consumed := true }
     x.readers = [] ∧ x.consumed = true ∧ x.state = .draining ∧ x.earlyLeave = false) := by decide +kernel

theorem test_handOff :
    (let x := (scene.handOff 2 [lacking] []).slot 2
     (x.state, x.consumed, x.h, x.queue, x.counters.underrun)) = (.running, true, 101, [], 1) ∧
    (((scene.setSlot 15 { scene.slot 15 with consumed := true }).endTest 15).slot 15).endCause = some .done := by
  decide +kernel

theorem meets_SlotsDrainAndBreak_cursors :
    ((withVoice streaming).voice 1 2).binding = some (.stream 2 0) ∧
    (((withVoice streaming).slot 2).reader 0).isSome = true ∧ ((withVoice streaming).slot 2).reader 1 = none ∧
    ((withVoice streaming).voice 1 0).binding = none := by decide +kernel

theorem test_handOffReaders :
    (let k := Block.start (withVoice streaming) 1
     let x := ({ k with cursors := put k.cursors 2 (some lacking) }.handOffReaders k.dev).slot 2
     (x.state, x.consumed, x.h, x.counters.underrun)) = (.running, true, 101, 1) := by decide +kernel

theorem test_slot_drains_and_breaks :
    ((after (.streamEnd 0 0x2200 101) (linked scene)).dev.slot 2).state = .draining ∧
    ((after (.streamEnd 0 0x2200 105) (linked scene)).dev.slot 2).state = .broken := by decide +kernel

/-! ## Clip Store -/

theorem meets_ClipOpenAllocatesAndLoads :
    asks 0x40 6 (pad 6 [1, 0]) = true ∧ 255 < u16 (pad 6 [1, 0]) 0 ∧ u32 (pad 6 [0, 255]) 2 < 1 ∧
    67108864 < u32 [0, 255, 4, 0, 0, 1] 2 ∧ u16 [0, 255, 4, 0, 0, 0] 0 = (255 : Fin 256).val ∧
    u32 [0, 255, 4, 0, 0, 0] 2 = 67108864 ∧ (scene.clip 3).state ≠ .empty ∧ (scene.clip 255).state = .empty ∧
    scene.clips.loadSlots.get 1 = none ∧ (∀ i, i < 1 → (scene.clips.loadSlots.get i).isSome = true) ∧
    pagesOf (scene.clips.freeList.take 16) < (67108864 + 1023) / 1024 ∧
    pagesOf (scene.clips.freeList.take 16) = (67106816 + 1023) / 1024 := by decide +kernel

theorem meets_ClipOpenAllocatesAndLoads_walk :
    (let whole : List Extent := [{ start := 0, count := 2 }]
     scene.clips.freeList = whole ++ { start := 4, count := 65532 } :: [] ∧ pagesOf whole < 3 ∧
     3 ≤ pagesOf whole + 65532) := by decide +kernel

theorem meets_ClipOpenAllocatesAndLoads_full :
    (let k : ClipStore := { scene.clips with loadSlots := put scene.clips.loadSlots 1 (some { clip := 9, received := [] }) }
     (k.clips.get 255).state = .empty ∧ (∀ i, (k.loadSlots.get i).isSome = true)) := by decide +kernel

theorem test_clipOpen :
    reply .clipOpen 0x40 [0, 255, 4, 0, 0, 0] = [(.noSpace, [0, 0, 0xFF, 0xFE])] ∧
    reply .clipOpen 0x40 [0, 255, 3, 0xFF, 0xF8, 0] = [(.ok, [1, 0, 0, 0, 2, 0, 0x0F, 0xFF, 0xE0])] := by decide +kernel

theorem meets_ClipsAreSealedAndReturned :
    asks 0x41 2 [1, 0] = true ∧ 255 < u16 [1, 0] 0 ∧ u16 [0, 255] 0 = (255 : Fin 256).val ∧
    (scene.clip 255).state ≠ .loading ∧ asks 0x41 2 [0, 4] = true ∧ (scene.clip 4).state = .loading ∧
    scene.clips.loadSlots.get 0 = some { clip := 4, received := [0] } ∧
    (∀ i y, scene.clips.loadSlots.get i = some y → y.clip = 4 → i = 0) ∧
    1 < ((scene.clip 4).length + 63) / 64 ∧ [0, 1].length = ((scene.clip 4).length + 63) / 64 ∧
    asks 0x42 2 [0, 4] = true ∧ asks 0x42 2 [1, 0] = true ∧ asks 0x43 2 [0, 3] = true ∧ asks 0x43 2 [1, 0] = true := by
  have h : ∀ i : Fin 2, scene.clips.loadSlots.get i = if i = 0 then some { clip := 4, received := [0] } else none := by
    decide +kernel
  refine ⟨by decide +kernel, by decide +kernel, by decide +kernel, by decide +kernel, by decide +kernel,
    by decide +kernel, by decide +kernel, ?_, by decide +kernel, by decide +kernel, by decide +kernel,
    by decide +kernel, by decide +kernel, by decide +kernel⟩
  intro i y hy _
  rw [h i] at hy
  by_cases hi : i = 0
  · exact hi
  · simp [hi] at hy

theorem test_clips_are_sealed_and_returned :
    reply .clipSeal 0x41 [0, 4] = [(.incomplete, [0, 0, 0, 1, 0, 0, 0, 1])] ∧
    ((after .clipAbort (ask scene 0x42 [0, 4])).dev.clips.freeList) =
      [{ start := 0, count := 2 }, { start := 3, count := 65533 }] ∧
    result .clipDelete 0x43 [0, 3] = [.inUse] := by decide +kernel

theorem meets_ClipDataIsWrittenThroughTheExtents :
    (linked scene).hears 0 = true ∧ cellPayload.length = 256 ∧ (0x00FF : BitVec 16).toNat = (255 : Fin 256).val ∧
    (scene.clip 255).state ≠ .loading ∧ (scene.clip 4).state = .loading ∧
    (0x0004 : BitVec 16).toNat = (4 : Fin 256).val ∧ ((scene.clip 4).length + 63) / 64 = (2 : BitVec 32).toNat ∧
    scene.clips.loadSlotOf 4 = some (0, { clip := 4, received := [0] }) ∧
    sampleAddress (scene.clip 4).extents (64 * 1) + 256 ≤ 268435456 ∧
    sampleAddress [{ start := 65535, count := 1 }] (64 * 15) + 256 = 268435456 := by decide +kernel

theorem test_clipData_is_written :
    (let k := (after (.clipData 0 4 1 cellPayload) (linked scene)).dev.clips
     (k.memory.take 1, k.memory.length, k.loadSlots.get 0, k.counters.cellsWritten)) =
      ([(12544, 1)], 256, some { clip := 4, received := [0, 1] }, 1) := by decide +kernel

theorem meets_OnlyClipDataWritesClipMemory :
    (∃ t, exec .nop State.reset = .next t) ∧ (∃ t, exec (.decodedSymbol .bench .stop) State.reset = .next t) ∧
    ∀ rest, State.reset.port.bench.receiving ≠ some (0x03 :: rest) :=
  ⟨⟨_, rfl⟩, ⟨_, rfl⟩, fun _ h => nomatch h⟩

/-! ## Cue Engine -/

theorem meets_EventMapEntriesAreStored :
    asks 0x50 9 (pad 9 [125, 0, 2]) = true ∧ 1 < u8 (pad 9 [125, 0, 2]) 2 ∧ u8 (pad 9 [126]) 2 ≤ 1 ∧
    asks 0x50 9 (pad 9 [126]) = true ∧ 125 < u8 (pad 9 [126]) 0 ∧ u8 (pad 9 [125]) 0 = (125 : Fin 126).val ∧
    asks 0x52 1 [126] = true ∧ acts 0x52 1 (pad 15 [125]) = true ∧ asks 0x53 1 [125] = true ∧
    acts 0x53 1 (pad 15 [126]) = true ∧ u8 [125] 0 = (125 : Fin 126).val := by decide +kernel

theorem test_mapWrite :
    result .mapWrite 0x50 (pad 9 [126, 0, 2]) = [.badField] ∧
    ((after .mapWrite (ask scene 0x50 [125, 7, 1, 3, 0, 0, 255, 0, 0])).dev.cue.map.get 125) =
      { level := 7, list := some 255, notice := true, once := true, armed := true } ∧
    ((after (.mapDisarm .action) (act scene 0x53 (pad 15 [125]))).dev.cue.map.get 125).armed = false := by
  decide +kernel

theorem meets_ThresholdAndAbortActAndSelect :
    asks 0x54 1 [8] = true ∧ asks 0x54 1 [7] = true ∧ (∀ k, scene.cue.pending.get k = none) ∧
    asks 0x5A 1 [1] = true := by decide +kernel

theorem test_threshold_and_abort :
    (after .cueThreshold (ask scene 0x54 [7])).dev.cue.threshold = 7 ∧ result .cueThreshold 0x54 [8] = [.outOfRange] ∧
    result .cueAbort 0x5A [0] = [.outOfRange] := by decide +kernel

/-- Source 125 mapped to list 255 at level 7. -/
def mapped : Device :=
  { scene with cue := { scene.cue with
    map := put scene.cue.map 125 { level := 7, list := some 255, notice := true, once := true, armed := true } } }

/-- The same with sources 3 and 125 pending. -/
def marked : Cue :=
  { mapped.cue with
    pending := put (put mapped.cue.pending 125 (some { level := 7, list := 255, detail := 1, merge := 0 }))
      3 (some { level := 1, list := 0, detail := 2, merge := 255 }) }

theorem meets_SelectionStartsTheHighestLevel :
    marked.winner = some 125 ∧
    (let e := mapped.cue.map.get 125
     e.armed = true ∧ 1 ≤ e.level ∧ e.level ≤ 7 ∧ e.list = some 255 ∧ mapped.cue.stack = [] ∧ e.level = 7) ∧
    (∀ j, mapped.cue.pending.get j = none) := by decide +kernel

theorem meets_ListAndCueWritesStoreWhole :
    asks 0x55 6 (pad 6 [1, 0]) = true ∧ 255 < u16 (pad 6 [1, 0]) 0 ∧ asks 0x55 6 [0, 255, 7, 255, 0, 1] = true ∧
    u16 [0, 255, 7, 255, 0, 1] 0 = (255 : Fin 256).val ∧ asks 0x57 20 (pad 20 [7, 255]) = true ∧
    2047 + [ActionRecord.nop].length ≤ 2048 := by decide +kernel

theorem test_list_and_cue_writes :
    (after .listWrite (ask scene 0x55 [0, 255, 7, 255, 0, 1])).dev.cue.lists.get 255 = { first := 2047, count := 1 } ∧
    ((after .cueWrite (ask scene 0x57 (pad 20 [7, 255, 0, 0, 0x5F, 9]))).dev.cue.actions.get 2047).kind = 0x5F ∧
    result .cueWrite 0x57 (pad 20 [7, 255, 0, 0, 0x10]) = [.badKind] := by decide +kernel

theorem meets_CueRaiseRaisesTheSoftSource :
    asks 0x59 2 [4, 9] = true ∧ 3 < u8 [4, 9] 0 ∧ acts 0x59 2 (pad 15 [3, 9]) = true ∧
    u8 [3, 9] 0 = (3 : Fin 4).val ∧ (11 : Fin 126).val = 8 + (3 : Fin 4).val := by decide +kernel

/-- CUE_RAISE of soft source 3, mapped to list 9 at level 2. -/
def raised : State :=
  after (.cueRaise .request) (ask { scene with cue := { scene.cue with
    map := put scene.cue.map 11 { level := 2, list := some 9, notice := true, once := false, armed := true } } }
    0x59 [3, 0x44])

theorem test_cueRaise_starts_a_list :
    raised.dev.cue.stack.map (fun c => (c.source, c.level, c.list, c.detail)) = [(11, 2, 9, 0x44)] ∧
    raised.dev.notices.queue.map (fun n => (n.kind, n.source, n.aux, n.detail)) = [(.event, 11, 2, 0x44)] := by
  decide +kernel

theorem meets_ActionsStepAndWaitHoldsTheContext :
    acts 0x00 0 (pad 15 []) = true ∧ acts 0x5F 1 (pad 15 [9]) = true ∧ (act scene 0 []).dev.cue.stack = [top] ∧
    top.state = .running ∧ ((act scene 0 []).dev.cue.lists.get top.list).count ≤ ({ top with index := 1 } : Context).index ∧
    acts 0x5E 5 (pad 15 [8]) = true ∧ 7 < u8 (pad 15 [8]) 0 ∧ acts 0x5E 5 (pad 15 [7, 0, 0, 0, 64]) = true ∧
    u8 (pad 15 [7, 0, 0, 0, 64]) 0 = (7 : Fin 8).val ∧
    (scene.lane 7).time + u32 (pad 15 [7, 0, 0, 0, 64]) 1 = 281474976710656 ∧ (scene.lane 0).state = .stopped := by
  decide +kernel

theorem test_wait_and_notice :
    ((after .wait (act scene 0x5E (pad 15 [1, 0, 0, 0, 60]))).dev.cue.stack.map fun c => (c.index, c.state)) =
      [(1, .waiting 1 700)] ∧
    ((after .wait (act scene 0x5E (pad 15 [0]))).dev.cue.stack) = [] ∧
    ((after .notice (act scene 0x5F (pad 15 [9]))).dev.notices.queue.map fun n => (n.kind, n.source, n.detail)) =
      [(.user, 9, 125)] := by decide +kernel

/-! ## Triggers, markers and meters -/

theorem meets_TriggersAreConfiguredAndTick :
    asks 0x60 5 (pad 5 [4]) = true ∧ 3 < u8 (pad 5 [4]) 0 ∧ u8 (pad 5 [3]) 0 = (3 : Fin 4).val ∧
    (6 : Fin 126).val = 2 * (3 : Fin 4).val ∧ (7 : Fin 126).val = 2 * (3 : Fin 4).val + 1 := by decide +kernel

theorem test_trigger_rises :
    (let d := { scene with triggers := put scene.triggers 3 { Trigger.reset 0 true with counter := 7 } }
     let x := (after (.triggerTick 3 false) { State.reset with dev := d }).dev.triggers.get 3
     (x.counter, x.filtered, x.riseCount, x.sample)) = (8, true, 1, false) ∧
    result .trigConfig 0x60 [3, 3, 1, 0, 0] = [.badField] ∧ result .trigConfig 0x60 [3, 2, 32, 0, 0] = [.outOfRange] := by
  decide +kernel

/-- MARKER_CONFIG with OPEN_DRAIN and ACTIVE_LOW. -/
def marker (n condition arg width level : Byte) : List Byte := [n, condition, arg, 1, 1, 0, width, level]

/-- The scene with this marker at M5. -/
def withMarker (m : Marker) : State := { State.reset with dev := { scene with markers := put scene.markers 5 m } }

theorem meets_MarkersAreSetAndPulsed :
    asks 0x62 8 (marker 5 8 0 1 0) = true ∧ 7 < u8 (marker 5 8 0 1 0) 1 ∧ 2 < u8 (marker 5 7 0 1 3) 7 ∧
    conditionAt (marker 6 0 3 1 0) 1 = some (some (.laneRunning 3)) ∧ 5 < u8 (marker 6 0 3 1 0) 0 ∧
    conditionAt (marker 5 0 8 1 0) 1 = some none ∧ u16 (marker 5 0 3 0 0) 5 < 1 ∧
    u8 (marker 5 0 3 255 0) 0 = (5 : Fin 6).val ∧ u16 (marker 5 0 3 255 0) 5 = 255 ∧
    boolEnumAt (marker 5 0 3 255 0) 3 = some true ∧ driveAt (marker 5 0 3 255 0) 4 = some .openDrain ∧
    frozenLevelAt (marker 5 0 3 255 0) 7 = some .holdLast ∧
    frozenLevelAt (marker 5 0 3 255 1) 7 = some .forceActive ∧
    (∃ l, (Condition.laneRunning 3).lane = some l ∧ (scene.lane l).state = .frozen) := by decide +kernel

theorem meets_MarkersAreSetAndPulsed_set_and_pulses :
    asks 0x63 2 [5, 2] = true ∧ 1 < u8 [5, 2] 1 ∧ acts 0x63 2 (pad 15 [6, 1]) = true ∧ 5 < u8 [6, 1] 0 ∧
    u8 [5, 1] 1 ≤ 1 ∧ u8 [5, 1] 0 = (5 : Fin 6).val ∧
    (let m := (withMarker { Marker.reset with startsDue := [640], pulse := .running 9 }).dev.markers.get 5
     m.startsDue = 640 :: [] ∧ m.condition.lane = none ∧ m.pulse = .running 9) ∧
    ((withMarker Marker.reset).dev.markers.get 5).pulse = .none := by decide +kernel

theorem test_markers :
    ((after .markerConfig (ask scene 0x62 (marker 5 0 3 1 0))).dev.markers.get 5).frozenHold = some true ∧
    (let d := (after (.pulseBegin 5) (withMarker { Marker.reset with startsDue := [640], width := 3 })).dev
     (d.now, (d.markers.get 5).pulse, (d.markers.get 5).startsDue)) = (640, .running 92800, []) ∧
    ((after (.markerSet .action) (act scene 0x63 (pad 15 [5, 0]))).dev.markers.get 5).softLevel = true := by
  decide +kernel

/-- METER_CONFIG of a source, window 3 and CONTINUOUS, with the high threshold at 1000. -/
def metering (l source arg window lowHi lowLo : Byte) : List Byte := [l, source, arg, window, 1, 0x03, 0xE8, lowHi, lowLo]

theorem meets_MetersAreConfiguredAndRun :
    asks 0x65 9 (metering 7 3 0 3 0xD1 0x20) = true ∧ 2 < u8 (metering 7 3 0 3 0xD1 0x20) 1 ∧
    meterSourceAt (metering 8 1 3 3 0xD1 0x20) 1 = some (some (.voice 3)) ∧ 7 < u8 (metering 8 1 3 3 0xD1 0x20) 0 ∧
    boolEnumAt (metering 8 1 3 3 0xD1 0x20) 4 = some true ∧ 3 < u8 (metering 7 1 3 4 0xD1 0x20) 3 ∧
    meterSourceAt (metering 7 1 4 3 0xD1 0x20) 1 = some none ∧ s16 (metering 7 1 3 3 0xD1 0x1F) 7 < -12000 ∧
    s16 (metering 7 1 3 3 0xD1 0x20) 7 = -12000 ∧ s16 (metering 7 1 3 3 0xD1 0x20) 5 = 1000 ∧
    u8 (metering 7 1 3 3 0xD1 0x20) 0 = (7 : Fin 8).val := by decide +kernel

theorem meets_MetersAreConfiguredAndRun_operations :
    asks 0x66 1 [8] = true ∧ acts 0x66 1 (pad 15 [7]) = true ∧ asks 0x67 1 [7] = true ∧ acts 0x67 1 (pad 15 [8]) = true ∧
    7 < u8 [8] 0 ∧ u8 [7] 0 = (7 : Fin 8).val ∧ asks 0x68 1 [8] = true ∧ asks 0x68 1 [7] = true ∧
    (scene.meter 7).result = none ∧ ({ scene.meter 7 with result := some (-600, 64) } : Meter).result = some (-600, 64) := by
  decide +kernel

theorem test_meters :
    (let x := (after .meterConfig (ask scene 0x65 (metering 7 1 3 3 0xD1 0x20))).dev.meter 7
     (x.source, x.window, x.low, x.settlePending)) = (.voice 3, 3, -12000, true) ∧
    result (.meterStart .request) 0x66 [7] = [.busy] ∧
    ((after (.meterStop .request) (ask scene 0x67 [3])).dev.meter 3).state = .idle ∧
    result .meterRead 0x68 [7] = [.notReady] := by decide +kernel

/-! ## Bench link and chain -/

/-- A state with these two links. -/
def ported (bench chain : Link) : State :=
  { State.reset with port := { State.reset.port with bench := bench, chain := chain } }

def linkIn (state : LinkState) : Link := { Link.reset with state := state, counter := 14 }

/-- A cell being sent. -/
def someSending (reset : Bool) : Sending :=
  { cell := { kind := 0x0F, addr := 0, wordA := 2, wordB := 0, payload := [] }, resetReply := reset }

theorem test_alignment_and_loss :
    ((after (.alignmentReached .bench) (ported (linkIn .aligning) Link.reset)).port.bench.state) = .offering ∧
    (let s := after (.alignmentLost .bench) (ported { linkIn .up with sending := some (someSending true) } Link.reset)
     (s.port.bench.state, s.port.bench.counters.txAbort, s.port.bench.counters.lossCount, s.agent.resetSent)) =
      (.aligning, 1, 1, true) := by decide +kernel

theorem meets_OffersAreSentAndTaken :
    (linkIn .offering).state = .offering ∧ (linkIn .offering).sending = none ∧ (linkIn .up).state ≠ .offering ∧
    ((0x0102 : BitVec 16).getLsbD 8 = true) ∧ ((0x0001 : BitVec 16).getLsbD 8 = false) ∧
    ((0x01000000 : BitVec 32).getLsbD 24 = true) ∧ ((0xFEFFFFFF : BitVec 32).getLsbD 24 = false) ∧
    (scene.intake.slots.get 15).isOpen = true := by decide +kernel

theorem test_offer_exchange :
    (let x := (after (.offer .bench 15 0x0101 0x01000000) (ported (linkIn .offering) Link.reset)).port.bench
     (x.state, x.rate, x.peerServer, x.answerDue, x.counters.upCount)) = (.up, some 1, some true, true, 1) ∧
    (after (.offer .chain 3 0x0102 0) (ported Link.reset (linkIn .up))).port.chain.counters.roleErr = 1 := by
  decide +kernel

theorem meets_BadCellsAndSymbolsAreCounted :
    ((linkIn .offering).state = .offering ∨ (linkIn .offering).state = .up) ∧ (linkIn .down).state = .down ∧
    (linkIn .aligning).state = .aligning ∧ min 15 ((linkIn .up).counter + 1) ≠ 0 ∧ (linkIn .up).receiving = none ∧
    ({ linkIn .up with receiving := some [] } : Link).receiving = some [] ∧ Symbol.idle ≠ .stop ∧
    (List.replicate 9 (0 : Byte)).length < 10 ∧ 10 ≤ (List.replicate 10 (0 : Byte)).length ∧
    crcOf (List.replicate 10 0) ≠ 0x1D0F ∧ ({ linkIn .up with counter := 3 } : Link).counter ≤ 3 := by decide +kernel

theorem test_badCell_acts_on_the_receiver :
    (let x (bad : BadCell) (y : Link) := (after (.badCell .bench bad) (ported y Link.reset)).port.bench
     let y : Link := { linkIn .up with receiving := some [1, 2] }
     ((x .startInside y).receiving, (x .idleInside y).receiving, (x .endOutside (linkIn .up)).counters.frameErr,
      (x .codeErrorInside y).counter, (x .codeErrorInside { y with counter := 3 }).state, (x .tooLong y).receiving)) =
      (some [], none, 1, 11, .aligning, none) := by decide +kernel

theorem meets_BadCellsAndSymbolsAreCounted_good_crc :
    (let c : Cell := { kind := 0x0E, addr := 0, wordA := 0, wordB := 0, payload := [] }
     10 ≤ (cellBytes c).length ∧ crcOf (cellBytes c) = 0x1D0F ∧ cellOf (cellBytes c) = c ∧
     (after (.badCell .bench (.closed (cellBytes c))) (ported (linkIn .up) Link.reset)).port.bench.counters.kindErr = 1) := by
  decide +kernel

theorem test_symbols :
    (after (.decodedSymbol .bench .idle) (ported (linkIn .aligning) Link.reset)).port.bench.state = .offering ∧
    (after (.decodedSymbol .bench .codeError) (ported { linkIn .up with counter := 3 } Link.reset)).port.bench.state =
      .aligning ∧
    (after (.decodedSymbol .bench .start) (ported (linkIn .up) Link.reset)).port.bench.receiving = some [] := by
  decide +kernel

/-- A link in UP that has received the bytes of a cell. -/
def closing (c : Cell) : Link := { linkIn .up with receiving := some (cellBytes c) }

/-- A cell of this kind. -/
def cellOfKind (kind : Byte) (wordA : BitVec 16) (payload : List Byte) : Cell :=
  { kind := kind, addr := 0, wordA := wordA, wordB := 101, payload := payload }

theorem meets_CellBytesPassTheCheck (c : Cell) :
    (closing c).state = .up ∧ (closing c).receiving = some (cellBytes c) := ⟨rfl, rfl⟩

theorem meets_CellBytesPassTheCheck_kinds :
    (cellOfKind 0x01 0x2200 cellPayload).kind = 0x01 ∧ (cellOfKind 0x02 0x2200 []).payload = [] ∧
    (cellOfKind 0x0C 0 []).wordA = 0 ∧ (cellOfKind 0x08 0 []).upstream = true ∧
    (List.replicate 9 (0 : Byte)).length < 10 ∧ crcOf (List.replicate 10 0) ≠ 0x1D0F ∧
    kindArrives .chain (cellOf (cellBytes (cellOfKind 0x01 0 []))) = false ∧
    lengthFits (cellOf (cellBytes (cellOfKind 0x02 0 [0, 0, 0, 0]))) = false := by decide +kernel

theorem test_closed_end_cell_is_taken :
    (let c : Cell := { kind := 0x02, addr := 0, wordA := 0x2200, wordB := 101, payload := [] }
     let s : State := { linked scene with port := { (linked scene).port with
       bench := { linkIn .up with receiving := some (cellBytes c) } } }
     ((after (.decodedSymbol .bench .stop) s).dev.slot 2).state) = .draining := by decide +kernel

theorem meets_CellsAreDisposedOfByAddress :
    wholeWords (List.replicate 256 0) = true ∧ (linked scene).port.bench.state = .up ∧
    (linked scene).port.owns 0x50 = true ∧ (linked scene).port.owns 0x0F = false ∧ (0x0F : Byte).toNat % 16 = 15 ∧
    (linked scene).port.owns 14 = false ∧ (14 : Byte).toNat % 16 ≠ 15 ∧ cellPayload.length = 256 ∧
    (linkIn .down).state = .down ∧ (linkIn .aligning).state = .aligning ∧ (linkIn .offering).state = .offering := by
  decide +kernel

theorem test_broadcast_sample_is_taken_and_forwarded :
    (let s := after (.sample 0x0F 0x2200 101 cellPayload) (linked scene)
     ((s.dev.slot 2).counters.accepted, s.port.forward.length, s.port.bench.counters.cellsIn)) = (1, 1, 1) := by
  decide +kernel

theorem test_requests_are_lost_and_cells_forwarded :
    (let s : State := { linked scene with agent := { Agent.reset with
       requests := List.replicate 16 { tag := 0, kind := 0, payload := [] } } }
     let a := (after (.request 0 1 0x76 0 []) s).agent
     (a.requests.length, a.reqDropped, a.lost, a.lostCount)) = (16, 1, true, 1) ∧
    ((after (.sample 14 0x2200 101 cellPayload) (linked scene)).port.forward.length) = 1 := by decide +kernel

theorem meets_FlowLinkHoldsAndChainCellsMerge :
    (linked scene).port.bench.state = .up ∧ (upCell 0x08 0 256).upstream = true ∧
    (linked scene).port.chain.state = .up := by decide +kernel

/-- 23 cells wait in the merge queue. -/
def merging : State :=
  { linked scene with port := { (linked scene).port with merge := List.replicate 23 (upCell 0x08 0 0) } }

theorem test_merge_holds :
    (let p := (after (.chainUpstreamCell (upCell 0x08 0 0)) merging).port
     (p.merge.length, p.holdSent, p.flowPlace)) = (24, true, some true) ∧
    (after (.flowLink 0 0x01000000) merging).port.held = true := by decide +kernel

/-- A reply waits, with a notice that may be sent and one cell of the chain. -/
def sendable : State :=
  { linked scene with
    agent := { Agent.reset with replies := [replyOf Agent.reset { tag := 7, kind := 0x72, payload := [] } .ok []] }
    dev := { scene with notices := takeNotice 0 .user 1 0 0 NoticeBox.reset }
    port := { (linked scene).port with merge := List.replicate 9 (upCell 0x08 0 0), holdSent := true } }

theorem meets_TransmittersSendInOrder :
    (let p := (linked scene).port
     p.chain.state = .up ∧ p.chain.sending = none ∧ p.chain.answerDue = false ∧ p.flowPlace = none ∧ p.forward = [] ∧
     ({ p with flowPlace := some true } : Port).flowPlace = some true ∧
     ({ p with forward := [upCell 0x04 0 0] } : Port).forward = upCell 0x04 0 0 :: [] ∧
     ({ p.chain with answerDue := true } : Link).answerDue = true) ∧
    Link.reset.state ≠ .up ∧ ({ linkIn .up with sending := some (someSending false) } : Link).sending ≠ none ∧
    (let k := placeFlow { subject := .all, tag := 0, hold := true } []
     k = { subject := .all, tag := 0, hold := true } :: []) := by decide +kernel

theorem meets_TransmittersSendInOrder_classes :
    (let s := sendable
     s.port.bench.state = .up ∧ s.port.bench.sending = none ∧ s.port.bench.answerDue = false ∧
     s.dev.intake.outbox = [] ∧ s.port.held = false ∧ s.port.mark = .chain ∧
     ringAfter .chain = [] ++ .reply :: [.notice, .chain] ∧ s.classReady .reply = true ∧
     ringAfter .reply = [] ++ .notice :: [.chain, .reply] ∧ s.classReady .notice = true ∧
     ringAfter .notice = [] ++ .chain :: [.reply, .notice] ∧ s.classReady .chain = true ∧
     (s.agent.replies.map Reply.kind) = [0x72] ∧ s.port.merge.length = 8 + 1 ∧
     (∀ k ∈ [Machine.Class.reply, .notice, .chain], (linked scene).classReady k = false)) := by decide +kernel

theorem test_grants :
    (let s := after .upstreamGrant sendable
     (s.port.mark, s.port.bench.sending.map fun x => (x.cell.kind, x.resetReply))) = (.reply, some (0x08, true)) ∧
    (let s := after .upstreamGrant { sendable with port := { sendable.port with mark := .notice } }
     (s.port.mark, s.port.merge.length, s.port.flowPlace)) = (.chain, 8, some false) := by decide +kernel

/-! ## Management -/

/-- STORE_PROGRAM of a field. -/
def program (field hi lo : Byte) : List Byte := [field, hi, lo]

theorem meets_NoticesAndStoreAreProgrammed :
    asks 0x71 5 [0, 32, 255, 255, 8] = true ∧ State.reset.dev.notices.queue = [] ∧
    (sendable.dev.notices.queue.map Notice.kind) = [.user] ∧
    asks 0x74 3 (program 10 0 0) = true ∧ 9 < u8 (program 10 0 0) 0 ∧ asks 0x74 3 (program 9 0 1) = true ∧
    u8 (program 9 0 1) 0 = (9 : Fin 10).val ∧ scene.store.program = none ∧
    ({ scene.store with program := some { field := 9, value := 1, endsAt := 5 } } : IdentityStore).program =
      some { field := 9, value := 1, endsAt := 5 } := by decide +kernel

theorem test_storeProgram :
    (after .storeProgram (ask scene 0x74 (program 0 0 14))).dev.store.program =
      some { field := 0, value := 14, endsAt := 122880000 } ∧
    result .storeProgram 0x74 (program 0 0 15) = [.outOfRange] ∧ result .storeProgram 0x74 (program 9 0 2) = [.badField] ∧
    result .noticeConfig 0x71 [0, 33, 0, 0, 8] = [.outOfRange] := by decide +kernel

theorem test_programming_ends :
    (let s := after .programTimerExpiry
       { State.reset with dev := { scene with store := { scene.store with
           program := some { field := 1, value := -60, endsAt := 5 } } } }
     (s.dev.store.fields.get 1, s.dev.store.program, s.dev.notices.queue.map Notice.kind)) =
      ({ value := -60, marked := true }, none, [.storeDone]) := by decide +kernel

/-- The Agent waits for a reset, with its reply being sent. -/
def resetting : State :=
  { State.reset with
    dev := scene
    port := { State.reset.port with bench := { linkIn .up with sending := some (someSending true) }, holdSent := true }
    agent := { Agent.reset with resetWait := true } }

theorem meets_UnitResetWaitsAndThenResets :
    asks 0x72 0 [] = true ∧ State.reset.agent.resetWait = false ∧ resetting.agent.resetWait = true ∧
    resetting.port.bench.sending.any Sending.resetReply = true ∧ (scene.clip 3).state ≠ .loading ∧
    (scene.clip 4).state = .loading ∧ (scene.clips.loadSlots.get 0).map LoadSlot.clip = some 4 ∧
    scene.clips.loadSlots.get 1 = none := by decide +kernel

theorem test_unit_reset :
    (let s := after (.unitResetPerformed 0) resetting
     (s.port.flowPlace, s.agent.resetWait, (s.dev.clip 3).state, (s.dev.clip 4).state, s.dev.clips.freeList,
       s.dev.clips.loadSlots.get 0)) =
      (some false, false, .ready, .empty, [{ start := 0, count := 2 }, { start := 3, count := 65533 }], none) ∧
    (after .unitReset (ask scene 0x72 [])).agent.resetWait = true := by decide +kernel

theorem meets_PlaybackClearStopsAndKeepsTables : asks 0x73 0 [] = true ∧
    scene.intake.pool.hold = false ∧ ({ scene.intake.pool with hold := true } : Pool).hold = true ∧
    Marker.reset.condition.lane = none ∧
    ({ Marker.reset with condition := .segmentEdgePulse 1 } : Marker).condition.lane = some 1 := by decide +kernel

theorem test_playbackClear :
    (let d := (after .playbackClear (ask scene 0x73 [])).dev
     ((d.lane 1).state, (d.voice 1 2).lastCause, (d.slot 2).state, (d.segment 5).fixed.kind)) =
      (.stopped, some .cleared, .closed, .clip) ∧
    (({ Marker.reset with condition := .segmentEdgePulse 1, startsDue := [5], frozenHold := some true } : Marker).clear
      true).frozenHold = none := by decide +kernel

/-- A store whose address and lock are programmed. -/
def programmed : IdentityStore :=
  { IdentityStore.blank with
    fields := put (put IdentityStore.blank.fields 0 { value := 14, marked := true }) 9 { value := 1, marked := true } }

theorem meets_ColdResetLoadsAndResets :
    (programmed.fields.get 0).marked = true ∧ (programmed.fields.get 0).value = (((14 : Fin 15).val : Nat) : Int) ∧
    (IdentityStore.blank.fields.get 0).marked = false ∧ (15 : BitVec 4).toNat = 15 ∧
    (14 : BitVec 4).toNat = (14 : Fin 15).val ∧ (8 : Fin 10).val = 1 + (7 : Fin 8).val := by decide +kernel

theorem test_coldReset :
    (let s := after (.coldReset 15 0) { State.reset with dev := { scene with store := programmed } }
     (s.port.address, s.port.origin, s.dev.store.lock, (s.dev.lane 1).state)) = (some 14, .store, true, .stopped) ∧
    (after (.coldReset 15 0) State.reset).port.address = none := by decide +kernel

/-! ## What every step keeps -/

theorem meets_EveryStepKeepsTheSizes : State.reset.bounded = true ∧ ∃ t, step State.reset = .next t :=
  ⟨by decide +kernel, _, rfl⟩

theorem meets_EveryStepAccountsForThePages :
    State.reset.memoryCanonical = true ∧ State.reset.dev.clips.accounted ∧ (∃ t, step State.reset = .next t) := by
  refine ⟨by decide +kernel, ⟨?_, by decide +kernel, ?_⟩, _, rfl⟩
  · intro page
    have h : State.reset.dev.clips.clipCover page = 0 := by
      show ((Vector.replicate 256 Clip.reset).toList.map fun x => covers x.extents page).sum = 0
      have none (n : Nat) : (List.replicate n 0).sum = 0 := by induction n <;> simp_all [List.replicate_succ]
      rw [Vector.toList_replicate, List.map_replicate]
      exact none 256
    rw [h]
    show (List.filter _ [({ start := 0, count := 65536 } : Extent)]).length + 0 = _
    by_cases hp : page < 65536 <;> simp [List.filter, hp]
  · intro c
    have h : ∀ c : Fin 256, (State.reset.dev.clips.clips.get c).extents = [] := by decide +kernel
    exact ⟨fun _ => h c, fun x hx => by rw [h c] at hx; cases hx⟩

theorem meets_EveryStepAccountsForTheBuffers : State.reset.dev.intake.accounted := by
  refine ⟨by decide +kernel, ?_⟩
  intro n _
  have h : ∀ n : Fin 16, (State.reset.dev.intake.slots.get n).queue = [] := by decide +kernel
  exact h n

end Sys2Proof.Tests
end

section
/-!
SUPPORT. The Scene Program's records: what SEG_WRITE, SEG_HOT and SEG_READ answer and store (01: R4, R6, R8), and the
obligations about them.
-/
namespace Sys2Proof.Machine

/-! ## Fields in range -/

theorem gainInRange_eq_false {g : Int} : gainInRange g = false ↔ g < -900 ∨ 60 < g := by
  simp only [gainInRange, Bool.and_eq_false_iff, decide_eq_false_iff_not]
  omega

theorem nextInRange_eq_false {next : Option Nat} :
    nextInRange next = false ↔ next.any (fun n => 1023 < n) = true := by
  cases next with
  | none => simp [nextInRange]
  | some n =>
    simp only [nextInRange, decide_eq_false_iff_not, Option.any_some, decide_eq_true_eq]
    omega

/-- The code FFFFh is absent, and so in range (R209). -/
theorem nextInRange_optU16_eq_false {p : List Byte} {i : Nat} :
    nextInRange (optU16 p i) = false ↔ u16 p i ≠ 0xFFFF ∧ 1023 < u16 p i := by
  rw [nextInRange_eq_false, optU16]
  split <;> simp [*]

/-- Four source kinds have codes (R2). -/
theorem sourceKindOf_of_le {n : Nat} (h : 4 ≤ n) : sourceKindOf n = none := by
  obtain ⟨m, rfl⟩ := Nat.exists_eq_add_of_le' h
  rfl

/-! ## SEG_WRITE (R4) -/

theorem exec_segWrite (s : State) : exec .segWrite s = .next (requestStep 0x10 opSegWrite s) := rfl

/-- Only a length in samples can be 0: with UNTIL_END the length bytes are not read (R211). -/
theorem RawSegment.segLength_eq_zero {raw : RawSegment} :
    raw.segLength = .samples 0 ↔ raw.untilEnd = false ∧ raw.length = 0 := by
  unfold RawSegment.segLength
  cases raw.untilEnd <;> simp

/-- A CLIP record with a length in samples lies past its clip's end. -/
theorem RawSegment.fits_stored_eq_false {raw : RawSegment} {n : Nat} (h : raw.untilEnd = false) :
    (raw.stored .clip).fixed.fits n = false ↔ n < raw.startOffset + raw.length := by
  simp [RawSegment.stored, RawSegment.segLength, Fixed.fits, h]

/-- The result of SEG_WRITE on a record of a known kind, by checks 3 to 10 of R4 in the manual's terms. -/
def Device.segWriteResult (d : Device) (g : Fin 1024) (raw : RawSegment) (kind : SourceKind) : Result :=
  let new := raw.stored kind
  let clip := d.clip new.fixed.clip
  if kind = .stream ∧ 15 < raw.sourceId then .outOfRange
  else if raw.untilEnd = false ∧ raw.length = 0 then .badField
  else if raw.untilEnd = true ∧ kind ≠ .stream then .badField
  else if kind = .stream ∧ raw.repeats ≠ 1 then .badField
  else if raw.gain < -900 ∨ 60 < raw.gain then .outOfRange
  else if raw.next.any (fun n => 1023 < n) = true then .outOfRange
  else if kind = .clip ∧ clip.state = .ready ∧ clip.length < raw.startOffset + raw.length then .outOfRange
  else if new.fixed ≠ (d.segment g).fixed ∧ d.liveCount g ≠ 0 then .inUse
  else .ok

/-- The model's checks give the result of R4. The clip's bounds are compared only after UNTIL_END on a CLIP is refused,
so that the record has a length in samples there. -/
theorem segWriteCheck_getD (d : Device) (g : Fin 1024) (raw : RawSegment) (kind : SourceKind) :
    (d.segWriteCheck g raw kind).getD .ok = d.segWriteResult g raw kind := by
  unfold Device.segWriteCheck Device.segWriteResult
  simp only [apply_ite (Option.getD · Result.ok), Option.getD_some, Option.getD_none, RawSegment.segLength_eq_zero,
    gainInRange_eq_false, nextInRange_eq_false]
  by_cases endless : raw.untilEnd = true ∧ kind ≠ .stream
  · simp only [if_pos endless]
    rfl
  · have bounds (n : Nat) : kind = .clip →
        ((raw.stored kind).fixed.fits n = false ↔ n < raw.startOffset + raw.length) := by
      rintro rfl
      exact RawSegment.fits_stored_eq_false (by simpa using endless)
    simp only [if_neg endless, and_congr_right_iff.mpr fun hk => and_congr_right_iff.mpr fun _ => bounds _ hk]
    rfl

/-- A failed check never gives OK. -/
theorem segWriteCheck_ne_ok (d : Device) (g : Fin 1024) (raw : RawSegment) (kind : SourceKind) :
    d.segWriteCheck g raw kind ≠ some .ok := by
  unfold Device.segWriteCheck
  dsimp only
  repeat' split
  all_goals exact nofun

section
variable {c : Caller} {p : List Byte} {s : State} (long : 26 ≤ p.length)
include long

theorem opSegWrite_of_no_segment (h : 1024 ≤ u16 p 0) : opSegWrite c p s = refuse .outOfRange s := by
  simp [opSegWrite, long, fin?_of_le h]

theorem opSegWrite_of_no_kind (h : u16 p 0 < 1024) (hk : 4 ≤ (rawSegmentAt p 2).kind) :
    opSegWrite c p s = refuse .badField s := by
  have hg : fin? 1024 (u16 p 0) = some ⟨u16 p 0, h⟩ := fin?_of_eq rfl
  simp [opSegWrite, long, hg, sourceKindOf_of_le hk]

/-- A record of a known kind for a segment: all of it is stored, or nothing is (R4). -/
theorem opSegWrite_of_kind {g : Fin 1024} {kind : SourceKind} (hg : u16 p 0 = g.val)
    (hk : sourceKindOf (rawSegmentAt p 2).kind = some kind) :
    opSegWrite c p s =
      { result := s.dev.segWriteResult g (rawSegmentAt p 2) kind
        data := []
        dev := if s.dev.segWriteResult g (rawSegmentAt p 2) kind = .ok then
            { s.dev with segments := put s.dev.segments g ((rawSegmentAt p 2).stored kind) }
          else s.dev } := by
  have result := segWriteCheck_getD s.dev g (rawSegmentAt p 2) kind
  have failed := segWriteCheck_ne_ok s.dev g (rawSegmentAt p 2) kind
  simp only [opSegWrite, needs_of_le long, fin?_of_eq hg, hk]
  rw [← result]
  cases check : s.dev.segWriteCheck g (rawSegmentAt p 2) kind with
  | none => rfl
  | some r =>
    rw [check] at failed
    simp [refuse, show r ≠ .ok by simpa using failed]

end

/-- Settles O5: the model's checks are those of R4, whose two first are made before the record's kind is known. -/
theorem segWriteChecksInOrderAndStores : Obligations.SegWriteChecksInOrderAndStores := by
  intro s p h long raw
  rw [exec_segWrite, requestStep_asked opSegWrite h]
  refine ⟨fun hg => ?noSegment, fun hg hk => ?noKind, fun g kind hg hk => ?checked⟩
  case noSegment => simp [opSegWrite_of_no_segment long hg]
  case noKind => simp [opSegWrite_of_no_kind long hg hk]
  case checked =>
    rw [opSegWrite_of_kind long hg hk, begun_request_dev]
    rfl

/-! ## SEG_HOT (R6) -/

theorem exec_segHot (via : Via) (s : State) : exec (.segHot via) s = .next (viaStep via 0x11 opSegHot s) := rfl

/-- Only a selected gain and a selected next can be out of range. -/
theorem hotWriteAt_inRange_eq_false {p : List Byte} :
    (hotWriteAt p).inRange = false ↔
      (bitAt p 2 0 = true ∧ (s16 p 4 < -900 ∨ 60 < s16 p 4)) ∨
      (bitAt p 2 3 = true ∧ u16 p 10 ≠ 0xFFFF ∧ 1023 < u16 p 10) := by
  rw [← gainInRange_eq_false, ← nextInRange_optU16_eq_false]
  unfold HotWrite.inRange hotWriteAt
  cases bitAt p 2 0 <;> cases bitAt p 2 3 <;> simp [-Bool.and_eq_false_imp, Bool.and_eq_false_iff]

/-- Each selected hot field is stored, and each other one kept. -/
theorem hotWriteAt_apply (p : List Byte) (old : Hot) :
    (hotWriteAt p).apply old =
      { gain := if bitAt p 2 0 then s16 p 4 else old.gain
        shift := if bitAt p 2 1 then BitVec.ofNat 32 (u32 p 6) else old.shift
        phaseContinue := if bitAt p 2 2 then bitAt p 3 2 else old.phaseContinue
        next := if bitAt p 2 3 then (optU16 p 10).bind (fin? 1024) else old.next
        endEvent := if bitAt p 2 4 then bitAt p 3 3 else old.endEvent } := by
  have selected {α : Type} (b : Bool) (x y : α) : (if b then some x else none).getD y = if b then x else y := by
    cases b <;> rfl
  simp only [HotWrite.apply, hotWriteAt, selected]
  cases bitAt p 2 3 <;> rfl

section
variable {c : Caller} {p : List Byte} {s : State} (long : 12 ≤ p.length)
include long

theorem opSegHot_of_no_segment (h : 1024 ≤ u16 p 0) : opSegHot c p s = refuse .outOfRange s := by
  simp [opSegHot, long, fin?_of_le h]

theorem opSegHot_of_out_of_range (h : (hotWriteAt p).inRange = false) : opSegHot c p s = refuse .outOfRange s := by
  simp only [opSegHot, needs_of_le long, h]
  cases fin? 1024 (u16 p 0) <;> rfl

theorem opSegHot_of_in_range {g : Fin 1024} (hg : u16 p 0 = g.val) (h : (hotWriteAt p).inRange ≠ false) :
    opSegHot c p s = done { s.dev with
      segments := put s.dev.segments g
        { s.dev.segment g with hot := (hotWriteAt p).apply (s.dev.segment g).hot } } := by
  simp only [opSegHot, needs_of_le long, fin?_of_eq hg, if_neg h]
  rfl

end

/-- Settles O6: the live count of the segment is not among the tests. -/
theorem segHotStoresTheSelectedFields : Obligations.SegHotStoresTheSelectedFields := by
  intro via s p h long
  rw [exec_segHot, viaStep_asked opSegHot h]
  refine ⟨fun bad => ?refused, fun g hg goodGain goodNext => ?stored⟩
  case refused =>
    have op : opSegHot (callerOf via s) p (begun via s) = refuse .outOfRange (begun via s) := by
      rcases bad with noSegment | badField
      · exact opSegHot_of_no_segment long noSegment
      · exact opSegHot_of_out_of_range long (hotWriteAt_inRange_eq_false.mpr badField)
    simp [op]
  case stored =>
    have good : (hotWriteAt p).inRange ≠ false := fun bad =>
      (hotWriteAt_inRange_eq_false.mp bad).elim goodGain goodNext
    rw [opSegHot_of_in_range long hg good, hotWriteAt_apply]
    rfl

/-! ## SEG_READ (R8) -/

theorem exec_segRead (s : State) : exec .segRead s = .next (requestStep 0x12 opSegRead s) := rfl

/-- A segment record has 24 bytes (R211). -/
theorem segmentBytes_length (g : Segment) : (segmentBytes g).length = 24 := by
  have next (n : Option Nat) : (bOpt16 n).length = 2 := by cases n <;> rfl
  simp [segmentBytes, b8, b16, b32, b16s, bWord, next]

section
variable {c : Caller} {p : List Byte} {s : State} (long : 2 ≤ p.length)
include long

theorem opSegRead_of_no_segment (h : 1024 ≤ u16 p 0) : opSegRead c p s = refuse .outOfRange s := by
  simp [opSegRead, long, fin?_of_le h]

theorem opSegRead_of_segment {g : Fin 1024} (hg : u16 p 0 = g.val) :
    opSegRead c p s = answer [.one (b16 g.val ++ segmentBytes (s.dev.segment g) ++ b16 (s.dev.liveCount g))] s := by
  simp [opSegRead, long, fin?_of_eq hg]

end

/-- Settles O7: the 28 bytes of the answer fit in one reply, so none is cut off. -/
theorem segReadReturnsTheRecord : Obligations.SegReadReturnsTheRecord := by
  intro s p h long
  rw [exec_segRead, requestStep_asked opSegRead h]
  refine ⟨fun hg => ?noSegment, fun g hg => ?read⟩
  case noSegment => simp [opSegRead_of_no_segment long hg]
  case read =>
    have fits : (b16 g.val ++ segmentBytes (s.dev.segment g) ++ b16 (s.dev.liveCount g)).length ≤ 256 := by
      simp [segmentBytes_length, b16]
    rw [opSegRead_of_segment long hg, answer_result, answer_data, answer_dev, begun_request_dev, pack_one fits]

end Sys2Proof.Machine
end

section
/-!
SUPPORT. The clip operations: which load slot a clip takes and leaves, what CLIP_OPEN, CLIP_SEAL, CLIP_ABORT and
CLIP_DELETE answer and change (05: R103, R104, R108, R110, R111, R113), and the obligations about them.
-/
namespace Sys2Proof.Machine

/-! ## Load slots (R107) -/

section
variable {k : ClipStore} {c : Fin 256} {slot : Fin 2} {load : LoadSlot}

/-- The two load slots in the order in which they are given out. -/
theorem finRange_two : List.finRange 2 = [0, 1] := rfl

theorem ClipStore.freeLoadSlot_eq_none (busy : ∀ i, (k.loadSlots.get i).isSome = true) : k.freeLoadSlot = none := by
  unfold ClipStore.freeLoadSlot
  exact List.find?_eq_none.mpr fun i _ => by rw [Option.isNone_eq_false_iff.mpr (busy i)]; exact Bool.false_ne_true

/-- The free load slot given to a clip is the one below which every slot is busy. -/
theorem ClipStore.freeLoadSlot_eq_some (free : k.loadSlots.get slot = none)
    (lower : ∀ i, i < slot → (k.loadSlots.get i).isSome = true) : k.freeLoadSlot = some slot := by
  have isFree : (k.loadSlots.get slot).isNone = true := Option.isNone_iff_eq_none.mpr free
  rw [ClipStore.freeLoadSlot, finRange_two]
  match slot with
  | 0 => simp only [List.find?_cons, isFree]
  | 1 =>
    have busy : (k.loadSlots.get 0).isNone = false := Option.isNone_eq_false_iff.mpr (lower 0 (by decide))
    simp only [List.find?_cons, busy, isFree]

/-- Freeing a clip's load keeps every slot that loads another clip. -/
theorem ClipStore.freeLoad_eq_map_filter (k : ClipStore) (c : Fin 256) :
    k.freeLoad c = k.loadSlots.map fun y => y.filter fun z => z.clip ≠ c := by
  unfold ClipStore.freeLoad
  congr 1
  funext y
  cases y with
  | none => rfl
  | some z => by_cases hz : z.clip = c <;> simp [hz, Option.filter]

variable (loads : k.loadSlots.get slot = some load) (ofClip : load.clip = c)
  (only : ∀ i y, k.loadSlots.get i = some y → y.clip = c → i = slot)
include loads ofClip only

/-- The one load slot of a clip is the one that tracks it. -/
theorem ClipStore.loadSlotOf_eq_some : k.loadSlotOf c = some (slot, load) := by
  rw [ClipStore.loadSlotOf, finRange_two, List.findSome?_cons]
  match slot with
  | 0 => simp only [loads, if_pos ofClip]
  | 1 =>
    rw [List.findSome?_cons]
    cases first : k.loadSlots.get 0 with
    | none => simp only [loads, if_pos ofClip]
    | some y =>
      have other : y.clip ≠ c := fun hc => absurd (only 0 y first hc) (by decide)
      simp only [loads, if_pos ofClip, if_neg other]

theorem ClipStore.receivedOf_eq : k.receivedOf c = load.received := by
  rw [ClipStore.receivedOf, ClipStore.loadSlotOf_eq_some loads ofClip only]

/-- Freeing a clip's load empties its one load slot and no other. -/
theorem ClipStore.freeLoad_eq_put : k.freeLoad c = put k.loadSlots slot none := by
  have entry (i : Fin 2) : (k.freeLoad c).get i = (put k.loadSlots slot none).get i := by
    rw [ClipStore.freeLoad_eq_map_filter, get_map, get_put]
    by_cases hi : i = slot
    · simp [hi, loads, ofClip]
    · cases hy : k.loadSlots.get i with
      | none => simp
      | some y =>
        have other : y.clip ≠ c := fun hc => hi (only i y hy hc)
        simp [hi, other]
  exact Vector.ext fun i hi => entry ⟨i, hi⟩

end

/-! ## The Agent's request taken: the clip operations read the blocks alone -/

section
variable (s : State) (c : Fin 256)

@[simp] theorem openClip_begun (length : Nat) : openClip (begun .request s) c length = openClip s c length := by
  simp only [openClip, refuse, begun_request_dev]

@[simp] theorem sealClip_begun : sealClip (begun .request s) c = sealClip s c := by
  simp only [sealClip, refuse, begun_request_dev]

@[simp] theorem abortClip_begun : abortClip (begun .request s) c = abortClip s c := by
  simp only [abortClip, refuse, begun_request_dev]

@[simp] theorem deleteClip_begun : deleteClip (begun .request s) c = deleteClip s c := by
  simp only [deleteClip, refuse, begun_request_dev]

end

/-! ## CLIP_OPEN (R108) -/

theorem exec_clipOpen (s : State) : exec .clipOpen s = .next (requestStep 0x40 opClipOpen s) := rfl

/-- The pages of the first entries are pages of the list. -/
theorem pagesOf_take_le (n : Nat) (list : List Extent) : pagesOf (list.take n) ≤ pagesOf list := by
  have split : pagesOf list = pagesOf (list.take n) + pagesOf (list.drop n) := by
    rw [pagesOf, pagesOf, pagesOf, ← List.sum_append_nat, ← List.map_append, List.take_append_drop]
  omega

section
variable {c : Caller} {p : List Byte} {s : State} (long : 6 ≤ p.length)
include long

theorem opClipOpen_of_out_of_range (bad : 255 < u16 p 0 ∨ u32 p 2 < 1 ∨ 67108864 < u32 p 2) :
    opClipOpen c p s = refuse .outOfRange s := by
  simp only [opClipOpen, needs_of_le long]
  cases id : fin? 256 (u16 p 0) with
  | none => rfl
  | some clip =>
    have isClip : ¬ 255 < u16 p 0 := by rw [fin?_eq_some.mp id]; omega
    exact if_pos (bad.resolve_left isClip)

theorem opClipOpen_of_in_range {clip : Fin 256} (hc : u16 p 0 = clip.val) (low : 1 ≤ u32 p 2)
    (high : u32 p 2 ≤ 67108864) : opClipOpen c p s = openClip s clip (u32 p 2) := by
  have inRange : ¬ (u32 p 2 < 1 ∨ 67108864 < u32 p 2) := by omega
  simp only [opClipOpen, needs_of_le long, fin?_of_eq hc, if_neg inRange]

end

section
variable {s : State} {c : Fin 256} {length : Nat} {slot : Fin 2}

theorem openClip_of_not_empty (h : (s.dev.clip c).state ≠ .empty) : openClip s c length = refuse .busy s := if_pos h

variable (empty : (s.dev.clip c).state = .empty)
include empty

theorem openClip_of_no_slot (h : s.dev.clips.freeLoadSlot = none) : openClip s c length = refuse .full s := by
  simp [openClip, empty, h]

variable (free : s.dev.clips.freeLoadSlot = some slot)
include free

theorem openClip_of_no_space (h : pagesOf (s.dev.clips.freeList.take 16) < pagesFor length) :
    openClip s c length =
      { result := .noSpace, data := b32 (pagesOf (s.dev.clips.freeList.take 16)), dev := s.dev } := by
  have fits : (b32 (pagesOf (s.dev.clips.freeList.take 16))).length ≤ 256 := by simp [b32, b16]
  simp [openClip, empty, free, openablePages, h, pack_one fits]

/-- A granted open: the walk's extents are the clip's, and what the walk leaves is the list (R103). -/
theorem openClip_of_space (h : pagesFor length ≤ pagesOf (s.dev.clips.freeList.take 16)) {extents list : List Extent}
    (walk : allocate (pagesFor length) s.dev.clips.freeList = (extents, list)) :
    openClip s c length =
      { result := .ok
        data := b8 slot.val ++ b32 extents.length ++ b32 (cellsFor length)
        dev := { s.dev with
          clips := { s.dev.clips with
            clips := put s.dev.clips.clips c { state := .loading, length := length, extents := extents }
            loadSlots := put s.dev.clips.loadSlots slot (some { clip := c, received := [] }), freeList := list } } } := by
  have fits : (b8 slot.val ++ b32 extents.length ++ b32 (cellsFor length)).length ≤ 256 := by simp [b8, b32, b16]
  simp [openClip, empty, free, openablePages, Nat.not_lt.mpr h, ClipStore.openClip, walk, pack_one fits,
    -List.append_assoc]

end

/-- Settles O33: the walk is `allocate_walk`, and since the first sixteen entries hold the pages asked for, it takes no more
than sixteen extents. -/
theorem clipOpenAllocatesAndLoads : Obligations.ClipOpenAllocatesAndLoads := by
  intro s p h long
  rw [exec_clipOpen, requestStep_asked opClipOpen h]
  refine ⟨fun bad => ?outOfRange, fun c hc low high => ?inRange⟩
  case outOfRange => simp [opClipOpen_of_out_of_range long bad]
  case inRange =>
    rw [opClipOpen_of_in_range long hc low high, openClip_begun]
    refine ⟨fun taken => ?busy, fun empty busy => ?full, fun slot empty free lower => ?slot⟩
    case busy => simp [openClip_of_not_empty taken]
    case full => simp [openClip_of_no_slot empty (ClipStore.freeLoadSlot_eq_none busy)]
    case slot =>
      have given := ClipStore.freeLoadSlot_eq_some free lower
      refine ⟨fun less => ?noSpace, fun enough => ?opened⟩
      case noSpace => rw [openClip_of_no_space empty given less]
      case opened =>
        have need : 1 ≤ pagesFor (u32 p 2) := by unfold pagesFor; omega
        have inList := Nat.le_trans enough (pagesOf_take_le 16 s.dev.clips.freeList)
        obtain ⟨whole, x, rest, list, before, reached, walk⟩ := allocate_walk _ _ need inList
        have pages := pagesOf_allocate (pagesFor (u32 p 2)) _ inList
        have few := length_allocate 16 (pagesFor (u32 p 2)) _ enough need
        have kept := covers_allocate (pagesFor (u32 p 2)) s.dev.clips.freeList
        rw [openClip_of_space empty given enough walk]
        rw [walk] at pages few kept
        exact ⟨whole, x, rest, list, before, reached, pages, few, kept, rfl⟩

/-! ## Operations on one clip: its id (R110, R111, R113) -/

section
variable {f : State → Fin 256 → OpOut} {kind : Byte} {p : List Byte} {s : State}
  (h : asked .request kind s p = true) (long : 2 ≤ p.length)
include h long

theorem requestStep_onClip_of_no_clip (noClip : 255 < u16 p 0) :
    requestStep kind (onClip f) s = concluded .request s s.dev .outOfRange [] := by
  rw [requestStep_asked _ h]
  simp [onClip, long, fin?_of_le (Nat.succ_le_of_lt noClip)]

theorem requestStep_onClip {c : Fin 256} (hc : u16 p 0 = c.val) :
    requestStep kind (onClip f) s = concluded .request s (f (begun .request s) c).dev
      (f (begun .request s) c).result (f (begun .request s) c).data := by
  rw [requestStep_asked _ h]
  simp [onClip, long, fin?_of_eq hc]

end

/-! ## CLIP_SEAL (R110) -/

theorem exec_clipSeal (s : State) : exec .clipSeal s = .next (requestStep 0x41 (onClip sealClip) s) := rfl

section
variable {s : State} {c : Fin 256} {slot : Fin 2} {load : LoadSlot}

theorem sealClip_of_not_loading (h : (s.dev.clip c).state ≠ .loading) : sealClip s c = refuse .busy s := if_pos h

variable (loading : (s.dev.clip c).state = .loading) (loads : s.dev.clips.loadSlots.get slot = some load)
  (ofClip : load.clip = c) (only : ∀ i y, s.dev.clips.loadSlots.get i = some y → y.clip = c → i = slot)
include loading loads ofClip only

theorem sealClip_of_incomplete (h : load.received.length < cellsFor (s.dev.clip c).length) :
    sealClip s c =
      { result := .incomplete
        data := b32 (cellsFor (s.dev.clip c).length - load.received.length) ++ b32 (firstMissing 0 load.received)
        dev := s.dev } := by
  have fits (m n : Nat) : (b32 m ++ b32 n).length ≤ 256 := by simp [b32, b16]
  simp [sealClip, loading, ClipStore.receivedOf_eq loads ofClip only, h, pack_one (fits _ _)]

theorem sealClip_of_complete (h : cellsFor (s.dev.clip c).length ≤ load.received.length) :
    sealClip s c = done { s.dev with
      clips := { s.dev.clips with
        clips := put s.dev.clips.clips c { s.dev.clip c with state := .ready }
        loadSlots := put s.dev.clips.loadSlots slot none } } := by
  have seals : s.dev.clips.sealClip c =
      { s.dev.clips with
        clips := put s.dev.clips.clips c { s.dev.clip c with state := .ready }
        loadSlots := put s.dev.clips.loadSlots slot none } := by
    rw [ClipStore.sealClip, ClipStore.freeLoad_eq_put loads ofClip only]
    rfl
  simp [sealClip, loading, ClipStore.receivedOf_eq loads ofClip only, Nat.not_lt.mpr h, seals]

end

/-! ## CLIP_ABORT and CLIP_DELETE (R111, R113) -/

theorem exec_clipAbort (s : State) : exec .clipAbort s = .next (requestStep 0x42 (onClip abortClip) s) := rfl

theorem exec_clipDelete (s : State) : exec .clipDelete s = .next (requestStep 0x43 (onClip deleteClip) s) := rfl

theorem ClipStore.removeClip_eq (k : ClipStore) (c : Fin 256) :
    k.removeClip c =
      { k with
        clips := put k.clips c { state := .empty, length := 0, extents := [] }
        loadSlots := k.loadSlots.map fun y => y.filter fun z => z.clip ≠ c
        freeList := returnAll (k.clips.get c).extents k.freeList } := by
  rw [ClipStore.removeClip, ClipStore.freeLoad_eq_map_filter]
  rfl

section
variable {s : State} {c : Fin 256}

theorem abortClip_of_not_loading (h : (s.dev.clip c).state ≠ .loading) : abortClip s c = refuse .busy s := if_pos h

theorem abortClip_of_loading (h : (s.dev.clip c).state = .loading) :
    abortClip s c = done { s.dev with clips := s.dev.clips.removeClip c } := if_neg (Classical.not_not.mpr h)

theorem deleteClip_of_not_ready (h : (s.dev.clip c).state ≠ .ready) : deleteClip s c = refuse .busy s := if_pos h

theorem deleteClip_of_referenced (h : (s.dev.clip c).state = .ready) (used : s.dev.clipRefs c ≠ 0) :
    deleteClip s c = refuse .inUse s := by
  simp [deleteClip, h, used]

theorem deleteClip_of_unreferenced (h : (s.dev.clip c).state = .ready) (unused : s.dev.clipRefs c = 0) :
    deleteClip s c = done { s.dev with clips := s.dev.clips.removeClip c } := by
  simp [deleteClip, h, unused]

end

/-- Settles O34: abort and delete remove the clip alike, and `covers_returnAll` accounts for its pages. -/
theorem clipsAreSealedAndReturned : Obligations.ClipsAreSealedAndReturned := by
  refine ⟨fun s p h long => ?sealed, fun s p long => ?removed⟩
  case sealed =>
    rw [exec_clipSeal]
    refine ⟨fun noClip => by rw [requestStep_onClip_of_no_clip h long noClip], fun c hc => ?clip⟩
    case clip =>
      rw [requestStep_onClip h long hc, sealClip_begun]
      refine ⟨fun other => ?busy, fun slot load loading loads ofClip only =>
        ⟨fun less => ?missing, fun all => ?complete⟩⟩
      case busy => simp [sealClip_of_not_loading other]
      case missing =>
        rw [sealClip_of_incomplete loading loads ofClip only less]
        rfl
      case complete =>
        rw [sealClip_of_complete loading loads ofClip only all]
        rfl
  case removed =>
    rw [exec_clipAbort, exec_clipDelete]
    refine ⟨fun h noClip => by rw [requestStep_onClip_of_no_clip h long noClip],
      fun h noClip => by rw [requestStep_onClip_of_no_clip h long noClip],
      fun c hc => ⟨covers_returnAll _ _, fun h => ?abort, fun h => ?delete⟩⟩
    case abort =>
      rw [requestStep_onClip h long hc, abortClip_begun]
      split
      case isTrue other => simp [abortClip_of_not_loading other]
      case isFalse loading =>
        rw [abortClip_of_loading (Classical.not_not.mp loading), ClipStore.removeClip_eq]
        rfl
    case delete =>
      rw [requestStep_onClip h long hc, deleteClip_begun]
      split
      case isTrue other => simp [deleteClip_of_not_ready other]
      case isFalse ready =>
        split
        case isTrue used => simp [deleteClip_of_referenced (Classical.not_not.mp ready) used]
        case isFalse unused =>
          rw [deleteClip_of_unreferenced (Classical.not_not.mp ready) (Classical.not_not.mp unused), ClipStore.removeClip_eq]
          rfl

end Sys2Proof.Machine
end

section
/-!
SUPPORT. An event and its mark: what each map entry makes of an event (06: R122, R127), what CUE_RAISE answers and does
(R142), and the obligation about it.
-/
namespace Sys2Proof.Machine

/-! ## The mark of an event in the Pending Set (R122, R127) -/

section
variable {c : Cue} {k : Fin 126} (level : Nat) (list : Fin 256) (detail : Byte)

/-- A source not yet pending takes its mark, and selection is made. -/
theorem mark_of_not_pending (h : c.pending.get k = none) :
    c.mark k level list detail =
      ({ c with pending := put c.pending k (some { level, list, detail, merge := 0 }) } : Cue).select := by
  simp [Cue.mark, h]

/-- A pending source keeps its level and list, and counts one more merged event up to 255. -/
theorem mark_of_pending {x : PendingEntry} (h : c.pending.get k = some x) :
    c.mark k level list detail =
      { c with pending := put c.pending k (some { x with merge := min (x.merge + 1) 255, detail }) } := by
  simp [Cue.mark, h, satByte]

end

/-! ## An event by its map entry (R122) -/

/-- The notice part of an event: an EVENT notice is handed on if the entry's notice flag is set. -/
def Device.announce (d : Device) (k : Fin 126) (detail : Byte) : Device :=
  if (d.cue.map.get k).notice then
    d.handNotice .event k.val (BitVec.ofNat 8 (d.cue.map.get k).effective) detail
  else d

section
variable {d : Device} {k : Fin 126} {detail : Byte}

@[simp] theorem announce_cue : (d.announce k detail).cue = d.cue := by
  unfold Device.announce
  split <;> rfl

theorem raise_of_no_list (h : (d.cue.map.get k).list = none) : d.raise k detail = d.announce k detail := by
  simp only [Device.raise, Device.announce, h]

variable {list : Fin 256} (h : (d.cue.map.get k).list = some list)
include h

/-- Level 0, or a disarmed entry: the event marks nothing. -/
theorem raise_of_level_zero (zero : (d.cue.map.get k).effective = 0) :
    d.raise k detail = d.announce k detail := by
  simp [Device.raise, Device.announce, h, zero]

/-- The mark is made on the Cue Engine as it stood before the notice, which does not touch it. -/
theorem raise_of_level_pos (pos : (d.cue.map.get k).effective ≠ 0) :
    d.raise k detail =
      { d.announce k detail with cue := d.cue.mark k (d.cue.map.get k).effective list detail } := by
  calc d.raise k detail
      = { d.announce k detail with
          cue := (d.announce k detail).cue.mark k (d.cue.map.get k).effective list detail } := by
        simp only [Device.raise, Device.announce, h, if_pos (Nat.pos_of_ne_zero pos)]
    _ = _ := by rw [announce_cue]

end

/-! ## CUE_RAISE (R142) -/

theorem exec_cueRaise (via : Via) (s : State) : exec (.cueRaise via) s = .next (viaStep via 0x59 opCueRaise s) := rfl

section
variable {c : Caller} {p : List Byte} {s : State} (long : 2 ≤ p.length)
include long

theorem opCueRaise_of_no_source (h : 3 < u8 p 0) : opCueRaise c p s = refuse .outOfRange s := by
  simp [opCueRaise, long, fin?_of_le (Nat.succ_le_of_lt h)]

/-- Soft source n is event source 8 + n (R121). -/
theorem opCueRaise_of_source {n : Fin 4} {k : Fin 126} (hn : u8 p 0 = n.val) (hk : k.val = 8 + n.val) :
    opCueRaise c p s = done (s.dev.raise k (p.getD 1 0)) := by
  have source : srcSoft n = k := Fin.ext hk.symm
  simp only [opCueRaise, needs_of_le long, fin?_of_eq hn, source]

end

/-- Settles O41: the blocks that a raised soft source leaves, by the branches of its map entry. -/
theorem cueRaiseRaisesTheSoftSource : Obligations.CueRaiseRaisesTheSoftSource := by
  intro via s p h long d
  rw [exec_cueRaise, viaStep_asked opCueRaise h]
  refine ⟨fun noSource => ?outOfRange, fun n k hn hk => ?raised⟩
  case outOfRange => simp [opCueRaise_of_no_source long noSource, d]
  case raised =>
    rw [opCueRaise_of_source long hn hk, done_result, done_data, done_dev]
    congr 2
    cases mapped : (d.cue.map.get k).list with
    | none => exact raise_of_no_list mapped
    | some list =>
      by_cases zero : (d.cue.map.get k).effective = 0
      · exact (raise_of_level_zero mapped zero).trans (if_pos zero).symm
      · refine (raise_of_level_pos mapped zero).trans (Eq.trans ?_ (if_neg zero).symm)
        cases pending : d.cue.pending.get k with
        | none => rw [mark_of_not_pending _ _ _ pending]; rfl
        | some x => rw [mark_of_pending _ _ _ pending]; rfl

end Sys2Proof.Machine
end

section
/-!
SUPPORT. The winner of selection (06: R129): it is a candidate of the highest level, with the lowest number among those of
its level.
-/
namespace Sys2Proof.Machine

/-- A source offers a level: it is pending at that level, and the level makes it a candidate (R129). -/
def Cue.offers (c : Cue) (k : Fin 126) (n : Nat) : Prop :=
  (∃ x, c.pending.get k = some x ∧ x.level = n) ∧ c.isCandidate n = true

/-- What the arbiter holds after it has seen some sources: the best offer among them, if there is one. -/
def Cue.IsBest (c : Cue) (seen : List (Fin 126)) : Option (Fin 126 × Nat) → Prop
  | none => ∀ j ∈ seen, ∀ n, ¬ c.offers j n
  | some (k, n) => k ∈ seen ∧ c.offers k n ∧ ∀ j ∈ seen, ∀ m, c.offers j m → m ≤ n ∧ (m = n → k ≤ j)

section
variable {c : Cue} {k : Fin 126} {n : Nat} {best : Option (Fin 126 × Nat)}

theorem offers_unique {m : Nat} (h : c.offers k n) (g : c.offers k m) : m = n := by
  obtain ⟨⟨x, hx, rfl⟩, -⟩ := h
  obtain ⟨⟨y, hy, rfl⟩, -⟩ := g
  rw [hx] at hy
  rw [Option.some.inj hy]

/-- A source that offers nothing leaves the best as it is. -/
theorem betterSource_of_no_offer (h : ∀ n, ¬ c.offers k n) : betterSource c best k = best := by
  unfold betterSource
  cases hx : c.pending.get k with
  | none => rfl
  | some x => exact if_neg fun hc => h x.level ⟨⟨x, hx, rfl⟩, hc⟩

/-- A source that offers a level replaces a best of a lower level. -/
theorem betterSource_of_offer (h : c.offers k n) :
    betterSource c best k =
      match best with
      | none => some (k, n)
      | some (_, level) => if level < n then some (k, n) else best := by
  obtain ⟨⟨x, hx, rfl⟩, candidate⟩ := h
  simp only [betterSource, hx, candidate, if_true] <;> cases best <;> rfl

/-- The arbiter sees one more source, of a higher number than all before it. -/
theorem isBest_betterSource {seen : List (Fin 126)} (h : c.IsBest seen best) (later : ∀ i ∈ seen, i < k) :
    c.IsBest (seen ++ [k]) (betterSource c best k) := by
  by_cases offer : ∃ n, c.offers k n
  case neg =>
    have none_offered : ∀ n, ¬ c.offers k n := not_exists.mp offer
    rw [betterSource_of_no_offer none_offered]
    cases best with
    | none => simpa [Cue.IsBest, or_imp, forall_and, none_offered] using h
    | some b =>
      obtain ⟨mem, has, top⟩ := h
      refine ⟨List.mem_append_left _ mem, has, fun j hj m hm => ?_⟩
      rcases List.mem_append.mp hj with hj | hj
      · exact top j hj m hm
      · exact absurd (List.mem_singleton.mp hj ▸ hm) (none_offered m)
  case pos =>
    obtain ⟨n, offer⟩ := offer
    have last : k ∈ seen ++ [k] := List.mem_append_right _ (List.mem_singleton.mpr rfl)
    rw [betterSource_of_offer offer]
    cases best with
    | none =>
      refine ⟨last, offer, fun j hj m hm => ?_⟩
      rcases List.mem_append.mp hj with hj | hj
      · exact absurd hm (h j hj m)
      · obtain rfl := List.mem_singleton.mp hj
        exact ⟨Nat.le_of_eq (offers_unique offer hm), fun _ => Nat.le_refl _⟩
    | some b =>
      obtain ⟨b, level⟩ := b
      obtain ⟨mem, has, top⟩ := h
      dsimp only
      split
      case isTrue higher =>
        refine ⟨last, offer, fun j hj m hm => ?_⟩
        rcases List.mem_append.mp hj with hj | hj
        · have := (top j hj m hm).1
          exact ⟨by omega, fun e => by omega⟩
        · obtain rfl := List.mem_singleton.mp hj
          exact ⟨Nat.le_of_eq (offers_unique offer hm), fun _ => Nat.le_refl _⟩
      case isFalse lower =>
        refine ⟨List.mem_append_left _ mem, has, fun j hj m hm => ?_⟩
        rcases List.mem_append.mp hj with hj | hj
        · exact top j hj m hm
        · obtain rfl := List.mem_singleton.mp hj
          have := offers_unique offer hm
          exact ⟨by omega, fun _ => Nat.le_of_lt (later b mem)⟩

theorem isBest_foldl {seen sources : List (Fin 126)} (rising : (seen ++ sources).Pairwise (· < ·))
    (h : c.IsBest seen best) : c.IsBest (seen ++ sources) (sources.foldl (betterSource c) best) := by
  induction sources generalizing seen best with
  | nil => simpa using h
  | cons k ks ih =>
    have later : ∀ i ∈ seen, i < k := fun i hi => (List.pairwise_append.mp rising).2.2 i hi k List.mem_cons_self
    have same : seen ++ k :: ks = (seen ++ [k]) ++ ks := by simp
    rw [same] at rising ⊢
    exact ih rising (isBest_betterSource h later)

/-- The winner of the arbiter, when there is room for a context (R129). -/
theorem winner_offers (h : c.winner = some k) :
    c.stack.length < 4 ∧ ∃ n, c.offers k n ∧ ∀ j m, c.offers j m → m ≤ n ∧ (m = n → k ≤ j) := by
  have room := winner_stack h
  have best := isBest_foldl (c := c) (seen := []) (sources := List.finRange 126) (best := none)
    (by simpa using List.pairwise_lt_finRange 126) (by intro j hj; cases hj)
  rw [Cue.winner, if_pos room, Option.map_eq_some_iff] at h
  obtain ⟨⟨k', n⟩, fold, rfl⟩ := h
  rw [List.nil_append, fold] at best
  obtain ⟨-, offer, top⟩ := best
  exact ⟨room, n, offer, fun j m => top j (List.mem_finRange j) m⟩

end

end Sys2Proof.Machine
end

section
/-!
SUPPORT. The orders that every step keeps in the Notice Queue, the context stack and the stream slots (01 to 09: R195, R196,
R128, R69, R81): each shared operation of playback keeps them.
-/
namespace Sys2Proof.Machine

/-! ## The orders -/

/-- No two notices of one kind and source (R196). -/
def NoticeBox.distinct (b : NoticeBox) : Prop := (b.queue.map fun n => (n.kind, n.source)).Nodup

/-- The levels of the contexts rise strictly to the top (R128). -/
def Cue.rising (c : Cue) : Prop := (c.stack.map Context.level).Pairwise (· > ·)

/-- The notices are distinct, the levels rise, and every slot fits (R196, R128, R69, R81). -/
structure Device.Tidy (d : Device) : Prop where
  notices : d.notices.distinct
  levels  : d.cue.rising
  slots   : ∀ n, (d.slot n).fits = true

theorem Slot.fits_iff {x : Slot} : x.fits = true ↔
    x.held ≤ x.config.quota ∧ x.readers.length ≤ 8 ∧ (∀ r ∈ x.readers, r.index < 8) ∧
      (x.readers.map Reader.index).Nodup := by
  simp [Slot.fits, and_assoc]

/-- A change of none of the three. -/
theorem tidy_of_same {d e : Device} (h : d.Tidy) (hn : e.notices = d.notices) (hc : e.cue.stack = d.cue.stack)
    (hs : e.intake.slots = d.intake.slots) : e.Tidy :=
  ⟨hn ▸ h.notices, by unfold Cue.rising; rw [hc]; exact h.levels, fun n => by unfold Device.slot; rw [hs]; exact h.slots n⟩

/-! ## Notices and selection -/

theorem distinct_queueNotice {b : NoticeBox} (h : b.distinct) (now : Nat) (kind : NoticeKind) (source : Nat)
    (aux detail : Byte) : (queueNotice now kind source aux detail b).distinct := by
  unfold queueNotice NoticeBox.distinct
  split
  case isTrue =>
    have same : (fun n => (n.kind, n.source)) ∘ (fun n => if n.matches kind source then n.again aux detail else n) =
        fun n : Notice => (n.kind, n.source) := by
      funext n
      simp only [Function.comp_apply]
      split <;> rfl
    rw [List.map_map, same]
    exact h
  case isFalse new =>
    split
    case isTrue =>
      rw [List.map_append, List.nodup_append]
      refine ⟨h, List.nodup_cons.mpr ⟨List.not_mem_nil, List.nodup_nil⟩, ?_⟩
      rintro a ha b hb rfl
      obtain ⟨n, hn, rfl⟩ := List.mem_map.mp ha
      simp only [List.map_cons, List.map_nil, List.mem_singleton, Prod.mk.injEq] at hb
      exact new (List.any_eq_true.mpr ⟨n, hn, by simp [Notice.matches, hb.1, hb.2]⟩)
    case isFalse => exact h

theorem distinct_takeNotice {b : NoticeBox} (h : b.distinct) (now : Nat) (kind : NoticeKind) (source : Nat)
    (aux detail : Byte) : (takeNotice now kind source aux detail b).distinct := distinct_queueNotice h now kind source aux detail

theorem tidy_handNotice {d : Device} (h : d.Tidy) (kind : NoticeKind) (source : Nat) (aux detail : Byte) :
    (d.handNotice kind source aux detail).Tidy :=
  ⟨distinct_takeNotice h.notices d.now kind source aux detail, h.levels, h.slots⟩

theorem tidy_cueFault {d : Device} (h : d.Tidy) (list : Fin 256) (index : Nat) (r : Result) :
    (d.cueFault list index r).Tidy := tidy_handNotice h _ _ _ _

/-- A winner is pushed above every level of the stack. -/
theorem rising_push {c : Cue} {k : Fin 126} (h : c.rising) (w : c.winner = some k) : (c.push k).rising := by
  obtain ⟨-, n, ⟨⟨x, hx, rfl⟩, candidate⟩, -⟩ := winner_offers w
  have above : c.engineLevel < x.level := by
    simp only [Cue.isCandidate, Bool.and_eq_true, decide_eq_true_eq] at candidate
    exact candidate.1
  unfold Cue.rising
  simp only [Cue.push, hx, List.map_cons, contextOf]
  refine List.pairwise_cons.mpr ⟨fun n hn => ?_, h⟩
  cases stack : c.stack with
  | nil => simp [stack] at hn
  | cons top rest =>
    simp only [Cue.engineLevel, stack] at above
    rw [Cue.rising, stack, List.map_cons, List.pairwise_cons] at h
    rw [stack, List.map_cons, List.mem_cons] at hn
    rcases hn with rfl | hn
    · exact above
    · exact Nat.lt_trans (h.1 n hn) above

theorem rising_selectN (fuel : Nat) {c : Cue} (h : c.rising) : (c.selectN fuel).rising := by
  induction fuel generalizing c with
  | zero => exact h
  | succ fuel ih =>
    unfold Cue.selectN
    cases w : c.winner with
    | none => exact h
    | some k => exact ih (rising_push h w)

theorem rising_select {c : Cue} (h : c.rising) : c.select.rising := rising_selectN 4 h

theorem rising_mark {c : Cue} (h : c.rising) (k : Fin 126) (n : Nat) (list : Fin 256) (detail : Byte) :
    (c.mark k n list detail).rising := by
  unfold Cue.mark
  split
  · exact rising_select (c := { c with pending := _ }) h
  · exact h

/-- Contexts taken out leave the levels in their order. -/
theorem rising_sublist {c e : Cue} (h : c.rising) (hs : e.stack.Sublist c.stack) : e.rising :=
  h.sublist (hs.map Context.level)

theorem tidy_select {d : Device} (h : d.Tidy) : d.select.Tidy := ⟨h.notices, rising_select h.levels, h.slots⟩

theorem tidy_raise {d : Device} (h : d.Tidy) (k : Fin 126) (detail : Byte) : (d.raise k detail).Tidy := by
  have announced : (d.announce k detail).Tidy := by
    unfold Device.announce
    split
    · exact tidy_handNotice h _ _ _ _
    · exact h
  cases list : (d.cue.map.get k).list with
  | none => rw [raise_of_no_list list]; exact announced
  | some l =>
    by_cases zero : (d.cue.map.get k).effective = 0
    · rw [raise_of_level_zero list zero]; exact announced
    · rw [raise_of_level_pos list zero]
      exact ⟨announced.notices, rising_mark h.levels _ _ _ _, announced.slots⟩

theorem tidy_raiseAll {d : Device} (h : d.Tidy) (events : List (Fin 126 × Byte)) : (d.raiseAll events).Tidy :=
  foldl_keeps Device.Tidy _ (fun _ _ h => tidy_raise h _ _) _ _ h

/-! ## Slots -/

theorem tidy_setSlot {d : Device} (h : d.Tidy) (n : Fin 16) (x : Slot) (hx : x.fits = true) : (d.setSlot n x).Tidy := by
  refine ⟨h.notices, h.levels, fun m => ?_⟩
  by_cases e : m = n
  · rw [e, slot_setSlot_same]; exact hx
  · rw [slot_setSlot_of_ne d x e]; exact h.slots m

theorem fits_queueFlow (k : Intake) (e : FlowEntry) : (k.queueFlow e).slots = k.slots := rfl

/-- The flow test changes a slot's flow state alone. -/
theorem fits_slotFlowTest {k : Intake} (h : ∀ n, (k.slots.get n).fits = true) (m : Fin 16) (n : Fin 16) :
    ((k.slotFlowTest m).slots.get n).fits = true := by
  have held (b : Bool) : ((put k.slots m { k.slots.get m with hold := b }).get n).fits = true := by
    rw [get_put]
    split
    · exact h m
    · exact h n
  unfold Intake.slotFlowTest
  dsimp only
  split
  · exact held true
  · split
    · exact held false
    · exact h n

@[simp] theorem slots_poolFlowTest (k : Intake) : k.poolFlowTest.slots = k.slots := by
  unfold Intake.poolFlowTest
  split
  · rfl
  · split <;> rfl

@[simp] theorem slots_freeBuffers (k : Intake) (m : Nat) : (k.freeBuffers m).slots = k.slots := by
  unfold Intake.freeBuffers
  split
  · rfl
  · exact slots_poolFlowTest _

/-- A slot that is shut holds nothing and has no reader. -/
theorem fits_shut (x : Slot) (state : SlotState) (cause : Option StreamCause) : (x.shut state cause).fits = true := by
  simp [Slot.fits, Slot.shut, Slot.held]

@[simp] theorem slots_shut (k : Intake) (n : Fin 16) (state : SlotState) (cause : Option StreamCause) :
    (k.shut n state cause).slots = put k.slots n ((k.slots.get n).shut state cause) := by
  unfold Intake.shut
  dsimp only
  rw [slots_freeBuffers]
  split <;> rfl

theorem tidy_shutSlot {d : Device} (h : d.Tidy) (n : Fin 16) (state : SlotState) (cause : Option StreamCause) :
    (d.shutSlot n state cause).Tidy :=
  tidy_of_same (tidy_setSlot h n _ (fits_shut (d.slot n) state cause)) rfl rfl (slots_shut d.intake n state cause)

theorem tidy_endTest {d : Device} (h : d.Tidy) (n : Fin 16) : (d.endTest n).Tidy := by
  unfold Device.endTest
  dsimp only
  split
  · exact tidy_raise (tidy_shutSlot h _ _ _) _ _
  · exact h

theorem recompute_readers (x : Slot) : x.recompute.readers = x.readers := by
  unfold Slot.recompute Slot.moveHead
  split
  · rfl
  · split <;> rfl

theorem recompute_config (x : Slot) : x.recompute.config = x.config := by
  unfold Slot.recompute Slot.moveHead
  split
  · rfl
  · split <;> rfl

theorem fits_recompute {x : Slot} (h : x.fits = true) : x.recompute.fits = true := by
  rw [Slot.fits_iff] at h ⊢
  rw [recompute_readers, recompute_config]
  exact ⟨Nat.le_trans (held_recompute x) h.1, h.2⟩

theorem tidy_settleSlot {d : Device} (h : d.Tidy) (n : Fin 16) : (d.settleSlot n).Tidy := by
  have moved := tidy_setSlot h n _ (fits_recompute (h.slots n))
  unfold Device.settleSlot
  dsimp only
  apply tidy_endTest
  refine ⟨h.notices, h.levels, fun m => ?_⟩
  change ((Intake.freeBuffers _ _).slots.get m).fits = true
  rw [slots_freeBuffers]
  split
  · exact moved.slots m
  · exact fits_slotFlowTest moved.slots n m

/-- Fewer readers, in the same order, still fit. -/
theorem fits_of_sublist {x y : Slot} (h : x.fits = true) (held : y.held = x.held) (config : y.config = x.config)
    (readers : y.readers.Sublist x.readers) : y.fits = true := by
  rw [Slot.fits_iff] at h ⊢
  obtain ⟨quota, count, low, nodup⟩ := h
  exact ⟨held ▸ config ▸ quota, Nat.le_trans readers.length_le count, fun r hr => low r (readers.subset hr),
    nodup.sublist (readers.map Reader.index)⟩

/-- Readers changed in all but their indices still fit. -/
theorem fits_of_indices {x y : Slot} (h : x.fits = true) (held : y.held = x.held) (config : y.config = x.config)
    (readers : y.readers.map Reader.index = x.readers.map Reader.index) : y.fits = true := by
  rw [Slot.fits_iff] at h ⊢
  obtain ⟨quota, count, low, nodup⟩ := h
  have length : y.readers.length = x.readers.length := by simpa using congrArg List.length readers
  refine ⟨held ▸ config ▸ quota, length ▸ count, fun r hr => ?_, readers ▸ nodup⟩
  have mem : r.index ∈ x.readers.map Reader.index := readers ▸ List.mem_map_of_mem hr
  obtain ⟨s, hs, e⟩ := List.mem_map.mp mem
  exact e ▸ low s hs

theorem fits_leave {x : Slot} (h : x.fits = true) (r : Reader) : (x.leave r).fits = true :=
  fits_of_sublist h rfl rfl List.filter_sublist

theorem tidy_releaseReader {d : Device} (h : d.Tidy) (n : Fin 16) (index : Nat) : (d.releaseReader n index).Tidy := by
  unfold Device.releaseReader
  split
  · exact h
  · exact tidy_settleSlot (tidy_setSlot h n _ (fits_leave (h.slots n) _)) n

/-- Fewer than 8 readers leave an index below 8 free (R81). -/
theorem freeIndex_spec {x : Slot} (h : x.fits = true) (room : x.readers.length < 8) :
    x.freeIndex < 8 ∧ x.freeIndex ∉ x.readers.map Reader.index := by
  rw [Slot.fits_iff] at h
  obtain ⟨-, -, -, nodup⟩ := h
  have free : ∃ i ∈ List.range 8, i ∉ x.readers.map Reader.index := by
    refine Classical.byContradiction fun none => ?_
    have within : List.range 8 ⊆ x.readers.map Reader.index := fun i hi =>
      Classical.byContradiction fun new => none ⟨i, hi, new⟩
    have short := List.nodup_range.length_le_of_subset within
    rw [List.length_range, List.length_map] at short
    omega
  have test (i : Nat) : (x.readers.all (·.index ≠ i)) = true ↔ i ∉ x.readers.map Reader.index := by simp
  cases found : (List.range 8).find? fun i => x.readers.all (·.index ≠ i) with
  | none =>
    obtain ⟨i, hi, hn⟩ := free
    exact absurd ((test i).mpr hn) (List.find?_eq_none.mp found i hi)
  | some i =>
    have value : x.freeIndex = i := by rw [Slot.freeIndex, found]; rfl
    rw [value]
    exact ⟨List.mem_range.mp (List.mem_of_find?_eq_some found), (test i).mp (by simpa using List.find?_some found)⟩

theorem fits_claim {x : Slot} (h : x.fits = true) (room : x.readers.length < 8) (l : Fin 8) (v : Fin 4) (pending : Bool) :
    (x.claim l v pending).fits = true := by
  obtain ⟨low, new⟩ := freeIndex_spec h room
  rw [Slot.fits_iff] at h ⊢
  obtain ⟨quota, -, indices, nodup⟩ := h
  refine ⟨quota, ?_, ?_, ?_⟩
  · simp [Slot.claim]; omega
  · simp only [Slot.claim, List.mem_append, List.mem_singleton]
    rintro r (hr | rfl)
    · exact indices r hr
    · exact low
  · simp only [Slot.claim, List.map_append, List.map_cons, List.map_nil]
    rw [List.nodup_append]
    refine ⟨nodup, List.nodup_cons.mpr ⟨List.not_mem_nil, List.nodup_nil⟩, ?_⟩
    rintro a ha b hb rfl
    exact new (List.mem_singleton.mp hb ▸ ha)

/-- A claim is granted only where there is room (R13). -/
theorem room_of_claimResult {x : Slot} (h : x.claimResult = .ok) : x.readers.length < 8 := by
  unfold Slot.claimResult at h
  split at h
  · split at h
    · assumption
    · cases h
  · split at h
    · assumption
    · cases h
  all_goals cases h

theorem fits_rehold {x : Slot} (h : x.fits = true) (index : Nat) (pending : Bool) :
    (x.rehold index pending).fits = true := by
  refine fits_of_indices h rfl rfl ?_
  simp only [Slot.rehold, List.map_map]
  congr 1
  funext r
  simp only [Function.comp_apply]
  split <;> rfl

/-! ## Ends, cancelled starts, and a lane stopped -/

theorem tidy_updLane {d : Device} (h : d.Tidy) (l : Fin 8) (f : Lane → Lane) : (d.updLane l f).Tidy :=
  tidy_of_same h rfl rfl rfl

theorem tidy_setVoice {d : Device} (h : d.Tidy) (l : Fin 8) (v : Fin 4) (x : Voice) : (d.setVoice l v x).Tidy :=
  tidy_of_same h rfl rfl rfl

theorem tidy_updVoice {d : Device} (h : d.Tidy) (l : Fin 8) (v : Fin 4) (f : Voice → Voice) : (d.updVoice l v f).Tidy :=
  tidy_of_same h rfl rfl rfl

theorem tidy_releaseBinding {d : Device} (h : d.Tidy) (l : Fin 8) (v : Fin 4) : (d.releaseBinding l v).Tidy := by
  unfold Device.releaseBinding
  split
  · exact tidy_releaseReader h _ _
  · exact h
  · exact h

theorem tidy_endSegment {d : Device} (h : d.Tidy) (l : Fin 8) (v : Fin 4) (c : EndCause) : (d.endSegment l v c).Tidy := by
  have ended := tidy_updVoice (tidy_releaseBinding h l v) l v (·.ended c)
  unfold Device.endSegment
  dsimp only
  split
  · split
    · exact tidy_raiseAll ended _
    · exact ended
  · split
    · exact tidy_setVoice h _ _ _
    · exact h

theorem tidy_releaseClaim {d : Device} (h : d.Tidy) (p : PendingStart) : (d.releaseClaim p).Tidy := by
  unfold Device.releaseClaim
  split
  · exact h
  · exact tidy_releaseReader h _ _

theorem tidy_cancelStart {d : Device} (h : d.Tidy) (l : Fin 8) (v : Fin 4) (c : EndCause) : (d.cancelStart l v c).Tidy := by
  unfold Device.cancelStart
  split
  · exact h
  · have unscheduled : (d.unschedule l v).Tidy := tidy_of_same h rfl rfl rfl
    exact tidy_raiseAll (tidy_updVoice (tidy_releaseClaim unscheduled _) l v _) _

theorem tidy_endSlotVoices {d : Device} (h : d.Tidy) (n : Fin 16) (c : EndCause) : (d.endSlotVoices n c).Tidy := by
  unfold Device.endSlotVoices
  refine foldl_keeps Device.Tidy _ (fun d x h => ?_) _ _ h
  dsimp only
  generalize he : (if (d.voice x.1 x.2).reads n = true then d.endSegment x.1 x.2 c else d) = e
  have ended : e.Tidy := by
    rw [← he]
    split
    · exact tidy_endSegment h _ _ _
    · exact h
  split
  · exact tidy_cancelStart ended _ _ _
  · exact ended

theorem tidy_breakSlot {d : Device} (h : d.Tidy) (n : Fin 16) : (d.breakSlot n).Tidy := by
  unfold Device.breakSlot
  exact tidy_raise (tidy_endSlotVoices (tidy_shutSlot h _ _ _) _ _) _ _

theorem tidy_windowEnd {d : Device} (h : d.Tidy) (l : Fin 8) (x : Meter) : (d.windowEnd l x).Tidy := by
  have set (y : Meter) : (d.setMeter l y).Tidy := tidy_of_same h rfl rfl rfl
  unfold Device.windowEnd
  split
  · exact set _
  · exact set _
  · exact tidy_raiseAll (set _) _

theorem tidy_meterBlock {d : Device} (h : d.Tidy) (l : Fin 8) (powers : List Val) : (d.meterBlock l powers).Tidy := by
  unfold Device.meterBlock
  dsimp only
  split
  · exact h
  · split
    · exact tidy_windowEnd h _ _
    · exact tidy_of_same h rfl rfl rfl

theorem tidy_wakeContexts {d : Device} (h : d.Tidy) (l : Fin 8) (t : Nat) : (d.wakeContexts l t).Tidy := by
  refine ⟨h.notices, ?_, h.slots⟩
  have same : Context.level ∘ (fun c : Context => c.wake l t) = Context.level := by
    funext c
    simp only [Function.comp_apply, Context.wake]
    split
    · rfl
    · split <;> rfl
  simp only [Cue.rising, Device.wakeContexts, List.map_map]
  rw [same]
  exact h.levels

/-- The contexts left when one that waits is taken out stand as they stood. -/
theorem lowestWaiting_sublist {l : Fin 8} {cs : List Context} {c : Context} {rest : List Context}
    (h : lowestWaiting l cs = some (c, rest)) : rest.Sublist cs := by
  induction cs generalizing c rest with
  | nil => cases h
  | cons x xs ih =>
    unfold lowestWaiting at h
    split at h
    · rename_i y ys hy
      obtain ⟨rfl, rfl⟩ := Prod.mk.inj (Option.some.inj h)
      exact (ih hy).cons_cons x
    · split at h
      · obtain ⟨rfl, rfl⟩ := Prod.mk.inj (Option.some.inj h)
        exact List.sublist_cons_self _ _
      · cases h

theorem tidy_abortContext {d : Device} (h : d.Tidy) (c : Context) {rest : List Context} (hs : rest.Sublist d.cue.stack) :
    (d.abortContext c rest).Tidy :=
  tidy_select (tidy_cueFault (d := { d with cue := { d.cue with stack := rest } })
    ⟨h.notices, rising_sublist h.levels hs, h.slots⟩ _ _ _)

theorem tidy_abortWaiting (fuel : Nat) {d : Device} (h : d.Tidy) (l : Fin 8) : (Device.abortWaiting fuel d l).Tidy := by
  induction fuel generalizing d with
  | zero => exact h
  | succ fuel ih =>
    unfold Device.abortWaiting
    split
    · exact h
    · rename_i hw
      exact ih (tidy_abortContext h _ (lowestWaiting_sublist hw))

theorem tidy_stopVoices {d : Device} (h : d.Tidy) (l : Fin 8) : (d.stopVoices l).Tidy := by
  unfold Device.stopVoices
  exact foldl_keeps Device.Tidy _ (fun _ _ h => tidy_cancelStart (tidy_endSegment h _ _ _) _ _ _) _ _ h

theorem tidy_stopMarkers {d : Device} (h : d.Tidy) (l : Fin 8) : (d.stopMarkers l).Tidy := by
  unfold Device.stopMarkers
  dsimp only
  split
  · exact tidy_of_same h rfl rfl rfl
  · exact tidy_of_same h rfl rfl rfl

theorem tidy_stopLane {d : Device} (h : d.Tidy) (l : Fin 8) : (d.stopLane l).Tidy := by
  have stopped := tidy_updLane (tidy_stopMarkers (tidy_stopVoices h l) l) l Lane.stopped
  unfold Device.stopLane
  generalize ((d.stopVoices l).stopMarkers l).updLane l Lane.stopped = e at stopped
  dsimp only
  apply tidy_abortWaiting
  split
  · exact stopped
  · exact tidy_of_same stopped rfl rfl rfl

end Sys2Proof.Machine
end

section
/-!
SUPPORT. A block of a lane keeps the orders of the Notice Queue, the context stack and the slots, through its samples, its
hand-offs and the boundary (02, 04).
-/
namespace Sys2Proof.Machine

/-! ## Operations of a block in progress -/

section
variable {k : Block} (h : k.dev.Tidy) (l : Fin 8) (v : Fin 4)
include h

theorem tidy_block_endSegment (c : EndCause) : (k.endSegment l v c).dev.Tidy := by
  rw [block_endSegment_dev]
  exact tidy_updVoice h _ _ _

theorem tidy_failSegment (g : Fin 1024) (c : EndCause) : (k.failSegment l v g c).dev.Tidy := tidy_updVoice h l v (·.ended c)

theorem tidy_play (g : Fin 1024) (b : Option Binding) : (k.play l v g b).dev.Tidy :=
  tidy_updVoice h l v (·.begins g (k.dev.segment g) b)

theorem tidy_begin (t : Nat) (g : Fin 1024) (claim : Option (Fin 16 × Nat)) : (k.begin l v t g claim).dev.Tidy := by
  unfold Block.begin
  generalize hm : ({ k with dev := k.dev.causePulse (.segmentEdgePulse l) (k.dev.sampleClock l t) } : Block) = m
  have pulsed : m.dev.Tidy := by rw [← hm]; exact tidy_of_same h rfl rfl rfl
  dsimp only
  split
  · exact tidy_failSegment pulsed _ _ _ _
  · exact tidy_play pulsed _ _ _ _
  · split
    · exact tidy_play pulsed _ _ _ _
    · exact tidy_failSegment pulsed _ _ _ _
  · split
    · exact tidy_failSegment pulsed _ _ _ _
    · rename_i s i
      have bound : (m.dev.bindReader s i).Tidy := tidy_setSlot pulsed s _ (fits_rehold (pulsed.slots s) i false)
      exact tidy_play (k := { m with dev := m.dev.bindReader s i }) bound l v g _

theorem tidy_chain (t : Nat) (g : Fin 1024) : (k.chain l v t g).dev.Tidy := by
  unfold Block.chain
  dsimp only
  split
  · rename_i granted
    have room := room_of_claimResult granted.2
    generalize hm : ({ k with dev := k.dev.setSlot _ _ } : Block) = m
    have claimed : m.dev.Tidy := by rw [← hm]; exact tidy_setSlot h _ _ (fits_claim (h.slots _) room l v false)
    exact tidy_begin claimed _ _ _ _ _
  · exact tidy_begin h _ _ _ _ _

theorem tidy_finish (t : Nat) : (k.finish l v t).dev.Tidy := by
  unfold Block.finish
  dsimp only
  split
  · exact tidy_block_endSegment h _ _ _
  · exact tidy_chain (tidy_block_endSegment h _ _ _) _ _ _ _

theorem tidy_takeDue (t : Nat) : (k.takeDue l v t).dev.Tidy := by
  unfold Block.takeDue
  split
  · exact h
  · exact tidy_finish h _ _ _
  · generalize hm : ({ k with dev := k.dev.updVoice l v _ } : Block) = m
    have cleared : m.dev.Tidy := by rw [← hm]; exact tidy_updVoice h l v fun x => { x with due := .none }
    exact tidy_chain cleared _ _ _ _

theorem tidy_applyStart (t : Nat) (g : Fin 1024) (claim : Option (Fin 16 × Nat)) :
    (k.applyStart l v t g claim).dev.Tidy := by
  unfold Block.applyStart
  dsimp only
  generalize hm : ({ k with dev := (k.dev.causePulse (.voiceStartPulse l) (k.dev.sampleClock l t)).updVoice l v _ } : Block) = m
  have pulsed : m.dev.Tidy := by
    rw [← hm]
    exact tidy_updVoice (tidy_of_same (e := k.dev.causePulse (.voiceStartPulse l) (k.dev.sampleClock l t)) h rfl rfl rfl) l v
      fun x => { x with pending := none }
  split
  · exact tidy_begin (tidy_block_endSegment pulsed _ _ _) _ _ _ _ _
  · exact tidy_begin pulsed _ _ _ _ _

theorem tidy_applyStop (mode : Mode) : (k.applyStop l v mode).dev.Tidy := by
  have ended := tidy_block_endSegment h l v .stopped
  unfold Block.applyStop
  dsimp only
  split
  · split
    · exact ended
    · exact tidy_setVoice h _ _ _
  · exact h
  · exact ended
  · exact ended
  · exact ended
  · exact h
  · exact h

theorem tidy_applyGain (gain : Int) (ramp : Nat) : (k.applyGain l v gain ramp).dev.Tidy := by
  have set (x : Voice) : (k.dev.setVoice l v x).Tidy := tidy_setVoice h l v x
  unfold Block.applyGain
  dsimp only
  split
  · exact set _
  · exact set _
  · exact set _
  · exact h
  · exact h

theorem tidy_apply (t : Nat) (e : Entry) : (k.apply l t e).dev.Tidy := by
  unfold Block.apply
  split
  · exact tidy_applyStart h _ _ _ _ _
  · exact tidy_applyStop h _ _ _
  · exact tidy_applyGain h _ _ _ _
  · exact tidy_updLane h _ _
  · exact h

theorem tidy_emit (f : Fixed) (x : Sample) : (k.emit l v f x).1.dev.Tidy := tidy_setVoice h l v _

theorem tidy_streamFinished : (k.streamFinished l v).dev.Tidy := by
  have ended := tidy_block_endSegment h l v (k.dev.voice l v).finishCause
  unfold Block.streamFinished
  dsimp only
  split
  · exact ended
  · dsimp only
    exact tidy_updVoice ended _ _ _

theorem tidy_readSample (f : Fixed) (c : Cursor) (x : Sample) (lacking : Bool) :
    (k.readSample l v f c x lacking).1.dev.Tidy := by
  have emitted := tidy_emit (k := { k with cursors := put k.cursors v (some (c.advance lacking)) }) h l v f x
  unfold Block.readSample
  dsimp only
  split
  · exact tidy_streamFinished emitted _ _
  · exact emitted

theorem tidy_stall (c : Cursor) : (k.stall l v c).dev.Tidy := by
  unfold Block.stall
  dsimp only
  split
  · exact tidy_block_endSegment h _ _ _
  · exact tidy_setVoice h _ _ _

theorem tidy_readStream (f : Fixed) (c : Cursor) : (k.readStream l v f c).1.dev.Tidy := by
  unfold Block.readStream
  dsimp only
  split
  · exact tidy_readSample h _ _ _ _ _ _
  · exact tidy_readSample h _ _ _ _ _ _
  · split
    · exact tidy_readSample h _ _ _ _ _ _
    · exact tidy_stall h _ _ _

omit h in
theorem tidy_voiceSample (fuel : Nat) {k : Block} (h : k.dev.Tidy) (t : Nat) :
    (Block.voiceSample fuel k l v t).1.dev.Tidy := by
  induction fuel generalizing k with
  | zero => exact h
  | succ fuel ih =>
    unfold Block.voiceSample
    dsimp only
    split
    · exact h
    · split
      · split
        · split
          · exact ih (tidy_finish h _ _ _)
          · exact tidy_readStream h _ _ _ _
        · split
          · exact tidy_emit h _ _ _ _
          · exact tidy_emit h _ _ _ _
      · exact h

theorem tidy_sumVoices (t : Nat) : (k.sumVoices l t).1.dev.Tidy := by
  rw [sumVoices_eq]
  refine foldl_keeps (fun x : Block × Val × Val => x.1.dev.Tidy) _ (fun x v hx => ?_) _ _ h
  exact tidy_voiceSample l v 3 hx t

theorem tidy_sample (b : Nat) (es : List Entry) (n : Nat) : (k.sample l b es n).dev.Tidy := by
  have prepared : (Block.prepared l b es k n).dev.Tidy :=
    foldl_keeps (fun x : Block => x.dev.Tidy) _ (fun _ _ h => tidy_apply h _ _ _) _ _
      (foldl_keeps (fun x : Block => x.dev.Tidy) _ (fun _ _ h => tidy_takeDue h _ _ _) _ _ h)
  rw [sample_eq]
  exact tidy_updLane (tidy_sumVoices prepared l _) _ _

theorem tidy_retry : (k.retry l v).dev.Tidy := by
  have set (x : Voice) : (k.dev.setVoice l v x).Tidy := tidy_setVoice h l v x
  unfold Block.retry
  dsimp only
  split
  · split
    · exact h
    · split
      · exact set _
      · split
        · exact h
        · exact set _
  · exact h

end

theorem tidy_computeBlock {d : Device} (h : d.Tidy) (l : Fin 8) (es : List Entry) : (d.computeBlock l es).dev.Tidy := by
  have start : (Block.start ((d.takeHot l).updLane l Lane.settleMaster) l).dev.Tidy := tidy_of_same h rfl rfl rfl
  unfold Device.computeBlock
  exact foldl_keeps (fun x : Block => x.dev.Tidy) _ (fun _ _ h => tidy_sample h _ _ _ _) _ _
    (foldl_keeps (fun x : Block => x.dev.Tidy) _ (fun _ _ h => tidy_retry h _ _) _ _ start)

/-! ## The hand-offs and the boundary -/

section
variable {d : Device} (h : d.Tidy)
include h

theorem tidy_takeReport (n : Fin 16) (c : Cursor) : (d.takeReport n c).Tidy := by
  unfold Device.takeReport
  dsimp only
  split
  · exact h
  · have moved (counters : SlotCounters) : (d.setSlot n { d.slot n with
        readers := (d.slot n).readers.map fun y =>
          if y.index = c.index then { y with cell := c.cell, offset := c.offset, lacking := c.lacking } else y
        counters := counters }).Tidy := by
      refine tidy_setSlot h n _ (fits_of_indices (h.slots n) rfl rfl ?_)
      simp only [List.map_map]
      congr 1
      funext y
      simp only [Function.comp_apply]
      split <;> rfl
    split
    · exact tidy_raise (moved _) _ _
    · exact moved _

theorem tidy_takeReports (n : Fin 16) (reports : List Cursor) : (reports.foldl (fun d c => d.takeReport n c) d).Tidy :=
  foldl_keeps Device.Tidy _ (fun _ c h => tidy_takeReport h n c) _ _ h

omit h in
theorem fits_leaveAll {x : Slot} (h : x.fits = true) (released : List Nat) :
    (released.foldl Slot.leaveIndex x).fits = true := by
  refine foldl_keeps (fun x : Slot => x.fits = true) _ (fun x i hx => ?_) _ _ h
  unfold Slot.leaveIndex
  split
  · exact hx
  · exact fits_leave hx _

theorem tidy_handOff (n : Fin 16) (reports : List Cursor) (released : List Nat) : (d.handOff n reports released).Tidy := by
  have settled {e : Device} (h : e.Tidy) :
      ((e.setSlot n (released.foldl Slot.leaveIndex (e.slot n))).settleSlot n).Tidy :=
    tidy_settleSlot (tidy_setSlot h n _ (fits_leaveAll (h.slots n) released)) n
  unfold Device.handOff
  dsimp only
  split
  · exact h
  · apply settled
    apply tidy_takeReports
    split
    · exact tidy_setSlot h n _ (h.slots n)
    · exact h

theorem tidy_handOffReaders (k : Block) : (k.handOffReaders d).Tidy := by
  unfold Block.handOffReaders
  exact foldl_keeps Device.Tidy _ (fun _ _ h => tidy_handOff h _ _ _) _ _ h

theorem tidy_compareTest (l : Fin 8) (b : Nat) : (d.compareTest l b).Tidy := by
  unfold Device.compareTest
  split
  · exact h
  · split
    · exact tidy_raise (tidy_updLane h _ _) _ _
    · exact h

theorem tidy_overrange (l : Fin 8) (saturated : Bool) : (d.overrange l saturated).Tidy := by
  unfold Device.overrange
  split
  · exact tidy_raise (tidy_updLane h _ _) _ _
  · exact h

theorem tidy_freezeLane (l : Fin 8) : (d.freezeLane l).Tidy := tidy_of_same h rfl rfl rfl

end

theorem tidy_complete {k : Block} (h : k.dev.Tidy) (l : Fin 8) (b : Nat) : (k.complete l b).Tidy := by
  unfold Block.complete
  dsimp only
  generalize hd : (((k.handOffReaders (k.dev.updLane l _)).compareTest l b).meterBlock l _) = d
  have metered : d.Tidy := by
    rw [← hd]
    exact tidy_meterBlock (tidy_compareTest (tidy_handOffReaders (tidy_updLane h _ _) k) _ _) _ _
  generalize he : (if decide (Config.laneTimeEnd ≤ b + 64) = true then d else d.wakeContexts l (b + 64)) = e
  have woken : e.Tidy := by
    rw [← he]
    split
    · exact metered
    · exact tidy_wakeContexts metered _ _
  have ranged := tidy_overrange (tidy_raiseAll woken k.events) l k.saturated
  split
  · exact tidy_stopLane ranged _
  · exact ranged

/-- A block boundary keeps the orders. -/
theorem tidy_boundary {d : Device} (h : d.Tidy) (l : Fin 8) : (d.boundary l).Tidy := by
  have quiet := tidy_updLane h l Lane.releaseQuiet
  have set (x : Lane) : ((d.updLane l Lane.releaseQuiet).setLane l x).Tidy := tidy_of_same h rfl rfl rfl
  unfold Device.boundary
  dsimp only
  split
  · exact tidy_freezeLane quiet _
  · split
    · exact tidy_freezeLane (set _) _
    · unfold Device.runBlock
      exact tidy_complete (tidy_computeBlock (set _) _ _) _ _

end Sys2Proof.Machine
end

section
/-!
SUPPORT. What the end of a segment from outside a block, a cancelled start and a lane stop leave of the lanes (01, 02: R27,
R28, R45): which records change, and to what.
-/
namespace Sys2Proof.Machine

/-! ## Operations that touch no lane -/

@[simp] theorem endTest_lanes (d : Device) (n : Fin 16) : (d.endTest n).lanes = d.lanes := by
  unfold Device.endTest
  dsimp only
  split
  · exact raise_lanes ..
  · rfl

@[simp] theorem settleSlot_lanes (d : Device) (n : Fin 16) : (d.settleSlot n).lanes = d.lanes := endTest_lanes _ n

@[simp] theorem releaseReader_lanes (d : Device) (n : Fin 16) (index : Nat) :
    (d.releaseReader n index).lanes = d.lanes := by
  unfold Device.releaseReader
  split
  · rfl
  · exact settleSlot_lanes ..

@[simp] theorem releaseBinding_lanes (d : Device) (l : Fin 8) (v : Fin 4) : (d.releaseBinding l v).lanes = d.lanes := by
  unfold Device.releaseBinding
  split
  · exact releaseReader_lanes ..
  · rfl
  · rfl

@[simp] theorem releaseClaim_lanes (d : Device) (p : PendingStart) : (d.releaseClaim p).lanes = d.lanes := by
  unfold Device.releaseClaim
  split
  · rfl
  · exact releaseReader_lanes ..

@[simp] theorem windowEnd_lanes (d : Device) (l : Fin 8) (x : Meter) : (d.windowEnd l x).lanes = d.lanes := by
  unfold Device.windowEnd
  split
  · rfl
  · rfl
  · exact raiseAll_lanes ..

@[simp] theorem meterBlock_lanes (d : Device) (l : Fin 8) (powers : List Val) : (d.meterBlock l powers).lanes = d.lanes := by
  unfold Device.meterBlock
  dsimp only
  split
  · rfl
  · split
    · exact windowEnd_lanes ..
    · rfl

@[simp] theorem abortWaiting_lanes (fuel : Nat) (d : Device) (l : Fin 8) :
    (Device.abortWaiting fuel d l).lanes = d.lanes := by
  induction fuel generalizing d with
  | zero => rfl
  | succ fuel ih =>
    unfold Device.abortWaiting
    split
    · rfl
    · exact ih _

@[simp] theorem stopMarkers_lanes (d : Device) (l : Fin 8) : (d.stopMarkers l).lanes = d.lanes := by
  unfold Device.stopMarkers
  dsimp only
  split <;> rfl

theorem lane_of_lanes {d e : Device} (h : e.lanes = d.lanes) (m : Fin 8) : e.lane m = d.lane m := by
  unfold Device.lane; rw [h]

theorem voice_of_lanes {d e : Device} (h : e.lanes = d.lanes) (m : Fin 8) (w : Fin 4) : e.voice m w = d.voice m w := by
  unfold Device.voice; rw [lane_of_lanes h]

/-- The lanes after one voice is written. -/
theorem lanes_setVoice (d : Device) (l : Fin 8) (v : Fin 4) (x : Voice) :
    (d.setVoice l v x).lanes = put d.lanes l { d.lane l with voices := put (d.lane l).voices v x } := rfl

theorem lanes_updVoice (d : Device) (l : Fin 8) (v : Fin 4) (f : Voice → Voice) :
    (d.updVoice l v f).lanes = put d.lanes l { d.lane l with voices := put (d.lane l).voices v (f (d.voice l v)) } := rfl

/-! ## The end of a segment and a cancelled start (R27, R28) -/

/-- What the end of a voice's segment leaves of the voice (R27). -/
def Voice.afterEnd (x : Voice) (c : EndCause) : Voice :=
  if x.current.isSome then x.ended c
  else if x.state = .playing then { x with state := x.endState, due := .none }
  else x

theorem lanes_endSegment (d : Device) (l : Fin 8) (v : Fin 4) (c : EndCause) :
    (d.endSegment l v c).lanes =
      put d.lanes l { d.lane l with voices := put (d.lane l).voices v ((d.voice l v).afterEnd c) } := by
  have same : put d.lanes l { d.lane l with voices := put (d.lane l).voices v (d.voice l v) } = d.lanes := by
    rw [Device.voice, put_get_self]
    exact put_get_self ..
  have ended : ((d.releaseBinding l v).updVoice l v (·.ended c)).lanes =
      put d.lanes l { d.lane l with voices := put (d.lane l).voices v ((d.voice l v).ended c) } := by
    rw [lanes_updVoice, releaseBinding_lanes, lane_of_lanes (releaseBinding_lanes d l v),
      voice_of_lanes (releaseBinding_lanes d l v)]
  unfold Device.endSegment Voice.afterEnd
  dsimp only
  split
  · split
    · rw [raiseAll_lanes, ended]
    · exact ended
  · split
    · rfl
    · exact same.symm

/-- What a cancelled start leaves of its lane: its entry is gone from the schedule, and the voice has no pending start (R28). -/
def Lane.afterCancel (x : Lane) (v : Fin 4) (c : EndCause) : Lane :=
  { x with
    schedule := x.schedule.filter fun e => !e.startsVoice v
    voices := put x.voices v ((x.voices.get v).cancelled c) }

theorem cancelStart_of_none {d : Device} {l : Fin 8} {v : Fin 4} (c : EndCause) (h : (d.voice l v).pending = none) :
    d.cancelStart l v c = d := by
  unfold Device.cancelStart
  rw [h]

theorem lanes_cancelStart_of_some {d : Device} {l : Fin 8} {v : Fin 4} (c : EndCause) {p : PendingStart}
    (h : (d.voice l v).pending = some p) :
    (d.cancelStart l v c).lanes = put d.lanes l ((d.lane l).afterCancel v c) := by
  have unscheduled : (d.unschedule l v).lane l =
      { d.lane l with schedule := (d.lane l).schedule.filter fun e => !e.startsVoice v } := lane_updLane_same d l _
  have lanes := releaseClaim_lanes (d.unschedule l v) p
  unfold Device.cancelStart
  rw [h]
  dsimp only
  rw [raiseAll_lanes, lanes_updVoice, lanes, voice_of_lanes lanes, lane_of_lanes lanes, Device.voice, unscheduled]
  exact put_put d.lanes l _ _

/-- The end of a segment leaves every other voice. -/
theorem voice_endSegment_other (d : Device) (l : Fin 8) (v : Fin 4) (c : EndCause) {m : Fin 8} {w : Fin 4}
    (h : m ≠ l ∨ w ≠ v) : (d.endSegment l v c).voice m w = d.voice m w := by
  unfold Device.voice Device.lane
  rw [lanes_endSegment, get_put]
  split
  case isTrue e => subst e; exact get_put_of_ne _ _ (h.resolve_left (· rfl))
  case isFalse => rfl

theorem voice_endSegment_same (d : Device) (l : Fin 8) (v : Fin 4) (c : EndCause) :
    (d.endSegment l v c).voice l v = (d.voice l v).afterEnd c := by
  unfold Device.voice Device.lane
  rw [lanes_endSegment, get_put_same]
  exact get_put_same ..

/-- What a cancelled start leaves of the voice: nothing changes if it has none. -/
def Voice.afterCancel (x : Voice) (c : EndCause) : Voice := if x.pending.isSome then x.cancelled c else x

theorem voice_cancelStart_same (d : Device) (l : Fin 8) (v : Fin 4) (c : EndCause) :
    (d.cancelStart l v c).voice l v = (d.voice l v).afterCancel c := by
  cases h : (d.voice l v).pending with
  | none => rw [cancelStart_of_none c h, Voice.afterCancel, h]; rfl
  | some p =>
    simp only [Voice.afterCancel, h, Option.isSome_some, if_true]
    unfold Device.voice Device.lane
    rw [lanes_cancelStart_of_some c h, get_put_same]
    exact get_put_same ..

theorem voice_cancelStart_other (d : Device) (l : Fin 8) (v : Fin 4) (c : EndCause) {m : Fin 8} {w : Fin 4}
    (h : m ≠ l ∨ w ≠ v) : (d.cancelStart l v c).voice m w = d.voice m w := by
  cases hp : (d.voice l v).pending with
  | none => rw [cancelStart_of_none c hp]
  | some p =>
    unfold Device.voice Device.lane
    rw [lanes_cancelStart_of_some c hp, get_put]
    split
    case isTrue e => subst e; exact get_put_of_ne _ _ (h.resolve_left (· rfl))
    case isFalse => rfl

theorem pending_afterEnd (x : Voice) (c : EndCause) : (x.afterEnd c).pending = x.pending := by
  unfold Voice.afterEnd
  split
  · rfl
  · split <;> rfl

theorem current_afterEnd (x : Voice) (c : EndCause) : (x.afterEnd c).current = none := by
  unfold Voice.afterEnd
  split
  · rfl
  · have absent : x.current = none := Option.not_isSome_iff_eq_none.mp ‹_›
    split <;> exact absent

theorem pending_afterCancel (x : Voice) (c : EndCause) : (x.afterCancel c).pending = none := by
  unfold Voice.afterCancel
  split
  · rfl
  · exact Option.not_isSome_iff_eq_none.mp ‹_›

theorem current_afterCancel (x : Voice) (c : EndCause) : (x.afterCancel c).current = x.current := by
  unfold Voice.afterCancel
  split <;> rfl

/-! ## The schedule of a lane (R40, R9) -/

/-- What `Lane.scheduled` says, as a proposition. -/
structure Lane.Orderly (x : Lane) : Prop where
  length : x.schedule.length ≤ 16
  rising : (x.schedule.map Entry.stamp).Pairwise (· ≤ ·)
  starts : ∀ v, (x.voices.get v).pending = none ∨ ∃ e ∈ x.schedule, e.startsVoice v = true

theorem Lane.scheduled_iff {x : Lane} : x.scheduled = true ↔ x.Orderly := by
  unfold Lane.scheduled
  simp only [Bool.and_eq_true, decide_eq_true_eq, List.all_eq_true, List.mem_finRange, true_implies, Bool.or_eq_true,
    Option.isNone_iff_eq_none, List.any_eq_true]
  exact ⟨fun ⟨⟨a, b⟩, c⟩ => ⟨a, b, c⟩, fun ⟨a, b, c⟩ => ⟨⟨a, b⟩, c⟩⟩

/-- Every lane's schedule is in order. -/
def Device.Orderly (d : Device) : Prop := ∀ l, (d.lane l).Orderly

theorem orderly_of_lanes {d e : Device} (h : d.Orderly) (same : e.lanes = d.lanes) : e.Orderly := fun l => by
  rw [lane_of_lanes same]; exact h l

theorem orderly_put {d e : Device} {l : Fin 8} {x : Lane} (h : d.Orderly) (hx : x.Orderly) (same : e.lanes = put d.lanes l x) :
    e.Orderly := fun m => by
  unfold Device.lane
  rw [same, get_put]
  split
  · exact hx
  · exact h m

/-- A lane with the same schedule, whose voices have fewer pending starts. -/
theorem Lane.Orderly.of_same {x y : Lane} (h : x.Orderly) (schedule : y.schedule = x.schedule)
    (pending : ∀ v, (y.voices.get v).pending = (x.voices.get v).pending ∨ (y.voices.get v).pending = none) : y.Orderly := by
  refine ⟨schedule ▸ h.length, schedule ▸ h.rising, fun v => ?_⟩
  rcases pending v with same | none
  · rw [same, schedule]; exact h.starts v
  · exact .inl none

theorem orderly_of_sounds {d e : Device} (h : d.Orderly) (s : d.Sounds e) : e.Orderly := fun l =>
  (h l).of_same (by rw [s.lane l]; rfl) (s.pending l)

theorem orderly_endSegment {d : Device} (h : d.Orderly) (l : Fin 8) (v : Fin 4) (c : EndCause) :
    (d.endSegment l v c).Orderly := by
  refine orderly_put h ?_ (lanes_endSegment d l v c)
  refine (h l).of_same rfl fun w => .inl ?_
  dsimp only
  rw [get_put]
  split
  · subst_vars; exact pending_afterEnd _ _
  · rfl

/-- An entry starts one voice at most. -/
theorem startsVoice_unique {e : Entry} {v w : Fin 4} (h : e.startsVoice v = true) (g : e.startsVoice w = true) : w = v := by
  unfold Entry.startsVoice at h g
  cases kind : e.kind with
  | voiceStart u =>
    simp only [kind, decide_eq_true_eq] at h g
    exact g.symm.trans h
  | voiceStop | voiceGain | laneFreeze => simp [kind] at h

/-- A lane whose start is cancelled loses that start's entries alone. -/
theorem orderly_unscheduled {x : Lane} (h : x.Orderly) (v : Fin 4) {y : Voice} (hy : y.pending = none) :
    ({ x with schedule := x.schedule.filter fun e => !e.startsVoice v, voices := put x.voices v y } : Lane).Orderly := by
  refine ⟨Nat.le_trans (List.length_filter_le ..) h.length, h.rising.sublist (List.filter_sublist.map _), fun w => ?_⟩
  dsimp only
  rw [get_put]
  split
  · exact .inl hy
  · rename_i other
    refine (h.starts w).imp_right fun ⟨e, he, hs⟩ => ⟨e, List.mem_filter.mpr ⟨he, ?_⟩, hs⟩
    rw [Bool.not_eq_true', ← Bool.not_eq_true]
    exact fun hv => other (startsVoice_unique hv hs)

theorem orderly_cancelStart {d : Device} (h : d.Orderly) (l : Fin 8) (v : Fin 4) (c : EndCause) :
    (d.cancelStart l v c).Orderly := by
  cases hp : (d.voice l v).pending with
  | none => rw [cancelStart_of_none c hp]; exact h
  | some p => exact orderly_put h (orderly_unscheduled (h l) v rfl) (lanes_cancelStart_of_some c hp)

theorem orderly_endSlotVoices {d : Device} (h : d.Orderly) (n : Fin 16) (c : EndCause) : (d.endSlotVoices n c).Orderly := by
  unfold Device.endSlotVoices
  refine foldl_keeps Device.Orderly _ (fun d x h => ?_) _ _ h
  dsimp only
  generalize he : (if (d.voice x.1 x.2).reads n = true then d.endSegment x.1 x.2 c else d) = e
  have ended : e.Orderly := by
    rw [← he]
    split
    · exact orderly_endSegment h _ _ _
    · exact h
  split
  · exact orderly_cancelStart ended _ _ _
  · exact ended

theorem orderly_breakSlot {d : Device} (h : d.Orderly) (n : Fin 16) : (d.breakSlot n).Orderly := by
  unfold Device.breakSlot
  exact orderly_of_lanes (orderly_endSlotVoices (orderly_of_lanes h (e := d.shutSlot n .broken (some .broken)) rfl) n _)
    (raise_lanes ..)

/-! ## A lane stopped (R45) -/

/-- The voices of a lane stop: the ends and the cancelled starts of some of its voices. -/
def Device.stopSome (d : Device) (l : Fin 8) (vs : List (Fin 4)) : Device :=
  vs.foldl (fun d v => (d.endSegment l v .stopped).cancelStart l v .stopped) d

theorem stopVoices_eq (d : Device) (l : Fin 8) : d.stopVoices l = d.stopSome l (List.finRange 4) := rfl

/-- A voice after its lane is stopped (R45, R27, R28). -/
def Voice.afterStop (x : Voice) : Voice := (x.afterEnd .stopped).afterCancel .stopped

theorem voice_stopSome_other (d : Device) (l : Fin 8) (vs : List (Fin 4)) {m : Fin 8} {w : Fin 4} (h : m ≠ l ∨ w ∉ vs) :
    (d.stopSome l vs).voice m w = d.voice m w := by
  induction vs generalizing d with
  | nil => rfl
  | cons v vs ih =>
    have here : m ≠ l ∨ w ≠ v := h.imp_right fun h e => h (e ▸ List.mem_cons_self)
    have there : m ≠ l ∨ w ∉ vs := h.imp_right fun h e => h (List.mem_cons_of_mem _ e)
    rw [Device.stopSome, List.foldl_cons, ← Device.stopSome, ih _ there, voice_cancelStart_other _ _ _ _ here,
      voice_endSegment_other _ _ _ _ here]

theorem voice_stopSome_of_mem (d : Device) (l : Fin 8) {vs : List (Fin 4)} (nodup : vs.Nodup) {w : Fin 4} (h : w ∈ vs) :
    (d.stopSome l vs).voice l w = (d.voice l w).afterStop := by
  induction vs generalizing d with
  | nil => cases h
  | cons v vs ih =>
    obtain ⟨new, nodup⟩ := List.nodup_cons.mp nodup
    rw [Device.stopSome, List.foldl_cons, ← Device.stopSome]
    by_cases e : w = v
    · subst e
      rw [voice_stopSome_other _ _ _ (.inr new), voice_cancelStart_same, voice_endSegment_same]
      rfl
    · rw [ih _ nodup ((List.mem_cons.mp h).resolve_left e), voice_cancelStart_other _ _ _ _ (.inr e),
        voice_endSegment_other _ _ _ _ (.inr e)]

theorem voice_stopVoices (d : Device) (l : Fin 8) (v : Fin 4) :
    (d.stopVoices l).voice l v = (d.voice l v).afterStop :=
  voice_stopSome_of_mem d l (List.nodup_finRange 4) (List.mem_finRange v)

/-- A lane stop touches the voices and the schedule of its lane alone. -/
theorem lane_stopVoices_other (d : Device) {l m : Fin 8} (h : m ≠ l) : (d.stopVoices l).lane m = d.lane m := by
  rw [stopVoices_eq]
  refine foldl_keeps (fun e : Device => e.lane m = d.lane m) _ (fun e v he => ?_) _ _ rfl
  have ended : (e.endSegment l v .stopped).lane m = e.lane m := by
    unfold Device.lane
    rw [lanes_endSegment, get_put_of_ne _ _ h]
  rw [← he, ← ended]
  cases hp : ((e.endSegment l v .stopped).voice l v).pending with
  | none => rw [cancelStart_of_none _ hp]
  | some p => unfold Device.lane; rw [lanes_cancelStart_of_some _ hp, get_put_of_ne _ _ h]

/-- The settings of a lane: what its voices and its schedule do not touch. -/
theorem lane_stopVoices_same (d : Device) (l : Fin 8) :
    (d.stopVoices l).lane l =
      { d.lane l with schedule := ((d.stopVoices l).lane l).schedule, voices := ((d.stopVoices l).lane l).voices } := by
  rw [stopVoices_eq]
  refine foldl_keeps (fun e : Device =>
    e.lane l = { d.lane l with schedule := (e.lane l).schedule, voices := (e.lane l).voices }) _ (fun e v he => ?_) _ _ rfl
  have ended : (e.endSegment l v .stopped).lane l =
      { e.lane l with voices := put (e.lane l).voices v ((e.voice l v).afterEnd .stopped) } := by
    conv => lhs; unfold Device.lane
    rw [lanes_endSegment, get_put_same]
  cases hp : ((e.endSegment l v .stopped).voice l v).pending with
  | none => rw [cancelStart_of_none _ hp, ended, he]
  | some p =>
    have cancelled : ((e.endSegment l v .stopped).cancelStart l v .stopped).lane l =
        ((e.endSegment l v .stopped).lane l).afterCancel v .stopped := by
      conv => lhs; unfold Device.lane
      rw [lanes_cancelStart_of_some _ hp, get_put_same]
    rw [cancelled, Lane.afterCancel, ended, he]

/-- The lanes after a lane stop: the stopped record of the lane, with its voices ended. -/
theorem lanes_stopLane (d : Device) (l : Fin 8) :
    (d.stopLane l).lanes = put (d.stopVoices l).lanes l ((d.stopVoices l).lane l).stopped := by
  unfold Device.stopLane
  dsimp only
  rw [abortWaiting_lanes]
  have stopped : (((d.stopVoices l).stopMarkers l).updLane l Lane.stopped).lanes =
      put (d.stopVoices l).lanes l ((d.stopVoices l).lane l).stopped := by
    have lanes := stopMarkers_lanes (d.stopVoices l) l
    change put _ l (Lane.stopped (Device.lane _ l)) = _
    rw [lane_of_lanes lanes, lanes]
  generalize ((d.stopVoices l).stopMarkers l).updLane l Lane.stopped = e at stopped ⊢
  split
  · exact stopped
  · exact stopped

theorem lane_stopLane_other (d : Device) {l m : Fin 8} (h : m ≠ l) : (d.stopLane l).lane m = d.lane m := by
  conv => lhs; unfold Device.lane
  rw [lanes_stopLane, get_put_of_ne _ _ h]
  exact lane_stopVoices_other d h

theorem lane_stopLane_same (d : Device) (l : Fin 8) : (d.stopLane l).lane l = ((d.stopVoices l).lane l).stopped := by
  conv => lhs; unfold Device.lane
  rw [lanes_stopLane, get_put_same]

@[simp] theorem stopped_voices (x : Lane) : x.stopped.voices = x.voices := rfl

theorem voice_stopLane (d : Device) (l : Fin 8) (v : Fin 4) : (d.stopLane l).voice l v = (d.voice l v).afterStop := by
  rw [Device.voice, lane_stopLane_same, stopped_voices, ← Device.voice, voice_stopVoices]

theorem orderly_stopLane {d : Device} (h : d.Orderly) (l : Fin 8) : (d.stopLane l).Orderly := fun m => by
  by_cases e : m = l
  · subst e
    rw [lane_stopLane_same]
    refine ⟨Nat.zero_le _, List.Pairwise.nil, fun v => .inl ?_⟩
    have voice := voice_stopVoices d m v
    rw [Device.voice] at voice
    simp only [Lane.stopped]
    rw [voice]
    exact pending_afterCancel _ _
  · rw [lane_stopLane_other d e]; exact h m

end Sys2Proof.Machine
end

section
/-!
SUPPORT. A block keeps the order of its lane's schedule: every entry that the boundary takes is applied at one of the block's
samples, and an applied start is no longer pending (02: R40, R41).
-/
namespace Sys2Proof.Machine

/-- A fold reaches what one of its steps brings about and every step keeps. -/
theorem foldl_reaches {α β : Type} (P : β → Prop) (f : β → α → β) (keeps : ∀ x a, P x → P (f x a)) {a : α}
    (reach : ∀ x, P (f x a)) {xs : List α} (h : a ∈ xs) (x : β) : P (xs.foldl f x) := by
  induction xs generalizing x with
  | nil => cases h
  | cons y ys ih =>
    rw [List.foldl_cons]
    rcases List.mem_cons.mp h with rfl | h
    · exact foldl_keeps P f keeps ys _ (reach x)
    · exact ih h _

/-! ## The entries of a block -/

/-- A voice of a block has no start pending. -/
def Block.Started (l : Fin 8) (v : Fin 4) (k : Block) : Prop := (k.dev.voice l v).pending = none

theorem Block.Works.started {k m : Block} (w : k.Works m) {l : Fin 8} {v : Fin 4} (h : k.Started l v) : m.Started l v :=
  (w.sounds.pending l v).elim (fun same => same.trans h) id

/-- A start applied is no longer pending (R15). -/
theorem started_applyStart (k : Block) (l : Fin 8) (v : Fin 4) (t : Nat) (g : Fin 1024) (claim : Option (Fin 16 × Nat)) :
    (k.applyStart l v t g claim).Started l v := by
  unfold Block.applyStart
  dsimp only
  generalize hm : ({ k with dev := (k.dev.causePulse (.voiceStartPulse l) (k.dev.sampleClock l t)).updVoice l v _ } : Block) = m
  have cleared : m.Started l v := by
    rw [← hm, Block.Started, voice_updVoice_same]
  split
  · exact ((works_endSegment ..).trans (works_begin ..)).started cleared
  · exact (works_begin ..).started cleared

theorem started_apply (k : Block) (l : Fin 8) (t : Nat) {e : Entry} {v : Fin 4} (h : e.startsVoice v = true) :
    (k.apply l t e).Started l v := by
  unfold Entry.startsVoice at h
  cases kind : e.kind with
  | voiceStart w g claim =>
    simp only [kind, decide_eq_true_eq] at h
    simp only [Block.apply, kind, h]
    exact started_applyStart ..
  | voiceStop | voiceGain | laneFreeze => simp [kind] at h

theorem started_sample {l : Fin 8} {v : Fin 4} {k : Block} (h : k.Started l v) (b : Nat) (es : List Entry) (n : Nat) :
    (k.sample l b es n).Started l v :=
  ((sounds_sample l b es k n).1.pending l v).elim (fun same => same.trans h) id

/-- The sample at which an entry of a block is applied: that of its stamp, or the first. -/
theorem started_sample_of_entry (l : Fin 8) {v : Fin 4} (b : Nat) {es : List Entry} {e : Entry} (mem : e ∈ es)
    (h : e.startsVoice v = true) (k : Block) : (k.sample l b es (e.stamp - b)).Started l v := by
  have here : e ∈ entriesAt es b (b + (e.stamp - b)) := by
    refine List.mem_filter.mpr ⟨mem, ?_⟩
    simp only [Bool.or_eq_true, Bool.and_eq_true, decide_eq_true_eq]
    omega
  have prepared : (Block.prepared l b es k (e.stamp - b)).Started l v :=
    foldl_reaches (Block.Started l v) (fun m x => m.apply l (b + (e.stamp - b)) x)
      (fun _ _ h => (works_apply ..).started h) (fun _ => started_apply _ l _ h) here _
  have summed := (works_sumVoices _ l (b + (e.stamp - b))).started prepared
  rw [sample_eq]
  exact ((sounds_updLane _ l Lane.stepMaster playedAs_stepMaster fun _ _ => .inl rfl).pending l v).elim
    (fun same => same.trans summed) id

/-- After a block every start that it took has begun. -/
theorem started_computeBlock (d : Device) (l : Fin 8) {v : Fin 4} {es : List Entry} {e : Entry} (mem : e ∈ es)
    (h : e.startsVoice v = true) (inside : e.stamp < (d.lane l).time + 64) : (d.computeBlock l es).Started l v := by
  unfold Device.computeBlock
  dsimp only
  exact foldl_reaches (Block.Started l v) (Block.sample l (d.lane l).time es) (fun _ _ h => started_sample h ..)
    (started_sample_of_entry l _ mem h) (List.mem_range.mpr (by omega)) _

/-! ## The hand-offs -/

@[simp] theorem takeReport_lanes (d : Device) (n : Fin 16) (c : Cursor) : (d.takeReport n c).lanes = d.lanes := by
  unfold Device.takeReport
  dsimp only
  split
  · rfl
  · split
    · exact raise_lanes ..
    · rfl

@[simp] theorem handOff_lanes (d : Device) (n : Fin 16) (reports : List Cursor) (released : List Nat) :
    (d.handOff n reports released).lanes = d.lanes := by
  unfold Device.handOff
  dsimp only
  split
  · rfl
  · rw [settleSlot_lanes]
    refine foldl_keeps (fun e : Device => e.lanes = d.lanes) _ (fun e c h => (takeReport_lanes ..).trans h) _ _ ?_
    split <;> rfl

@[simp] theorem handOffReaders_lanes (k : Block) (d : Device) : (k.handOffReaders d).lanes = d.lanes := by
  unfold Block.handOffReaders
  exact foldl_keeps (fun e : Device => e.lanes = d.lanes) _ (fun _ _ h => (handOff_lanes ..).trans h) _ _ rfl

/-- A lane changed in neither schedule nor voices. -/
theorem orderly_updLane {d : Device} (h : d.Orderly) (l : Fin 8) (f : Lane → Lane)
    (schedule : (f (d.lane l)).schedule = (d.lane l).schedule) (voices : (f (d.lane l)).voices = (d.lane l).voices) :
    (d.updLane l f).Orderly := by
  refine orderly_put h ?_ rfl
  exact (h l).of_same schedule fun v => .inl (by rw [voices])

theorem orderly_compareTest {d : Device} (h : d.Orderly) (l : Fin 8) (b : Nat) : (d.compareTest l b).Orderly := by
  unfold Device.compareTest
  split
  · exact h
  · split
    · exact orderly_of_lanes (orderly_updLane h l _ rfl rfl) (raise_lanes ..)
    · exact h

theorem orderly_overrange {d : Device} (h : d.Orderly) (l : Fin 8) (saturated : Bool) :
    (d.overrange l saturated).Orderly := by
  unfold Device.overrange
  split
  · exact orderly_of_lanes (orderly_updLane h l _ rfl rfl) (raise_lanes ..)
  · exact h

theorem orderly_freezeLane {d : Device} (h : d.Orderly) (l : Fin 8) : (d.freezeLane l).Orderly :=
  orderly_updLane (d := d.freezeMarkers l) h l _ rfl rfl

theorem orderly_complete {k : Block} (h : k.dev.Orderly) (l : Fin 8) (b : Nat) : (k.complete l b).Orderly := by
  unfold Block.complete
  dsimp only
  generalize hd : (((k.handOffReaders (k.dev.updLane l _)).compareTest l b).meterBlock l _) = d
  have metered : d.Orderly := by
    rw [← hd]
    refine orderly_of_lanes ?_ (meterBlock_lanes ..)
    refine orderly_compareTest (orderly_of_lanes ?_ (handOffReaders_lanes ..)) _ _
    exact orderly_updLane h l _ rfl rfl
  generalize he : (if decide (Config.laneTimeEnd ≤ b + 64) = true then d else d.wakeContexts l (b + 64)) = e
  have woken : e.Orderly := by
    rw [← he]
    split
    · exact metered
    · exact orderly_of_lanes metered rfl
  have ranged := orderly_overrange (orderly_of_lanes woken (raiseAll_lanes _ k.events)) l k.saturated
  split
  · exact orderly_stopLane ranged _
  · exact ranged

/-! ## The boundary (R41) -/

theorem Device.Sounds.schedule {d e : Device} (h : d.Sounds e) (m : Fin 8) :
    (e.lane m).schedule = (d.lane m).schedule := by
  rw [h.lane m]
  rfl

/-- A block computed of the first entries of the schedule, all within it, leaves the others in order, and no start that it took
is pending. -/
theorem orderly_computeBlock {d : Device} (h : d.Orderly) (l : Fin 8) {taken left : List Entry}
    (split : (d.lane l).schedule = taken ++ left) (inside : ∀ e ∈ taken, e.stamp < (d.lane l).time + 64) :
    ((d.setLane l { d.lane l with schedule := left }).computeBlock l taken).dev.Orderly := fun m => by
  generalize he : d.setLane l { d.lane l with schedule := left } = e
  have lane : e.lane l = { d.lane l with schedule := left } := by rw [← he, lane_setLane_same]
  have time : (e.lane l).time = (d.lane l).time := by rw [lane]
  have sounds := (sounds_computeBlock e l taken).1
  by_cases hm : m = l
  · subst hm
    have kept : ((e.computeBlock m taken).dev.lane m).schedule = left := by rw [sounds.schedule, lane]
    have sublist : left.Sublist (d.lane m).schedule := split ▸ List.sublist_append_right taken left
    refine ⟨?_, ?_, fun v => ?_⟩
    · rw [kept]; exact Nat.le_trans sublist.length_le (h m).length
    · rw [kept]; exact (h m).rising.sublist (sublist.map _)
    · have before : (e.voice m v).pending = (d.voice m v).pending := by rw [Device.voice, lane]; rfl
      rw [kept]
      rcases sounds.pending m v with same | none
      · rcases (h m).starts v with none | ⟨x, hx, starts⟩
        · exact .inl (same.trans (before.trans none))
        · rw [split, List.mem_append] at hx
          rcases hx with hx | hx
          · exact .inl (started_computeBlock e m hx starts (time ▸ inside x hx))
          · exact .inr ⟨x, hx, starts⟩
      · exact .inl none
  · have same : e.lane m = d.lane m := by rw [← he]; exact lane_setLane_of_ne d _ hm
    have orderly : (e.lane m).Orderly := same ▸ h m
    exact orderly.of_same (sounds.schedule m) (sounds.pending m)

theorem orderly_runBlock {d : Device} (h : d.Orderly) (l : Fin 8) : (d.runBlock l).Orderly := by
  unfold Device.runBlock
  dsimp only
  refine orderly_complete (orderly_computeBlock h l List.takeWhile_append_dropWhile.symm fun e he => ?_) _ _
  have now := List.all_eq_true.mp List.all_takeWhile e he
  simp only [Entry.takenBy, Bool.and_eq_true, decide_eq_true_eq] at now
  exact now.1

/-- A hard freeze due leaves every other entry of the schedule, in order. -/
theorem dropHardFreeze_spec {b : Nat} {es rest : List Entry} (h : dropHardFreeze b es = some rest) :
    rest.Sublist es ∧ ∀ e ∈ es, e.kind ≠ .laneFreeze .hard → e ∈ rest := by
  induction es generalizing rest with
  | nil => cases h
  | cons x xs ih =>
    unfold dropHardFreeze at h
    split at h
    case isTrue due =>
      obtain rfl := Option.some.inj h
      refine ⟨List.sublist_cons_self _ _, fun e he hk => (List.mem_cons.mp he).resolve_left fun eq => ?_⟩
      simp only [Entry.hardFreezeBy, Bool.and_eq_true, decide_eq_true_eq] at due
      exact hk (eq ▸ due.1)
    case isFalse =>
      obtain ⟨ys, hys, rfl⟩ := Option.map_eq_some_iff.mp h
      obtain ⟨sublist, others⟩ := ih hys
      refine ⟨sublist.cons_cons x, fun e he hk => ?_⟩
      rcases List.mem_cons.mp he with rfl | he
      · exact List.mem_cons_self
      · exact List.mem_cons_of_mem _ (others e he hk)

theorem orderly_boundary {d : Device} (h : d.Orderly) (l : Fin 8) : (d.boundary l).Orderly := by
  have quiet : (d.updLane l Lane.releaseQuiet).Orderly :=
    orderly_updLane h l _ (by rw [releaseQuiet_eq]) (by rw [releaseQuiet_eq])
  unfold Device.boundary
  generalize d.updLane l Lane.releaseQuiet = e at quiet
  dsimp only
  split
  · exact orderly_freezeLane quiet l
  · split
    case _ rest due =>
      obtain ⟨sublist, others⟩ := dropHardFreeze_spec due
      refine orderly_freezeLane (orderly_put quiet ?_ rfl) l
      refine ⟨Nat.le_trans sublist.length_le (quiet l).length, (quiet l).rising.sublist (sublist.map _), fun v => ?_⟩
      refine ((quiet l).starts v).imp_right fun ⟨x, hx, starts⟩ => ⟨x, others x hx fun kind => ?_, starts⟩
      simp [Entry.startsVoice, kind] at starts
    case _ => exact orderly_runBlock quiet l

end Sys2Proof.Machine
end

section
/-!
SUPPORT. The account of clip memory's pages (05: R101 to R105): a clip's record and the Free Extent List change together, so
that each page stays in one place; every operation of the Clip Store keeps the account and the form of the bytes.
-/
namespace Sys2Proof.Machine

/-- A clip and the list exchange pages: each page leaves the one for the other. -/
theorem accounted_of_exchange {k m : ClipStore} (h : k.accounted) {c : Fin 256} {x : Clip}
    (clips : m.clips = put k.clips c x)
    (pages : ∀ page, covers m.freeList page + covers x.extents page =
      covers k.freeList page + covers (k.clips.get c).extents page)
    (rises : risesApart 0 m.freeList = true) (empty : x.state = .empty → x.extents = [])
    (counts : ∀ y ∈ x.extents, 1 ≤ y.count) : m.accounted := by
  obtain ⟨once, -, records⟩ := h
  refine ⟨fun page => ?_, rises, fun d => ?_⟩
  · have exchange := sum_map_put (fun x => covers x.extents page) k.clips c x
    have before := once page
    have moved := pages page
    unfold ClipStore.clipCover at before ⊢
    rw [clips]
    omega
  · rw [clips, get_put]
    split
    · exact ⟨empty, counts⟩
    · exact records d

theorem accounted_of_same {k m : ClipStore} (h : k.accounted) (clips : m.clips = k.clips) (list : m.freeList = k.freeList) :
    m.accounted := by
  obtain ⟨once, rises, records⟩ := h
  unfold ClipStore.accounted ClipStore.clipCover
  rw [clips, list]
  exact ⟨once, rises, records⟩

/-- What a list and extents beside it hold: each page of memory once at most, and no page past it. -/
def AtMostOnce (list extents : List Extent) : Prop :=
  ∀ page, covers list page + covers extents page ≤ if page < 65536 then 1 else 0

/-- The list and one clip of an account. -/
theorem atMostOnce_of_accounted {k : ClipStore} (h : k.accounted) (c : Fin 256) :
    AtMostOnce k.freeList (k.clips.get c).extents := fun page => by
  have exchange := sum_map_put (fun x => covers x.extents page) k.clips c Clip.reset
  have once := h.1 page
  have none : covers Clip.reset.extents page = 0 := rfl
  unfold ClipStore.clipCover at once
  rw [← once]
  omega

/-- Extents returned one after another join the list and keep its law. -/
theorem risesApart_returnAll {extents list : List Extent} (once : AtMostOnce list extents)
    (counts : ∀ x ∈ extents, 1 ≤ x.count) (rises : risesApart 0 list = true) :
    risesApart 0 (returnAll extents list) = true := by
  unfold returnAll
  induction extents generalizing list with
  | nil => exact rises
  | cons x xs ih =>
    have some_page : 1 ≤ x.count := counts x List.mem_cons_self
    have covered (page : Nat) (low : x.start ≤ page) (high : page < x.start + x.count) :
        page < 65536 ∧ covers list page = 0 := by
      have := once page
      rw [covers_cons, if_pos ⟨low, high⟩] at this
      split at this <;> omega
    have inside := (covered (x.start + x.count - 1) (by omega) (by omega)).1
    refine ih (fun page => ?_) (fun y hy => counts y (List.mem_cons_of_mem _ hy)) ?_
    · have := once page
      rw [covers_returnExtent, covers_cons, covers_nil]
      rw [covers_cons] at this
      omega
    · exact risesApart_returnExtent x 0 list rises some_page (by omega) (Nat.zero_le _)
        fun page low high => (covered page low high).2

theorem accounted_removeClip {k : ClipStore} (h : k.accounted) (c : Fin 256) : (k.removeClip c).accounted := by
  refine accounted_of_exchange h (c := c) (x := Clip.reset) rfl (fun page => ?_) ?_ (fun _ => rfl) (fun y hy => nomatch hy)
  · exact covers_returnAll _ _ _
  · exact risesApart_returnAll (atMostOnce_of_accounted h c) (h.2.2 c).2 h.2.1

/-- A clip opened holds what the walk took, and the list what it left (R103). -/
theorem accounted_openClip {k : ClipStore} (h : k.accounted) {c : Fin 256} (empty : (k.clips.get c).state = .empty)
    {length : Nat} (some_sample : 1 ≤ length) (slot : Fin 2) : (k.openClip c length slot).accounted := by
  have some_page : 1 ≤ pagesFor length := by unfold pagesFor; omega
  refine accounted_of_exchange h (c := c) rfl (fun page => ?_) (risesApart_allocate _ _ _ h.2.1) (fun e => nomatch e)
    (count_allocate _ _ _ h.2.1 some_page)
  have kept := covers_allocate (pagesFor length) k.freeList page
  rw [(h.2.2 c).1 empty, covers_nil]
  exact (Nat.add_comm _ _).trans kept

theorem accounted_sealClip {k : ClipStore} (h : k.accounted) (c : Fin 256) : (k.sealClip c).accounted := by
  have records := h.2.2 c
  exact accounted_of_exchange h (c := c) rfl (fun _ => rfl) h.2.1 (fun e => nomatch e) records.2

theorem clips_unitReset_eq (k : ClipStore) :
    k.unitReset = { (List.finRange 256).foldl ClipStore.abortLoading k with counters := ClipCounters.zero } := rfl

theorem accounted_abortAll {k : ClipStore} (h : k.accounted) (cs : List (Fin 256)) :
    (cs.foldl ClipStore.abortLoading k).accounted := by
  refine foldl_keeps ClipStore.accounted _ (fun k c h => ?_) _ _ h
  unfold ClipStore.abortLoading
  split
  · exact accounted_removeClip h c
  · exact h

theorem memory_abortAll (k : ClipStore) (cs : List (Fin 256)) : (cs.foldl ClipStore.abortLoading k).memory = k.memory := by
  refine foldl_keeps (fun m : ClipStore => m.memory = k.memory) _ (fun m c h => ?_) _ _ rfl
  unfold ClipStore.abortLoading
  split
  · exact h
  · exact h

theorem accounted_unitReset {k : ClipStore} (h : k.accounted) : k.unitReset.accounted := by
  rw [clips_unitReset_eq]
  generalize List.finRange 256 = cs
  exact accounted_of_same (accounted_abortAll h cs) rfl rfl

theorem memory_unitReset (k : ClipStore) : k.unitReset.memory = k.memory := by
  rw [clips_unitReset_eq]
  generalize List.finRange 256 = cs
  exact memory_abortAll k cs

/-- The Clip Store after a cold reset: every page is free. -/
theorem accounted_reset : ClipStore.reset.accounted := by
  refine ⟨fun page => ?_, rfl, fun c => ?_⟩
  · have none : ClipStore.reset.clipCover page = 0 := by
      have zero (n : Nat) : ((List.replicate n Clip.reset).map fun x => covers x.extents page).sum = 0 := by
        simp [Clip.reset]
      exact zero 256
    have all : covers ClipStore.reset.freeList page = if page < 65536 then 1 else 0 := by
      simp [ClipStore.reset, covers_cons]
    rw [none, all, Nat.add_zero]
  · have entry : ClipStore.reset.clips.get c = Clip.reset := get_replicate ..
    rw [entry]
    exact ⟨fun _ => rfl, fun x hx => nomatch hx⟩

/-! ## CLIP_DATA (R109) -/

/-- A CLIP_DATA cell touches no clip and no page's place. -/
theorem takeCell_same (k : ClipStore) (c : Fin 256) (i : Nat) (payload : List Byte) :
    (k.takeCell c i payload).clips = k.clips ∧ (k.takeCell c i payload).freeList = k.freeList := by
  unfold ClipStore.takeCell
  dsimp only
  split
  · exact ⟨rfl, rfl⟩
  · split
    · exact ⟨rfl, rfl⟩
    · split <;> exact ⟨rfl, rfl⟩

theorem wf_takeCell {k : ClipStore} (h : Memory.wf k.memory = true) (c : Fin 256) (i : Nat) (payload : List Byte) :
    Memory.wf (k.takeCell c i payload).memory = true := by
  unfold ClipStore.takeCell
  dsimp only
  split
  · exact h
  · split
    · exact h
    · split
      · exact h
      · exact wf_memWriteRun _ _ _ h

end Sys2Proof.Machine
end

section
/-!
SUPPORT. Every operation, invoked by a request or by an action, keeps what the blocks keep: sizes, orders, schedules, buffers and
pages (01 to 09).
-/
namespace Sys2Proof.Machine

/-! ## What the blocks keep -/

/-- From `d` to `e` the sizes, the orders, the schedules, the flow outbox, the buffers, the bytes and the pages are kept, each for
itself. -/
structure Device.Keeps (d e : Device) : Prop where
  sized    : d.sized → e.sized
  tidy     : d.Tidy → e.Tidy
  orderly  : d.Orderly → e.Orderly
  distinct : d.intake.distinct → e.intake.distinct
  pool     : d.intake.owes 0 → e.intake.owes 0
  memory   : Memory.wf d.clips.memory = true → Memory.wf e.clips.memory = true
  pages    : d.clips.accounted → e.clips.accounted

theorem Device.Keeps.refl (d : Device) : d.Keeps d := ⟨id, id, id, id, id, id, id⟩

theorem Device.Keeps.trans {a b c : Device} (h : a.Keeps b) (g : b.Keeps c) : a.Keeps c :=
  ⟨g.sized ∘ h.sized, g.tidy ∘ h.tidy, g.orderly ∘ h.orderly, g.distinct ∘ h.distinct, g.pool ∘ h.pool,
    g.memory ∘ h.memory, g.pages ∘ h.pages⟩

theorem keeps_of_plays {d e : Device} (h : d.Plays e) (tidy : d.Tidy → e.Tidy) (orderly : d.Orderly → e.Orderly) :
    d.Keeps e :=
  ⟨h.sized, tidy, orderly, h.distinct, h.pool, by rw [h.clips]; exact id, by rw [h.clips]; exact id⟩

/-- A change of segments, domains, tables, triggers, markers, meters, settings, the store and the moment alone. -/
theorem keeps_of_same {d e : Device} (notices : e.notices.queue = d.notices.queue) (stack : e.cue.stack = d.cue.stack)
    (threshold : e.cue.threshold = d.cue.threshold) (intake : e.intake = d.intake) (lanes : e.lanes = d.lanes)
    (clips : e.clips = d.clips) : d.Keeps e := by
  refine ⟨fun h => ?_, fun h => ⟨?_, ?_, ?_⟩, fun h => orderly_of_lanes h lanes, ?_, ?_, ?_, ?_⟩
  · unfold Device.sized; rw [notices, stack, threshold]; exact h
  · unfold NoticeBox.distinct; rw [notices]; exact h.notices
  · unfold Cue.rising; rw [stack]; exact h.levels
  · unfold Device.slot; rw [intake]; exact h.slots
  · rw [intake]; exact id
  · rw [intake]; exact id
  · rw [clips]; exact id
  · rw [clips]; exact id

/-- A lane changed in neither schedule nor voices. -/
theorem keeps_updLane (d : Device) (l : Fin 8) (f : Lane → Lane) (schedule : (f (d.lane l)).schedule = (d.lane l).schedule)
    (voices : (f (d.lane l)).voices = (d.lane l).voices) : d.Keeps (d.updLane l f) :=
  keeps_of_plays (plays_updLane ..) (fun h => tidy_updLane h l f) fun h => orderly_updLane h l f schedule voices

theorem keeps_raise (d : Device) (k : Fin 126) (detail : Byte) : d.Keeps (d.raise k detail) :=
  keeps_of_plays (plays_raise ..) (fun h => tidy_raise h k detail) fun h => orderly_of_lanes h (raise_lanes ..)

theorem keeps_handNotice (d : Device) (kind : NoticeKind) (source : Nat) (aux detail : Byte) :
    d.Keeps (d.handNotice kind source aux detail) :=
  ⟨fun h => sized_handNotice h .., fun h => tidy_handNotice h .., fun h => orderly_of_lanes h rfl, id, id, id, id⟩

theorem keeps_cueFault (d : Device) (list : Fin 256) (index : Nat) (r : Result) : d.Keeps (d.cueFault list index r) :=
  keeps_handNotice ..

theorem keeps_stepped {d : Device} {top : Context} {rest : List Context} (h : d.cue.stack = top :: rest) :
    d.Keeps (d.stepped top rest) := by
  refine ⟨fun g => ⟨g.1, ?_, g.2.2⟩, fun g => ⟨g.notices, ?_, g.slots⟩, fun g => orderly_of_lanes g rfl, id, id, id, id⟩
  · have := g.2.1
    rw [h] at this
    exact this
  · have := g.levels
    rw [Cue.rising, h] at this
    exact this

/-- The contexts that remain of the stack, with selection made. -/
theorem keeps_select_sublist {d : Device} {stack : List Context} (h : stack.Sublist d.cue.stack) :
    d.Keeps ({ d with cue := { d.cue with stack := stack } } : Device).select :=
  ⟨fun g => sized_select (d := { d with cue := { d.cue with stack := stack } }) ⟨g.1, Nat.le_trans h.length_le g.2.1, g.2.2⟩,
    fun g => tidy_select (d := { d with cue := { d.cue with stack := stack } }) ⟨g.notices, rising_sublist g.levels h, g.slots⟩,
    fun g => orderly_of_lanes g rfl, id, id, id, id⟩

/-! ## Operations -/

/-- An operation keeps what the blocks keep, whoever invokes it. -/
def KeptBy (op : Op) : Prop := ∀ (c : Caller) (p : List Byte) (s : State), s.dev.Keeps (op c p s).dev

theorem keptBy_needs {n : Nat} {op : Op} (h : KeptBy op) : KeptBy (needs n op) := fun c p s => by
  unfold needs
  split
  · exact .refl _
  · exact h c p s

/-- An operation that only reads. -/
theorem keptBy_of_reads {op : Op} (h : ∀ c p s, (op c p s).dev = s.dev) : KeptBy op := fun c p s => by
  rw [h c p s]; exact .refl _

theorem keptBy_onLane {f : State → Fin 8 → OpOut} (h : ∀ (s : State) l, s.dev.Keeps (f s l).dev) : KeptBy (onLane f) :=
  keptBy_needs fun _ p s => by
    split
    · exact .refl _
    · exact h s _

theorem keptBy_onSource {f : State → Fin 126 → OpOut} (h : ∀ (s : State) k, s.dev.Keeps (f s k).dev) : KeptBy (onSource f) :=
  keptBy_needs fun _ p s => by
    split
    · exact .refl _
    · exact h s _

theorem keptBy_onClip {f : State → Fin 256 → OpOut} (h : ∀ (s : State) c, s.dev.Keeps (f s c).dev) : KeptBy (onClip f) :=
  keptBy_needs fun _ p s => by
    split
    · exact .refl _
    · exact h s _

/-! ### Scene Program (01) -/

theorem keptBy_segWrite : KeptBy opSegWrite := keptBy_needs fun _ p s => by
  dsimp only
  split
  · exact .refl _
  · split
    · exact .refl _
    · split
      · exact .refl _
      · exact keeps_of_same rfl rfl rfl rfl rfl rfl

theorem keptBy_segHot : KeptBy opSegHot := keptBy_needs fun _ p s => by
  dsimp only
  split
  · exact .refl _
  · split
    · exact .refl _
    · exact keeps_of_same rfl rfl rfl rfl rfl rfl

theorem keptBy_segRead : KeptBy opSegRead := keptBy_needs (keptBy_of_reads fun _ p s => by
  split <;> rfl)

theorem keptBy_voiceStatus : KeptBy opVoiceStatus := keptBy_needs (keptBy_of_reads fun _ p s => by
  split <;> rfl)

/-- An entry placed in a schedule with room keeps its order (R40). -/
theorem orderly_insertEntry {x : Lane} (h : x.Orderly) (room : x.schedule.length < 16) (e : Entry) :
    ({ x with schedule := insertEntry e x.schedule } : Lane).Orderly := by
  refine ⟨?_, ?_, fun v => (h.starts v).imp_right fun ⟨y, hy, starts⟩ => ⟨y, ?_, starts⟩⟩
  · simp only [insertEntry_length]; omega
  · dsimp only
    have rising := h.rising
    generalize x.schedule = xs at rising
    induction xs with
    | nil => simp [insertEntry]
    | cons y ys ih =>
      rw [List.map_cons, List.pairwise_cons] at rising
      unfold insertEntry
      split
      case isTrue le =>
        rw [List.map_cons, List.pairwise_cons]
        refine ⟨fun n hn => ?_, ih rising.2⟩
        obtain ⟨z, hz, rfl⟩ := List.mem_map.mp hn
        rw [insertEntry_eq, List.mem_append, List.mem_cons] at hz
        rcases hz with hz | rfl | hz
        · exact rising.1 _ (List.mem_map_of_mem ((List.takeWhile_sublist _).subset hz))
        · exact le
        · exact rising.1 _ (List.mem_map_of_mem ((List.dropWhile_sublist _).subset hz))
      case isFalse lt =>
        rw [List.map_cons, List.pairwise_cons, List.map_cons, List.pairwise_cons]
        refine ⟨fun n hn => ?_, rising⟩
        rcases List.mem_cons.mp hn with rfl | hn
        · omega
        · have := rising.1 n hn; omega
  · dsimp only
    rw [insertEntry_eq, List.mem_append, List.mem_cons]
    rw [← List.takeWhile_append_dropWhile (p := fun y : Entry => decide (y.stamp ≤ e.stamp)) (l := x.schedule), List.mem_append] at hy
    exact hy.imp_right .inr

theorem keeps_place {d : Device} {l : Fin 8} (room : (d.lane l).full ≠ true) (w : When) (kind : EntryKind) :
    d.Keeps (d.place l w kind) :=
  keeps_of_plays (plays_of_lanes rfl) (fun h => tidy_of_same h rfl rfl rfl) fun h => by
    refine orderly_put h (orderly_insertEntry (h l) ?_ _) rfl
    simpa [Lane.full] using room

theorem keeps_placeEntry (s : State) (l : Fin 8) (w : When) (kind : EntryKind) :
    s.dev.Keeps (placeEntry s l w kind).dev := by
  unfold placeEntry
  split
  · exact .refl _
  · split
    · exact .refl _
    · rename_i check
      refine keeps_place (fun full => ?_) w kind
      unfold Device.entryCheck at check
      split at check
      · cases check
      · cases check

theorem keptBy_voiceStop : KeptBy opVoiceStop := keptBy_needs fun c p s => by
  split
  · split
    · exact .refl _
    · split
      · exact keeps_placeEntry ..
      · exact .refl _
  · exact .refl _

theorem keptBy_voiceGain : KeptBy opVoiceGain := keptBy_needs fun c p s => by
  split
  · exact .refl _
  · split
    · exact .refl _
    · split
      · split
        · exact keeps_placeEntry ..
        · exact .refl _
      · exact .refl _

/-! ### VOICE_START (R12 to R14) -/

/-- What replacing a pending start leaves of its voice (R14). -/
def Voice.replaced (x : Voice) : Voice := { x with pending := none, lastCause := some .replaced }

theorem replaceStart_of_none {d : Device} {l : Fin 8} {v : Fin 4} (f : Fixed) (h : (d.voice l v).pending = none) :
    d.replaceStart l v f = d := by
  unfold Device.replaceStart
  dsimp only
  rw [h]

theorem lanes_replaceStart_of_some {d : Device} {l : Fin 8} {v : Fin 4} (f : Fixed) {p : PendingStart}
    (h : (d.voice l v).pending = some p) :
    (d.replaceStart l v f).lanes = put d.lanes l
      { d.lane l with
        schedule := (d.lane l).schedule.filter fun e => !e.startsVoice v
        voices := put (d.lane l).voices v (d.voice l v).replaced } := by
  have unscheduled : (d.unschedule l v).lane l =
      { d.lane l with schedule := (d.lane l).schedule.filter fun e => !e.startsVoice v } := lane_updLane_same d l _
  have released (e : Device) (lanes : e.lanes = (d.unschedule l v).lanes) :
      (e.updVoice l v Voice.replaced).lanes = put d.lanes l
        { d.lane l with
          schedule := (d.lane l).schedule.filter fun e => !e.startsVoice v
          voices := put (d.lane l).voices v (d.voice l v).replaced } := by
    rw [lanes_updVoice, lanes, voice_of_lanes lanes, lane_of_lanes lanes, Device.voice, unscheduled]
    exact put_put d.lanes l _ _
  unfold Device.replaceStart
  dsimp only
  rw [h]
  dsimp only
  rw [raiseAll_lanes]
  refine released _ ?_
  split
  · rfl
  · exact releaseClaim_lanes ..

theorem orderly_replaceStart {d : Device} (h : d.Orderly) (l : Fin 8) (v : Fin 4) (f : Fixed) :
    (d.replaceStart l v f).Orderly := by
  cases hp : (d.voice l v).pending with
  | none => rw [replaceStart_of_none f hp]; exact h
  | some p => exact orderly_put h (orderly_unscheduled (h l) v rfl) (lanes_replaceStart_of_some f hp)

theorem plays_replaceStart (d : Device) (l : Fin 8) (v : Fin 4) (f : Fixed) : d.Plays (d.replaceStart l v f) := by
  unfold Device.replaceStart
  dsimp only
  split
  · exact .refl d
  · refine Device.Plays.trans (b := Device.updVoice _ l v Voice.replaced) ?_ (plays_raiseAll ..)
    refine Device.Plays.trans ?_ (plays_updVoice ..)
    split
    · exact plays_unschedule ..
    · exact (plays_unschedule ..).trans (plays_releaseClaim ..)

theorem tidy_replaceStart {d : Device} (h : d.Tidy) (l : Fin 8) (v : Fin 4) (f : Fixed) : (d.replaceStart l v f).Tidy := by
  have unscheduled : (d.unschedule l v).Tidy := tidy_of_same h rfl rfl rfl
  unfold Device.replaceStart
  dsimp only
  split
  · exact h
  · refine tidy_raiseAll (tidy_updVoice ?_ l v _) _
    split
    · exact unscheduled
    · exact tidy_releaseClaim unscheduled _

end Sys2Proof.Machine
end

section
/-!
SUPPORT. Every operation keeps what the blocks keep, continued: VOICE_START, the lanes and domains, the Stream Intake, the Clip
Store, the Cue Engine, markers, triggers and meters, and the Agent's own (01 to 09).
-/
namespace Sys2Proof.Machine

/-! ### VOICE_START (R11 to R14) -/

theorem sublist_of_eq {α : Type} {xs ys : List α} (h : xs = ys) : xs.Sublist ys := h ▸ .refl xs

/-- The stream flow test changes the flow state of its slot alone. -/
theorem slots_slotFlowTest (k : Intake) (n : Fin 16) :
    ∃ hold, (k.slotFlowTest n).slots = put k.slots n { k.slots.get n with hold := hold } := by
  unfold Intake.slotFlowTest
  dsimp only
  split
  · exact ⟨true, rfl⟩
  · split
    · exact ⟨false, rfl⟩
    · exact ⟨(k.slots.get n).hold, (put_get_self k.slots n).symm⟩

theorem slot_endTest_other (d : Device) {n m : Fin 16} (h : m ≠ n) : (d.endTest n).slot m = d.slot m := by
  unfold Device.endTest
  dsimp only
  split
  · unfold Device.slot
    rw [raise_intake, Device.shutSlot]
    dsimp only
    rw [slots_shut, get_put_of_ne _ _ h]
  · rfl

/-- The test for an end leaves a slot as it is, or shuts it. -/
theorem slot_endTest_same (d : Device) (n : Fin 16) :
    (d.endTest n).slot n = d.slot n ∨ ∃ cause, (d.endTest n).slot n = (d.slot n).shut .ended (some cause) := by
  have shutSlot (cause : StreamCause) :
      (d.shutSlot n .ended (some cause)).slot n = (d.slot n).shut .ended (some cause) := by
    unfold Device.slot Device.shutSlot
    dsimp only
    rw [slots_shut, get_put_same]
  unfold Device.endTest
  dsimp only
  split
  · refine .inr ⟨if (d.slot n).state = .draining ∧ (d.slot n).earlyLeave = false then .done else .abandoned, ?_⟩
    rw [Device.slot, raise_intake]
    exact shutSlot _
  · exact .inl rfl

/-- The slots between the head moved and the test for an end. -/
theorem slots_settled (d : Device) (n : Fin 16) :
    ∃ k hold, d.settleSlot n = ({ d with intake := k } : Device).endTest n ∧
      k.slots = put d.intake.slots n { (d.slot n).recompute with hold := hold } := by
  unfold Device.settleSlot
  dsimp only
  by_cases same : (d.slot n).recompute.held = (d.slot n).held
  · rw [if_pos same]
    refine ⟨(d.intake.setSlot n (d.slot n).recompute).freeBuffers _, (d.slot n).recompute.hold, rfl, ?_⟩
    rw [slots_freeBuffers]
    rfl
  · rw [if_neg same]
    obtain ⟨hold, slots⟩ := slots_slotFlowTest (d.intake.setSlot n (d.slot n).recompute) n
    refine ⟨((d.intake.setSlot n (d.slot n).recompute).slotFlowTest n).freeBuffers _, hold, rfl, ?_⟩
    rw [slots_freeBuffers, slots]
    simp only [Intake.setSlot, get_put_same, put_put]

theorem slot_settleSlot_other (d : Device) {n m : Fin 16} (h : m ≠ n) : (d.settleSlot n).slot m = d.slot m := by
  obtain ⟨k, hold, settled, slots⟩ := slots_settled d n
  rw [settled, slot_endTest_other _ h]
  unfold Device.slot
  dsimp only
  rw [slots, get_put_of_ne _ _ h]

theorem slot_releaseReader_other (d : Device) {n m : Fin 16} (index : Nat) (h : m ≠ n) :
    (d.releaseReader n index).slot m = d.slot m := by
  unfold Device.releaseReader
  split
  · rfl
  · rw [slot_settleSlot_other _ h, slot_setSlot_of_ne _ _ h]

/-- A slot settled has no reader that it did not have. -/
theorem readers_settleSlot (d : Device) (n : Fin 16) :
    ((d.settleSlot n).slot n).readers.Sublist (d.slot n).readers := by
  obtain ⟨k, hold, settled, slots⟩ := slots_settled d n
  have here : ({ d with intake := k } : Device).slot n = { (d.slot n).recompute with hold := hold } := by
    unfold Device.slot
    dsimp only
    rw [slots, get_put_same]
    rfl
  have kept : (({ d with intake := k } : Device).slot n).readers = (d.slot n).readers := by
    rw [here]
    exact recompute_readers _
  rw [settled]
  rcases slot_endTest_same { d with intake := k } n with same | ⟨cause, shut⟩
  · exact sublist_of_eq ((congrArg Slot.readers same).trans kept)
  · rw [shut]
    exact List.nil_sublist _

/-- A reader released is gone, and no reader joins (R83). -/
theorem readers_releaseReader (d : Device) (n : Fin 16) (index : Nat) :
    ((d.releaseReader n index).slot n).readers.Sublist ((d.slot n).readers.filter (·.index ≠ index)) := by
  unfold Device.releaseReader
  cases found : (d.slot n).reader index with
  | none =>
    have absent : (d.slot n).readers.filter (·.index ≠ index) = (d.slot n).readers :=
      List.filter_eq_self.mpr fun r hr => by simpa using List.find?_eq_none.mp found r hr
    exact sublist_of_eq absent.symm
  | some r =>
    have named : r.index = index := by simpa using List.find?_some found
    have left := readers_settleSlot (d.setSlot n ((d.slot n).leave r)) n
    rw [slot_setSlot_same] at left
    exact named ▸ left

/-- The checks of R11 leave room for the entry where no start is replaced. -/
theorem room_of_startCheck {d : Device} {l : Fin 8} {v : Fin 4} {g : Fin 1024} (h : d.startCheck l v g = none)
    (fresh : (d.voice l v).pending = none) : (d.lane l).schedule.length < 16 := by
  refine Classical.byContradiction fun full => ?_
  have isFull : (d.lane l).full = true := by simpa [Lane.full] using full
  unfold Device.startCheck at h
  dsimp only at h
  split at h
  · cases h
  · split at h
    · cases h
    · split at h
      · cases h
      · rw [if_pos ⟨fresh, isFull⟩] at h
        cases h

/-- The checks of R11 leave room for a reader where none passes to the start. -/
theorem claim_of_startCheck {d : Device} {l : Fin 8} {v : Fin 4} {g : Fin 1024} (h : d.startCheck l v g = none)
    (stream : (d.segment g).fixed.kind = .stream) (new : (d.voice l v).passedClaim (d.segment g).fixed = none) :
    (d.slot (d.segment g).fixed.slot).claimResult = .ok := by
  refine Classical.byContradiction fun refused => ?_
  unfold Device.startCheck at h
  dsimp only at h
  split at h
  · cases h
  · split at h
    · cases h
    · split at h
      · cases h
      · split at h
        · cases h
        · rw [if_pos ⟨stream, new, refused⟩] at h
          cases h

/-- A schedule without the starts of a voice is shorter where that voice's pending start has its entry. -/
theorem length_unscheduled {x : Lane} (h : x.Orderly) {v : Fin 4} (pending : (x.voices.get v).pending ≠ none) :
    (x.schedule.filter fun e => !e.startsVoice v).length < 16 := by
  obtain ⟨e, he, starts⟩ := (h.starts v).resolve_left pending
  have shorter : (x.schedule.filter fun e => !e.startsVoice v).length < x.schedule.length :=
    List.length_filter_lt_length_iff_exists.mpr ⟨e, he, by simp [starts]⟩
  exact Nat.lt_of_lt_of_le shorter h.length

/-- After a replacement there is room for the new entry (R14, R40). -/
theorem room_replaceStart {d : Device} (h : d.Orderly) {l : Fin 8} {v : Fin 4} {g : Fin 1024}
    (check : d.startCheck l v g = none) (f : Fixed) : ((d.replaceStart l v f).lane l).schedule.length < 16 := by
  cases hp : (d.voice l v).pending with
  | none => rw [replaceStart_of_none f hp]; exact room_of_startCheck check hp
  | some p =>
    unfold Device.lane
    rw [lanes_replaceStart_of_some f hp, get_put_same]
    refine length_unscheduled (h l) fun absent => ?_
    rw [Device.voice, absent] at hp
    cases hp

theorem claimFor_of_passed {d : Device} {l : Fin 8} {v : Fin 4} {f : Fixed} {c : Fin 16 × Nat} :
    d.claimFor l v f (some c) = (d, some c) := rfl

@[simp] theorem claimFor_lanes (d : Device) (l : Fin 8) (v : Fin 4) (f : Fixed) (passed : Option (Fin 16 × Nat)) :
    (d.claimFor l v f passed).1.lanes = d.lanes := by
  unfold Device.claimFor
  split
  · rfl
  · split <;> rfl

theorem plays_claimFor (d : Device) (l : Fin 8) (v : Fin 4) (f : Fixed) (passed : Option (Fin 16 × Nat)) :
    d.Plays (d.claimFor l v f passed).1 := by
  unfold Device.claimFor
  split
  · exact .refl d
  · split
    · exact plays_setSlot d f.slot ((d.slot f.slot).claim l v true) id rfl
    · exact .refl d

theorem tidy_claimFor {d : Device} (h : d.Tidy) (l : Fin 8) (v : Fin 4) (f : Fixed) {passed : Option (Fin 16 × Nat)}
    (room : f.kind = .stream → passed = none → (d.slot f.slot).readers.length < 8) :
    (d.claimFor l v f passed).1.Tidy := by
  unfold Device.claimFor
  split
  · exact h
  · split
    · rename_i stream
      exact tidy_setSlot h f.slot _ (fits_claim (h.slots f.slot) (room stream rfl) l v true)
    · exact h

/-- The last part of an accepted start: its entry placed, and the voice's pending start set (R12). -/
def Device.placeStart (d : Device) (l : Fin 8) (v : Fin 4) (g : Fin 1024) (w : When) (claim : Option (Fin 16 × Nat)) :
    Device :=
  let stamp := stampOf (d.lane l).time w
  (d.schedule l { stamp := stamp, kind := .voiceStart v g claim }).updVoice l v fun x =>
    { x with pending := some { segment := g, stamp := stamp, claim := claim }
             state := if x.state = .idle then .pending else x.state }

theorem acceptStart_eq (d : Device) (l : Fin 8) (v : Fin 4) (g : Fin 1024) (w : When) :
    d.acceptStart l v g w =
      (let c := (d.replaceStart l v (d.segment g).fixed).claimFor l v (d.segment g).fixed
        ((d.voice l v).passedClaim (d.segment g).fixed)
       c.1.placeStart l v g w c.2) := rfl

theorem orderly_placeStart {d : Device} (h : d.Orderly) {l : Fin 8} (room : (d.lane l).schedule.length < 16) (v : Fin 4)
    (g : Fin 1024) (w : When) (claim : Option (Fin 16 × Nat)) : (d.placeStart l v g w claim).Orderly := by
  let e : Entry := { stamp := stampOf (d.lane l).time w, kind := .voiceStart v g claim }
  have placed := orderly_insertEntry (h l) room e
  have mem : e ∈ insertEntry e (d.lane l).schedule := by
    rw [insertEntry_eq, List.mem_append, List.mem_cons]
    exact .inr (.inl rfl)
  have lane : (d.schedule l e).lane l = { d.lane l with schedule := insertEntry e (d.lane l).schedule } :=
    lane_updLane_same d l _
  intro m
  by_cases hm : m = l
  · subst hm
    unfold Device.placeStart
    rw [Device.updVoice, lane_setVoice_same, lane]
    refine ⟨placed.length, placed.rising, fun u => ?_⟩
    by_cases hu : u = v
    · subst hu
      exact .inr ⟨e, mem, by simp [e, Entry.startsVoice]⟩
    · dsimp only
      rw [get_put_of_ne _ _ hu]
      exact placed.starts u
  · have same : (d.placeStart l v g w claim).lane m = d.lane m :=
      (lane_updVoice_of_ne _ v _ hm).trans (lane_updLane_of_ne d _ hm)
    rw [same]
    exact h m

theorem readers_releaseClaim (d : Device) (p : PendingStart) (n : Fin 16) :
    ((d.releaseClaim p).slot n).readers.Sublist (d.slot n).readers := by
  unfold Device.releaseClaim
  split
  · exact List.Sublist.refl _
  · rename_i s r _
    by_cases e : n = s
    · subst e
      exact (readers_releaseReader ..).trans List.filter_sublist
    · exact sublist_of_eq (congrArg Slot.readers (slot_releaseReader_other _ _ e))

theorem slot_raiseAll (d : Device) (events : List (Fin 126 × Byte)) (n : Fin 16) :
    (d.raiseAll events).slot n = d.slot n := by
  unfold Device.slot
  rw [raiseAll_intake]

/-- A replaced start adds no reader to any slot. -/
theorem readers_replaceStart (d : Device) (l : Fin 8) (v : Fin 4) (f : Fixed) (n : Fin 16) :
    ((d.replaceStart l v f).slot n).readers.Sublist (d.slot n).readers := by
  unfold Device.replaceStart
  dsimp only
  split
  · exact List.Sublist.refl _
  · rw [slot_raiseAll]
    split
    · exact List.Sublist.refl _
    · exact readers_releaseClaim (d.unschedule l v) _ n

theorem keeps_acceptStart {d : Device} {l : Fin 8} {v : Fin 4} {g : Fin 1024} (check : d.startCheck l v g = none)
    (w : When) : d.Keeps (d.acceptStart l v g w) := by
  have plays : d.Plays (d.acceptStart l v g w) := by
    rw [acceptStart_eq]
    exact ((plays_replaceStart ..).trans (plays_claimFor ..)).trans (plays_of_lanes rfl)
  refine keeps_of_plays plays (fun h => ?tidy) fun h => ?orderly
  case tidy =>
    rw [acceptStart_eq]
    refine tidy_of_same (tidy_claimFor (tidy_replaceStart h l v _) l v _ fun stream new => ?_) rfl rfl rfl
    exact Nat.lt_of_le_of_lt (readers_replaceStart ..).length_le (room_of_claimResult (claim_of_startCheck check stream new))
  case orderly =>
    rw [acceptStart_eq]
    refine orderly_placeStart (orderly_of_lanes (orderly_replaceStart h l v _) (claimFor_lanes ..)) ?_ v g w _
    rw [lane_of_lanes (claimFor_lanes ..)]
    exact room_replaceStart h check _

theorem keptBy_voiceStart : KeptBy opVoiceStart := keptBy_needs fun c p s => by
  split
  · exact .refl _
  · split
    · exact .refl _
    · split
      · split
        · exact .refl _
        · split
          · exact .refl _
          · rename_i check
            exact keeps_acceptStart check _
      · exact .refl _

/-! ### Lanes and clock domains (02) -/

theorem newGain_same (x : Lane) (gain : Int) : (x.newGain gain).schedule = x.schedule ∧ (x.newGain gain).voices = x.voices := by
  unfold Lane.newGain
  split
  · exact ⟨rfl, rfl⟩
  · exact ⟨rfl, rfl⟩
  · split <;> exact ⟨rfl, rfl⟩
  · exact ⟨rfl, rfl⟩
  · exact ⟨rfl, rfl⟩

/-- A lane written that has its schedule and its voices still. -/
theorem keeps_setLane (d : Device) (l : Fin 8) (x : Lane) (schedule : x.schedule = (d.lane l).schedule)
    (voices : x.voices = (d.lane l).voices) : d.Keeps (d.setLane l x) :=
  keeps_updLane d l (fun _ => x) schedule voices

theorem keeps_configure (d : Device) (l : Fin 8) (i : DomainId) (ramp : Nat) (gain : Int) (meter : Bool) :
    d.Keeps (d.updLane l fun x => x.configure i ramp gain meter) := by
  obtain ⟨schedule, voices⟩ := newGain_same { d.lane l with
    domain := i, freezeRamp := ramp, meterInFreeze := meter
    rampLeft := if (d.lane l).rampDue then ramp else (d.lane l).rampLeft } gain
  exact keeps_setLane d l _ schedule voices

theorem keptBy_laneConfig : KeptBy opLaneConfig := keptBy_needs fun c p s => by
  split
  · exact .refl _
  · exact .refl _
  · split
    · exact .refl _
    · split
      · exact .refl _
      · exact keeps_configure ..

theorem keeps_armLane (s : State) (l : Fin 8) (mode : StartMode) : s.dev.Keeps (armLane s l mode).dev := by
  unfold armLane
  split
  · exact .refl _
  · split
    · exact .refl _
    · exact keeps_setLane s.dev l ((s.dev.lane l).arm mode) rfl rfl

theorem keptBy_laneArm : KeptBy opLaneArm := keptBy_needs fun c p s => by
  split
  · exact .refl _
  · exact .refl _
  · exact keeps_armLane ..
  · exact .refl _
  · exact keeps_armLane ..

theorem keptBy_laneStart : KeptBy opLaneStart := keptBy_onLane fun s l => by
  unfold startLane
  dsimp only
  split
  · exact .refl _
  · split
    · exact keeps_setLane s.dev l { s.dev.lane l with startDue := true } rfl rfl
    · exact .refl _

theorem keeps_stopLane (d : Device) (l : Fin 8) : d.Keeps (d.stopLane l) :=
  keeps_of_plays (plays_stopLane d l) (fun h => tidy_stopLane h l) fun h => orderly_stopLane h l

theorem keptBy_laneStop : KeptBy opLaneStop := keptBy_onLane fun s l => by
  split
  · exact .refl _
  · rw [done_dev]
    exact keeps_stopLane s.dev l

theorem keeps_freezeEntry (s : State) (l : Fin 8) (mode : Mode) (w : When) : s.dev.Keeps (freezeEntry s l mode w).dev := by
  unfold freezeEntry
  dsimp only
  split
  · exact .refl _
  · split
    · exact .refl _
    · split
      · exact .refl _
      · rename_i room
        exact keeps_place room w _

theorem keptBy_laneFreeze : KeptBy opLaneFreeze := keptBy_needs fun c p s => by
  split
  · split
    · exact .refl _
    · split
      · exact .refl _
      · split
        · exact .refl _
        · exact keeps_freezeEntry ..
  · exact .refl _

theorem keeps_resumeLane (d : Device) (l : Fin 8) : d.Keeps (d.resumeLane l) := by
  unfold Device.resumeLane
  dsimp only
  split
  · have thawed : d.Keeps (d.thawMarkers l) := keeps_of_same rfl rfl rfl rfl rfl rfl
    exact thawed.trans (keeps_setLane (d.thawMarkers l) l ((d.lane l).resume Val.zero) rfl rfl)
  · exact keeps_setLane d l ((d.lane l).resume (d.lane l).ampNow) rfl rfl
  · exact .refl d
  · exact .refl d
  · exact .refl d

theorem keptBy_laneResume : KeptBy opLaneResume := keptBy_onLane fun s l => keeps_resumeLane s.dev l

theorem orderQuiet_same (x : Lane) (o : QuietOrder) :
    (x.orderQuiet o).schedule = x.schedule ∧ (x.orderQuiet o).voices = x.voices := by
  cases o <;> exact ⟨rfl, rfl⟩

theorem keptBy_laneQuiet : KeptBy opLaneQuiet := keptBy_needs fun c p s => by
  split
  · exact .refl _
  · exact .refl _
  · rename_i order l _ _
    obtain ⟨schedule, voices⟩ := orderQuiet_same (s.dev.lane l) order
    exact keeps_setLane s.dev l _ schedule voices

theorem keptBy_laneCompareSet : KeptBy opLaneCompareSet := keptBy_needs fun c p s => by
  split
  · exact .refl _
  · exact .refl _
  · rename_i present l _ _
    exact keeps_setLane s.dev l { s.dev.lane l with compare := if present then some (u48 p 2) else none } rfl rfl

theorem keptBy_laneStatus : KeptBy opLaneStatus := keptBy_onLane fun _ _ => .refl _

theorem keeps_setDomain (d : Device) (i : DomainId) (x : Domain) : d.Keeps (d.setDomain i x) := by
  cases i <;> exact keeps_of_same rfl rfl rfl rfl rfl rfl

theorem keptBy_domainSet : KeptBy opDomainSet := keptBy_needs fun c p s => by
  split
  · exact .refl _
  · split
    · exact .refl _
    · split
      · exact .refl _
      · split
        · exact .refl _
        · exact keeps_setDomain ..

theorem keptBy_domainStatus : KeptBy opDomainStatus := keptBy_needs (keptBy_of_reads fun c p s => by
  split <;> rfl)

/-! ### The Stream Intake (03) -/

/-- A change of the Stream Intake alone. -/
theorem keeps_of_intake {d : Device} (k : Intake) (fits : d.Tidy → ∀ n, (k.slots.get n).fits = true)
    (distinct : d.intake.distinct → k.distinct) (pool : d.intake.owes 0 → k.owes 0) : d.Keeps { d with intake := k } :=
  ⟨id, fun h => ⟨h.notices, h.levels, fits h⟩, fun h => orderly_of_lanes h rfl, distinct, pool, id, id⟩

/-- A slot written that holds as many buffers as before. -/
theorem keeps_setSlot (d : Device) (n : Fin 16) (x : Slot) (fits : (d.slot n).fits = true → x.fits = true)
    (shut : (d.slot n).shutEmpty → x.shutEmpty) (held : x.held = (d.slot n).held) : d.Keeps (d.setSlot n x) :=
  keeps_of_plays (plays_setSlot d n x shut held) (fun h => tidy_setSlot h n x (fits (h.slots n)))
    fun h => orderly_of_lanes h rfl

theorem keptBy_tagWrite : KeptBy opTagWrite := keptBy_needs fun c p s => by
  split
  · exact .refl _
  · exact .refl _
  · dsimp only
    split
    · exact .refl _
    · exact keeps_of_intake _ (fun h => h.slots) id id

theorem keptBy_tagRead : KeptBy opTagRead := keptBy_needs (keptBy_of_reads fun c p s => by
  split <;> rfl)

theorem keptBy_streamStatus : KeptBy opStreamStatus := keptBy_needs (keptBy_of_reads fun c p s => by
  split <;> rfl)

/-- A slot set up holds nothing, as it did while it was not open. -/
theorem keeps_openSlot {d : Device} {n : Fin 16} (shut : (d.slot n).isOpen ≠ true) (c : SlotConfig) :
    d.Keeps (d.setSlot n ((d.slot n).opened c)) := by
  refine keeps_of_intake _ (fun h m => ?_) id fun h => ?_
  · change ((put d.intake.slots n _).get m).fits = true
    rw [get_put]
    split
    · simp [Slot.fits, Slot.opened, Slot.held]
    · exact h.slots m
  · have empty : (d.slot n).queue = [] := h.2 n ((Bool.not_eq_true _).mp shut)
    exact owes_setSlot_same h n _ (fun open_ => by simp [Slot.opened, Slot.isOpen] at open_) (by
      change ([].filter QueueEntry.isData).length = ((d.slot n).queue.filter QueueEntry.isData).length
      rw [empty])

theorem keptBy_streamOpen : KeptBy opStreamOpen := keptBy_needs fun c p s => by
  split
  · exact .refl _
  · exact .refl _
  · split
    · exact .refl _
    · split
      · exact .refl _
      · split
        · exact .refl _
        · rename_i shut _
          exact keeps_openSlot shut _

theorem orderly_closeSlot {d : Device} (h : d.Orderly) (n : Fin 16) : (d.closeSlot n).Orderly := by
  unfold Device.closeSlot
  exact orderly_endSlotVoices (orderly_of_lanes h (e := d.shutSlot n .closed (d.slot n).endCause) rfl) n _

theorem plays_closeSlot (d : Device) (n : Fin 16) : d.Plays (d.closeSlot n) := by
  unfold Device.closeSlot
  exact (plays_shutSlot ..).trans (plays_endSlotVoices ..)

theorem tidy_closeSlot {d : Device} (h : d.Tidy) (n : Fin 16) : (d.closeSlot n).Tidy := by
  unfold Device.closeSlot
  exact tidy_endSlotVoices (tidy_shutSlot h _ _ _) _ _

theorem keeps_closeStream (s : State) (n : Fin 16) (force : Bool) : s.dev.Keeps (closeStream s n force).dev := by
  unfold closeStream
  dsimp only
  split
  · rename_i shut
    exact keeps_setSlot _ n { s.dev.slot n with state := .closed } id (fun empty _ => empty shut) rfl
  · split
    · exact .refl _
    · rw [done_dev]
      exact keeps_of_plays (plays_closeSlot ..) (fun h => tidy_closeSlot h n) fun h => orderly_closeSlot h n

theorem keptBy_streamClose : KeptBy opStreamClose := keptBy_needs fun c p s => by
  split
  · exact .refl _
  · exact keeps_closeStream ..

/-- The pool with a reserve and a hysteresis, before the flow test (R94). -/
def Intake.withPool (k : Intake) (reserve hysteresis : Nat) : Intake :=
  { k with pool := { k.pool with reserve := reserve, hysteresis := hysteresis } }

theorem configurePool_eq (k : Intake) (reserve hysteresis : Nat) :
    k.configurePool reserve hysteresis = (k.withPool reserve hysteresis).poolFlowTest := rfl

theorem keptBy_poolConfig : KeptBy opPoolConfig := keptBy_needs fun c p s => by
  split
  · exact .refl _
  · refine keeps_of_intake _ (fun h n => ?_) (fun h => ?_) fun h => ?_
    · rw [configurePool_eq, slots_poolFlowTest]
      exact h.slots n
    · exact distinct_poolFlowTest (k := s.dev.intake.withPool (u32 p 0) (u32 p 4)) h
    · exact owes_poolFlowTest (k := s.dev.intake.withPool (u32 p 0) (u32 p 4)) h

/-! ### The Clip Store (05) -/

/-- A change of the Clip Store alone. -/
theorem keeps_of_clips {d : Device} (k : ClipStore) (memory : Memory.wf d.clips.memory = true → Memory.wf k.memory = true)
    (pages : d.clips.accounted → k.accounted) : d.Keeps { d with clips := k } :=
  ⟨id, fun h => tidy_of_same h rfl rfl rfl, fun h => orderly_of_lanes h rfl, id, id, memory, pages⟩

theorem keeps_openClip (s : State) (c : Fin 256) {length : Nat} (some_sample : 1 ≤ length) :
    s.dev.Keeps (openClip s c length).dev := by
  unfold openClip
  dsimp only
  split
  · exact .refl _
  · rename_i empty
    split
    · exact .refl _
    · split
      · exact .refl _
      · exact keeps_of_clips _ id fun h => accounted_openClip h (Classical.not_not.mp empty) some_sample _

theorem keptBy_clipOpen : KeptBy opClipOpen := keptBy_needs fun c p s => by
  split
  · exact .refl _
  · split
    · exact .refl _
    · exact keeps_openClip _ _ (by omega)

theorem keptBy_clipSeal : KeptBy opClipSeal := keptBy_onClip fun s c => by
  unfold sealClip
  dsimp only
  split
  · exact .refl _
  · split
    · exact .refl _
    · exact keeps_of_clips _ id fun h => accounted_sealClip h c

theorem keptBy_clipAbort : KeptBy opClipAbort := keptBy_onClip fun s c => by
  unfold abortClip
  split
  · exact .refl _
  · exact keeps_of_clips _ id fun h => accounted_removeClip h c

theorem keptBy_clipDelete : KeptBy opClipDelete := keptBy_onClip fun s c => by
  unfold deleteClip
  split
  · exact .refl _
  · split
    · exact .refl _
    · exact keeps_of_clips _ id fun h => accounted_removeClip h c

theorem keptBy_clipStatus : KeptBy opClipStatus := keptBy_onClip fun _ _ => .refl _

theorem keptBy_clipSpace : KeptBy opClipSpace := keptBy_of_reads fun _ _ _ => rfl

/-! ### The Cue Engine (06) -/

theorem keptBy_mapWrite : KeptBy opMapWrite := keptBy_needs fun c p s => by
  split
  · exact .refl _
  · exact .refl _
  · split
    · exact .refl _
    · split
      · exact .refl _
      · exact keeps_of_same rfl rfl rfl rfl rfl rfl

theorem keptBy_mapRead : KeptBy opMapRead := keptBy_onSource fun _ _ => .refl _

theorem keptBy_mapArm : KeptBy opMapArm := keptBy_onSource fun _ _ => keeps_of_same rfl rfl rfl rfl rfl rfl

theorem keptBy_mapDisarm : KeptBy opMapDisarm := keptBy_onSource fun _ _ => keeps_of_same rfl rfl rfl rfl rfl rfl

theorem keptBy_cueThreshold : KeptBy opCueThreshold := keptBy_needs fun c p s => by
  split
  · exact .refl _
  · rename_i low
    refine ⟨fun h => ?_, fun h => ?_, fun h => orderly_of_lanes h rfl, id, id, id, id⟩
    · exact sized_select (d := { s.dev with cue := { s.dev.cue with threshold := u8 p 0 } }) ⟨h.1, h.2.1, Nat.not_lt.mp low⟩
    · exact tidy_select (d := { s.dev with cue := { s.dev.cue with threshold := u8 p 0 } }) ⟨h.notices, h.levels, h.slots⟩

theorem keptBy_listWrite : KeptBy opListWrite := keptBy_needs fun c p s => by
  split
  · exact .refl _
  · split
    · exact .refl _
    · split
      · exact .refl _
      · split
        · exact .refl _
        · exact keeps_of_same rfl rfl rfl rfl rfl rfl

theorem keptBy_listRead : KeptBy opListRead := keptBy_needs (keptBy_of_reads fun c p s => by
  split <;> rfl)

theorem keptBy_cueWrite : KeptBy opCueWrite := fun c p s => by
  unfold opCueWrite
  dsimp only
  split
  · exact .refl _
  · split
    · exact .refl _
    · split
      · exact .refl _
      · split
        · exact .refl _
        · exact keeps_of_same rfl rfl rfl rfl rfl rfl

theorem keptBy_cueRead : KeptBy opCueRead := keptBy_needs (keptBy_of_reads fun c p s => by
  split <;> rfl)

theorem keptBy_cueRaise : KeptBy opCueRaise := keptBy_needs fun c p s => by
  split
  · exact .refl _
  · exact keeps_raise ..

theorem keptBy_cueAbort : KeptBy opCueAbort := keptBy_needs fun c p s => by
  split
  · exact .refl _
  · exact keeps_select_sublist List.filter_sublist

theorem keptBy_cueStatus : KeptBy opCueStatus := keptBy_of_reads fun _ _ _ => rfl

theorem keptBy_nop : KeptBy opNop := keptBy_of_reads fun _ _ _ => rfl

theorem keptBy_notice : KeptBy opNotice := keptBy_needs fun c p s => by
  split
  · exact .refl _
  · exact keeps_handNotice ..

theorem keeps_abortContext {d : Device} (c : Context) {rest : List Context} (h : rest.Sublist d.cue.stack) :
    d.Keeps (d.abortContext c rest) :=
  keeps_of_plays (plays_abortContext d c rest h.length_le) (fun g => tidy_abortContext g c h)
    fun g => orderly_of_lanes g rfl

theorem keptBy_wait : KeptBy opWait := keptBy_needs fun c p s => by
  split
  · exact .refl _
  · rename_i l _
    unfold waitOn
    split
    · exact .refl _
    · rename_i top rest stack
      dsimp only
      split
      · exact keeps_abortContext _ (stack ▸ List.sublist_cons_self _ _)
      · split
        · exact .refl _
        · refine ⟨fun h => ⟨h.1, ?_, h.2.2⟩, fun h => ⟨h.notices, ?_, h.slots⟩, fun h => orderly_of_lanes h rfl, id, id, id, id⟩
          · have := h.2.1
            rw [stack] at this
            exact this
          · have := h.levels
            rw [Cue.rising, stack] at this
            exact this

/-! ### Triggers, markers and meters (07) -/

theorem keptBy_trigConfig : KeptBy opTrigConfig := keptBy_needs fun c p s => by
  split
  · exact .refl _
  · split
    · exact .refl _
    · split
      · exact .refl _
      · exact keeps_of_same rfl rfl rfl rfl rfl rfl

theorem keptBy_trigStatus : KeptBy opTrigStatus := keptBy_needs (keptBy_of_reads fun c p s => by
  split <;> rfl)

theorem keptBy_markerConfig : KeptBy opMarkerConfig := keptBy_needs fun c p s => by
  split
  · split
    · split
      · exact .refl _
      · exact keeps_of_same rfl rfl rfl rfl rfl rfl
    · exact .refl _
  · exact .refl _

theorem keptBy_markerSet : KeptBy opMarkerSet := keptBy_needs fun c p s => by
  split
  · exact .refl _
  · exact .refl _
  · exact keeps_of_same rfl rfl rfl rfl rfl rfl

theorem keptBy_markerStatus : KeptBy opMarkerStatus := keptBy_needs (keptBy_of_reads fun c p s => by
  split <;> rfl)

theorem keptBy_meterConfig : KeptBy opMeterConfig := keptBy_needs fun c p s => by
  split
  · split
    · exact .refl _
    · split
      · exact .refl _
      · split
        · exact .refl _
        · split
          · exact .refl _
          · split
            · exact .refl _
            · exact keeps_of_same rfl rfl rfl rfl rfl rfl
  · exact .refl _

theorem keptBy_meterStart : KeptBy opMeterStart := keptBy_onLane fun s l => by
  unfold startMeter
  split
  · exact .refl _
  · split
    · exact .refl _
    · exact keeps_of_same rfl rfl rfl rfl rfl rfl

theorem keptBy_meterStop : KeptBy opMeterStop := keptBy_onLane fun s l => by
  split
  · exact .refl _
  · exact keeps_of_same rfl rfl rfl rfl rfl rfl

theorem keptBy_meterRead : KeptBy opMeterRead := keptBy_onLane fun s l => by
  unfold readMeter
  dsimp only
  split
  · exact .refl _
  · exact keeps_of_same rfl rfl rfl rfl rfl rfl

/-! ### The Agent and the port (08, 09) -/

theorem keptBy_statsRead : KeptBy opStatsRead := keptBy_needs (keptBy_of_reads fun c p s => by
  split <;> rfl)

theorem keptBy_linkStatus : KeptBy opLinkStatus := keptBy_of_reads fun _ _ _ => rfl

theorem keptBy_noticeConfig : KeptBy opNoticeConfig := keptBy_needs fun c p s => by
  split
  · exact .refl _
  · exact keeps_of_same rfl rfl rfl rfl rfl rfl

theorem keptBy_storeProgram : KeptBy opStoreProgram := keptBy_needs fun c p s => by
  split
  · exact .refl _
  · split
    · exact .refl _
    · exact keeps_of_same rfl rfl rfl rfl rfl rfl

theorem keptBy_storeRead : KeptBy opStoreRead := keptBy_of_reads fun _ _ _ => rfl

theorem keptBy_identify : KeptBy opIdentify := keptBy_of_reads fun _ _ _ => rfl

end Sys2Proof.Machine
end

section
/-!
SUPPORT. The commands that no request and no action names keep what the blocks keep: arrivals at the Stream Intake and the Clip
Store, block edges, timers, ticks, pulses, and the resets (02 to 09).
-/
namespace Sys2Proof.Machine

/-! ## Arrivals at the Stream Intake (R58, R66 to R73) -/

/-- A void run holds no buffer (R65). -/
theorem data_addVoid (first : Seq) (count : Nat) (queue : List QueueEntry) :
    ((addVoid first count queue).filter QueueEntry.isData).length = (queue.filter QueueEntry.isData).length := by
  induction queue with
  | nil => rfl
  | cons x xs ih =>
    cases x with
    | data p samples =>
      unfold addVoid
      simp only [List.filter_cons, QueueEntry.isData, if_true, List.length_cons, ih]
    | void f c =>
      cases xs with
      | nil => rfl
      | cons y ys =>
        unfold addVoid
        exact ih

/-- A change of position, queue of voids, counters and state: the slot holds what it held, its configuration and readers. -/
structure Slot.Recounts (x y : Slot) : Prop where
  held    : y.held = x.held
  config  : y.config = x.config
  readers : y.readers = x.readers

theorem recounts_fillGap (x : Slot) (q : Seq) : x.Recounts (x.fillGap q) := by
  unfold Slot.fillGap
  dsimp only
  split
  · exact ⟨rfl, rfl, rfl⟩
  · exact ⟨data_addVoid .., rfl, rfl⟩

theorem state_fillGap (x : Slot) (q : Seq) : (x.fillGap q).state = x.state := by
  unfold Slot.fillGap
  dsimp only
  split <;> rfl

/-- A slot open still that holds what it held. -/
theorem keeps_recounted (d : Device) (n : Fin 16) {x : Slot} (h : (d.slot n).Recounts x) (still_open : x.isOpen = true) :
    d.Keeps (d.setSlot n x) :=
  keeps_setSlot d n x (fun fits => fits_of_sublist fits h.held h.config (h.readers ▸ List.Sublist.refl _))
    (fun _ shut => by rw [still_open] at shut; cases shut) h.held

theorem keeps_breakSlot (d : Device) (n : Fin 16) : d.Keeps (d.breakSlot n) :=
  keeps_of_plays (plays_breakSlot d n) (fun h => tidy_breakSlot h n) fun h => orderly_breakSlot h n

/-- The Stream Intake after a cell is stored (R69). -/
def Intake.stored (k : Intake) (n : Fin 16) (samples : List Sample) : Intake :=
  (k.setSlot n ((k.slots.get n).store samples)).takeBuffer

theorem held_store (x : Slot) (samples : List Sample) : (x.store samples).held = x.held + 1 := by
  unfold Slot.held Slot.store
  dsimp only
  rw [List.filter_append, List.length_append]
  rfl

theorem owes_stored {k : Intake} (h : k.owes 0) {n : Fin 16} (open_ : (k.slots.get n).isOpen = true) (free : k.pool.free ≠ 0)
    (samples : List Sample) : (k.stored n samples).owes 0 := by
  refine ⟨?_, fun m => ?_⟩
  · have moved := sum_map_put Slot.held k.slots n ((k.slots.get n).store samples)
    rw [held_store] at moved
    have before := h.1
    change k.pool.free - 1 + ((put k.slots n ((k.slots.get n).store samples)).toList.map Slot.held).sum + 0 = 4096
    omega
  · change ((put k.slots n ((k.slots.get n).store samples)).get m).shutEmpty
    rw [get_put]
    split
    · intro shut
      rw [show ((k.slots.get n).store samples).isOpen = (k.slots.get n).isOpen from rfl, open_] at shut
      cases shut
    · exact h.2 m

theorem fits_stored {k : Intake} (h : ∀ m, (k.slots.get m).fits = true) {n : Fin 16}
    (room : (k.slots.get n).held ≠ (k.slots.get n).config.quota) (samples : List Sample) (m : Fin 16) :
    ((k.stored n samples).slots.get m).fits = true := by
  change ((put k.slots n ((k.slots.get n).store samples)).get m).fits = true
  rw [get_put]
  split
  · have fits := h n
    rw [Slot.fits_iff] at fits ⊢
    obtain ⟨quota, rest⟩ := fits
    refine ⟨?_, rest⟩
    rw [held_store]
    exact Nat.lt_of_le_of_ne quota room
  · exact h m

theorem keeps_primeTest (d : Device) (n : Fin 16) : d.Keeps (d.primeTest n) := by
  unfold Device.primeTest
  dsimp only
  split
  · exact (keeps_recounted d n (x := { d.slot n with state := .primed }) ⟨rfl, rfl, rfl⟩ rfl).trans (keeps_raise ..)
  · exact .refl d

theorem isOpen_overQuotaVoid (x : Slot) : x.overQuotaVoid.isOpen = x.isOpen := rfl

theorem isOpen_poolEmptyVoid (x : Slot) : x.poolEmptyVoid.isOpen = x.isOpen := rfl

theorem keeps_takeCell {d : Device} {n : Fin 16} (open_ : (d.slot n).isOpen = true) (samples : List Sample) :
    d.Keeps (d.takeCell n samples) := by
  unfold Device.takeCell
  dsimp only
  split
  · exact keeps_recounted d n ⟨data_addVoid .., rfl, rfl⟩ ((isOpen_overQuotaVoid _).trans open_)
  · rename_i room
    split
    · exact keeps_recounted d n ⟨data_addVoid .., rfl, rfl⟩ ((isOpen_poolEmptyVoid _).trans open_)
    · rename_i free
      refine Device.Keeps.trans ?_ (keeps_primeTest ..)
      refine keeps_of_intake (((d.intake.stored n samples).slotFlowTest n).poolFlowTest) (fun h m => ?_) (fun h => ?_) fun h => ?_
      · rw [slots_poolFlowTest]
        exact fits_slotFlowTest (fits_stored h.slots room samples) n m
      · exact distinct_poolFlowTest (distinct_slotFlowTest (k := d.intake.stored n samples) h n)
      · exact owes_poolFlowTest (owes_slotFlowTest (owes_stored h open_ free samples) n)

theorem isOpen_fillGap (x : Slot) (q : Seq) : (x.fillGap q).isOpen = x.isOpen := by
  simp only [Slot.isOpen, state_fillGap]

theorem keeps_arriveOpen {d : Device} {n : Fin 16} (open_ : (d.slot n).isOpen = true) (q : Seq) (samples : List Sample) :
    d.Keeps (d.arriveOpen n q samples) := by
  have taken : d.Keeps ((d.setSlot n ((d.slot n).fillGap q)).takeCell n samples) := by
    have filled : ((d.slot n).fillGap q).isOpen = true := (isOpen_fillGap _ q).trans open_
    refine (keeps_recounted d n (recounts_fillGap _ q) filled).trans (keeps_takeCell ?_ samples)
    rw [slot_setSlot_same]
    exact filled
  unfold Device.arriveOpen
  dsimp only
  split
  · exact keeps_recounted d n ⟨rfl, rfl, rfl⟩ open_
  · exact keeps_recounted d n ⟨rfl, rfl, rfl⟩ open_
  · exact keeps_breakSlot d n
  · split
    · exact keeps_breakSlot d n
    · exact taken
  · split
    · exact keeps_breakSlot d n
    · exact taken

theorem keeps_arriveDraining {d : Device} {n : Fin 16} (open_ : (d.slot n).isOpen = true) (q : Seq) :
    d.Keeps (d.setSlot n ((d.slot n).arriveDraining q)) := by
  unfold Slot.arriveDraining
  split
  · exact keeps_recounted d n ⟨rfl, rfl, rfl⟩ open_
  · split
    · exact keeps_recounted d n ⟨rfl, rfl, rfl⟩ open_
    · exact keeps_recounted d n ⟨rfl, rfl, rfl⟩ open_

theorem keeps_drain (d : Device) (n : Fin 16) (f : Seq) : d.Keeps (d.drain n f) := by
  obtain ⟨held, config, readers⟩ := recounts_fillGap (d.slot n) f
  have drained : d.Keeps (d.setSlot n { (d.slot n).fillGap f with state := .draining, final := some f }) :=
    keeps_recounted d n ⟨held, config, readers⟩ rfl
  unfold Device.drain
  dsimp only
  split
  · exact drained.trans (keeps_raise ..)
  · exact drained

theorem keeps_endOpen {d : Device} {n : Fin 16} (open_ : (d.slot n).isOpen = true) (f : Seq) : d.Keeps (d.endOpen n f) := by
  unfold Device.endOpen
  dsimp only
  split
  · exact keeps_recounted d n ⟨rfl, rfl, rfl⟩ open_
  · exact keeps_recounted d n ⟨rfl, rfl, rfl⟩ open_
  · exact keeps_breakSlot d n
  · exact keeps_drain d n f
  · split
    · exact keeps_breakSlot d n
    · exact keeps_drain d n f

theorem keeps_endDraining {d : Device} {n : Fin 16} (open_ : (d.slot n).isOpen = true) (f : Seq) :
    d.Keeps (d.endDraining n f) := by
  unfold Device.endDraining
  dsimp only
  split
  · exact keeps_recounted d n ⟨rfl, rfl, rfl⟩ open_
  · exact keeps_breakSlot d n

theorem keeps_lookupCell {d : Device} (tag : BitVec 16) {take : Fin 16 → Device}
    (h : ∀ n, (d.slot n).isOpen = true → d.Keeps (take n)) : d.Keeps (d.lookupCell tag take) := by
  unfold Device.lookupCell
  split
  · exact keeps_of_intake _ (fun g => g.slots) id id
  · exact .refl d
  · split
    · rename_i open_
      exact h _ open_
    · exact keeps_of_intake _ (fun g => g.slots) id id

theorem keeps_takeSample (d : Device) (tag : BitVec 16) (q : Seq) (samples : List Sample) :
    d.Keeps (d.takeSample tag q samples) :=
  keeps_lookupCell tag fun n open_ => by
    split
    · exact keeps_arriveDraining open_ q
    · exact keeps_arriveOpen open_ q samples

theorem keeps_takeStreamEnd (d : Device) (tag : BitVec 16) (f : Seq) : d.Keeps (d.takeStreamEnd tag f) :=
  keeps_lookupCell tag fun n open_ => by
    split
    · exact keeps_endDraining open_ f
    · exact keeps_endOpen open_ f

/-- The flow states queued at a link UP change the flow outbox alone (R98). -/
structure Intake.Announces (k m : Intake) : Prop where
  distinct : k.distinct → m.distinct
  slots    : m.slots = k.slots
  pool     : m.pool = k.pool

theorem Intake.Announces.trans {a b c : Intake} (h : a.Announces b) (g : b.Announces c) : a.Announces c :=
  ⟨g.distinct ∘ h.distinct, g.slots.trans h.slots, g.pool.trans h.pool⟩

theorem announces_queueFlow (k : Intake) (e : FlowEntry) : k.Announces (k.queueFlow e) :=
  ⟨fun h => distinct_queueFlow h e, rfl, rfl⟩

theorem announces_announce (k : Intake) : k.Announces k.announce := by
  have each (ns : List (Fin 16)) (m : Intake) : m.Announces (ns.foldl (fun k n =>
      if (k.slots.get n).isOpen then k.queueSlotFlow n (k.slots.get n).hold else k) m) := by
    induction ns generalizing m with
    | nil => exact ⟨id, rfl, rfl⟩
    | cons n ns ih =>
      refine Intake.Announces.trans ?_ (ih _)
      dsimp only
      split
      · exact announces_queueFlow ..
      · exact ⟨id, rfl, rfl⟩
  unfold Intake.announce
  dsimp only
  split
  · exact (each _ k).trans (announces_queueFlow ..)
  · exact each _ k

theorem keeps_announce (d : Device) : d.Keeps { d with intake := d.intake.announce } := by
  obtain ⟨distinct, slots, pool⟩ := announces_announce d.intake
  refine keeps_of_intake _ (fun h => by rw [slots]; exact h.slots) distinct fun h => ?_
  unfold Intake.owes
  rw [slots, pool]
  exact h

/-- The oldest flow cell leaves the outbox (R97). -/
theorem keeps_outbox {d : Device} {e : FlowEntry} {rest : List FlowEntry} (h : d.intake.outbox = e :: rest) :
    d.Keeps { d with intake := { d.intake with outbox := rest } } :=
  keeps_of_intake _ (fun g => g.slots) (fun g => by
    rw [Intake.distinct, h] at g
    exact (List.nodup_cons.mp g).2) id

/-! ## CLIP_DATA (R109) -/

theorem keeps_takeClipData (d : Device) (wordA : BitVec 16) (i : Nat) (payload : List Byte) :
    d.Keeps (d.takeClipData wordA i payload) := by
  unfold Device.takeClipData
  split
  · obtain ⟨clips, list⟩ := takeCell_same d.clips (Fin.ofNat 256 wordA.toNat) i payload
    exact keeps_of_clips _ (fun h => wf_takeCell h _ i payload) fun h => accounted_of_same h clips list
  · exact keeps_of_clips _ id id

/-! ## Block edges, timers, ticks and pulses -/

theorem keeps_reach (d : Device) (moment : Nat) : d.Keeps (d.reach moment) := keeps_of_same rfl rfl rfl rfl rfl rfl

theorem keeps_boundary (d : Device) (l : Fin 8) : d.Keeps (d.boundary l) :=
  keeps_of_plays (plays_boundary d l) (fun h => tidy_boundary h l) fun h => orderly_boundary h l

theorem keeps_meterBlock (d : Device) (l : Fin 8) (powers : List Val) : d.Keeps (d.meterBlock l powers) :=
  keeps_of_plays (plays_meterBlock d l powers) (fun h => tidy_meterBlock h l powers)
    fun h => orderly_of_lanes h (meterBlock_lanes ..)

theorem keeps_takeEdge (d : Device) (l : Fin 8) : d.Keeps (d.takeEdge l) :=
  (keeps_reach d _).trans (keeps_setLane _ l _ rfl rfl)

theorem keeps_blockBoundary (d : Device) (l : Fin 8) : d.Keeps (d.blockBoundary l) := by
  unfold Device.blockBoundary
  split
  · exact (keeps_takeEdge d l).trans (keeps_boundary ..)
  · exact .refl d

theorem keeps_startAtEdge (d : Device) (l : Fin 8) : d.Keeps (d.startAtEdge l) := by
  unfold Device.startAtEdge
  split
  · exact ((keeps_takeEdge d l).trans (keeps_setLane _ l ((d.takeEdge l).lane l).start rfl rfl)).trans (keeps_boundary ..)
  · exact .refl d

theorem keeps_frozenEdge (d : Device) (l : Fin 8) : d.Keeps (d.frozenEdge l) := by
  unfold Device.frozenEdge
  split
  · exact (keeps_takeEdge d l).trans (keeps_meterBlock ..)
  · exact .refl d

theorem keeps_settleExpires (d : Device) (i : DomainId) : d.Keeps (d.settleExpires i) := by
  unfold Device.settleExpires
  dsimp only
  split
  · exact ((keeps_reach d _).trans (keeps_setDomain ..)).trans (keeps_raise ..)
  · exact .refl d

theorem keeps_markArmed (d : Device) (n : Fin 4) : d.Keeps (d.markArmed n) := by
  have plays : d.Plays (d.markArmed n) := plays_of_lanes rfl
  refine keeps_of_plays plays (fun h => tidy_of_same h rfl rfl rfl) fun h l => ?_
  have lane : (d.markArmed n).lane l = if (d.lane l).state = .armed ∧ (d.lane l).startMode = .trigger n then
      { d.lane l with startDue := true } else d.lane l := get_map ..
  rw [lane]
  split
  · exact ⟨(h l).length, (h l).rising, (h l).starts⟩
  · exact h l

theorem keeps_setTrigger (d : Device) (n : Fin 4) (x : Trigger) : d.Keeps { d with triggers := put d.triggers n x } :=
  keeps_of_same rfl rfl rfl rfl rfl rfl

theorem keeps_rise (d : Device) (n : Fin 4) (x : Trigger) : d.Keeps (d.rise n x) := by
  have marked := (keeps_setTrigger d n { x with filtered := true, riseCount := satInc x.riseCount }).trans
    (keeps_markArmed _ n)
  unfold Device.rise
  dsimp only
  split
  · exact marked.trans (keeps_raise ..)
  · exact marked

theorem keeps_fall (d : Device) (n : Fin 4) (x : Trigger) : d.Keeps (d.fall n x) := by
  have counted := keeps_setTrigger d n { x with filtered := false, fallCount := satInc x.fallCount }
  unfold Device.fall
  dsimp only
  split
  · exact counted.trans (keeps_raise ..)
  · exact counted

theorem keeps_tick (d : Device) (n : Fin 4) (high : Bool) : d.Keeps (d.tick n high) := by
  unfold Device.tick
  dsimp only
  split
  · exact (keeps_reach d _).trans (keeps_rise ..)
  · split
    · exact (keeps_reach d _).trans (keeps_fall ..)
    · exact (keeps_reach d _).trans (keeps_setTrigger ..)

theorem keeps_pulseBegin (d : Device) (n : Fin 6) : d.Keeps (d.pulseBegin n) := by
  unfold Device.pulseBegin
  dsimp only
  split
  · exact .refl d
  · split
    · exact .refl d
    · exact keeps_of_same rfl rfl rfl rfl rfl rfl

theorem keeps_pulseEnd (d : Device) (n : Fin 6) : d.Keeps (d.pulseEnd n) := by
  unfold Device.pulseEnd
  dsimp only
  split
  · exact keeps_of_same rfl rfl rfl rfl rfl rfl
  · exact .refl d
  · exact .refl d

theorem keeps_holdoffExpires (d : Device) : d.Keeps d.holdoffExpires := by
  unfold Device.holdoffExpires
  split
  · exact .refl d
  · exact keeps_reach d _

theorem keeps_programExpires (d : Device) : d.Keeps d.programExpires := by
  unfold Device.programExpires
  split
  · exact .refl d
  · rename_i x _
    have programmed : d.Keeps { d.reach x.endsAt with store := { (d.reach x.endsAt).store with
        fields := put (d.reach x.endsAt).store.fields x.field { value := x.value, marked := true }, program := none } } :=
      keeps_of_same rfl rfl rfl rfl rfl rfl
    exact programmed.trans (keeps_handNotice ..)

theorem keeps_popContext (d : Device) : d.Keeps d.popContext := by
  unfold Device.popContext
  split
  · exact .refl d
  · rename_i top rest running
    have stack : d.cue.stack = top :: rest := by
      unfold Cue.runningTop at running
      split at running
      · cases running
      · rename_i t r found
        split at running
        · cases running
          exact found
        · cases running
    split
    · exact keeps_select_sublist (stack ▸ List.sublist_cons_self top rest)
    · exact .refl d

/-- The Notice Queue after its cell is built (R198). -/
theorem keeps_noticeSent (d : Device) : d.Keeps { d with notices := d.notices.sent } :=
  ⟨fun h => ⟨Nat.zero_le _, h.2⟩, fun h => ⟨List.nodup_nil, h.levels, h.slots⟩, fun h => orderly_of_lanes h rfl, id, id, id, id⟩

/-! ## The resets (R192, R194, R201) -/

/-- What is kept holds right after a reset. -/
structure Device.Fresh (d : Device) : Prop where
  sized    : d.sized
  tidy     : d.Tidy
  orderly  : d.Orderly
  distinct : d.intake.distinct
  pool     : d.intake.owes 0

theorem keeps_of_fresh {d e : Device} (h : e.Fresh)
    (memory : Memory.wf d.clips.memory = true → Memory.wf e.clips.memory = true)
    (pages : d.clips.accounted → e.clips.accounted) : d.Keeps e :=
  ⟨fun _ => h.sized, fun _ => h.tidy, fun _ => h.orderly, fun _ => h.distinct, fun _ => h.pool, memory, pages⟩

theorem orderly_of_empty {x : Lane} (schedule : x.schedule = []) (voices : ∀ v, (x.voices.get v).pending = none) :
    x.Orderly := by
  refine ⟨?_, ?_, fun v => .inl (voices v)⟩
  · rw [schedule]; exact Nat.zero_le _
  · rw [schedule]; exact List.Pairwise.nil

theorem pending_reset (cause : Option EndCause) (v : Fin 4) : ((Vector.replicate 4 (Voice.reset cause)).get v).pending = none := by
  rw [get_replicate]; rfl

/-- All the slots empty, the pool is whole. -/
theorem owes_of_empty {k : Intake} (free : k.pool.free = 4096) (empty : ∀ n, (k.slots.get n).queue = []) : k.owes 0 := by
  refine ⟨?_, fun n _ => empty n⟩
  have none : (k.slots.toList.map Slot.held).sum = 0 := by
    rw [List.sum_eq_zero_iff_forall_eq_nat]
    intro m hm
    obtain ⟨x, hx, rfl⟩ := List.mem_map.mp hm
    obtain ⟨i, hi, rfl⟩ := List.getElem_of_mem hx
    have := empty ⟨i, by simpa using hi⟩
    rw [get_eq_getElem] at this
    simp [Slot.held, this]
  omega

theorem fresh_reset (now coldResets : Nat) (trims : Vector Int 8) (store : IdentityStore) (inputs : BitVec 4) :
    (Device.reset now coldResets trims store inputs).Fresh := by
  have slot (n : Fin 16) : (Device.reset now coldResets trims store inputs).slot n = Slot.reset := get_replicate ..
  refine ⟨⟨Nat.zero_le _, Nat.zero_le _, Nat.zero_le _⟩, ⟨List.nodup_nil, List.Pairwise.nil, fun n => ?_⟩, fun l => ?_,
    List.nodup_nil, owes_of_empty rfl fun n => ?_⟩
  · rw [slot]; rfl
  · have lane : (Device.reset now coldResets trims store inputs).lane l = Lane.reset (trims.get l) := by
      simp [Device.lane, Device.reset, get_eq_getElem]
    rw [lane]
    exact orderly_of_empty rfl fun v => pending_reset none v
  · exact congrArg Slot.queue (slot n)

theorem keeps_unitReset (d : Device) (inputs : BitVec 4) : d.Keeps (d.unitReset inputs) := by
  have fresh := fresh_reset d.now d.coldResets (d.lanes.map Lane.trim) d.store inputs
  have flow : Intake.reset.Announces d.intake.unitReset := by
    unfold Intake.unitReset
    split
    · exact announces_queueFlow ..
    · exact ⟨id, rfl, rfl⟩
  refine keeps_of_fresh ⟨fresh.sized, ⟨fresh.tidy.notices, fresh.tidy.levels, ?_⟩, fresh.orderly, flow.distinct fresh.distinct, ?_⟩
    (fun h => ?_) fun h => accounted_unitReset h
  · have slots := fresh.tidy.slots
    unfold Device.slot Device.unitReset
    dsimp only
    rw [flow.slots]
    exact slots
  · have pool := fresh.pool
    unfold Intake.owes Device.unitReset
    dsimp only
    rw [flow.slots, flow.pool]
    exact pool
  · unfold Device.unitReset
    dsimp only
    rw [memory_unitReset]
    exact h

/-- The Stream Intake cleared, before the pool's flow cell (R78, R94). -/
def Intake.emptied (k : Intake) : Intake :=
  { k with slots := k.slots.map Slot.clear, outbox := k.outbox.map FlowEntry.clear, pool := { k.pool with free := 4096, hold := false } }

theorem announces_clear (k : Intake) : k.emptied.Announces k.clear := by
  unfold Intake.clear
  dsimp only
  split
  · exact announces_queueFlow ..
  · exact ⟨id, rfl, rfl⟩

theorem subject_clear (e : FlowEntry) : e.clear.subject = e.subject := by
  unfold FlowEntry.clear
  split
  · rfl
  · rfl

theorem keeps_playbackClear (d : Device) : d.Keeps d.playbackClear := by
  obtain ⟨distinct, slots, pool⟩ := announces_clear d.intake
  have slot (n : Fin 16) : d.playbackClear.slot n = (d.slot n).clear := by
    unfold Device.slot Device.playbackClear
    dsimp only
    rw [slots]
    exact get_map ..
  refine ⟨fun h => ⟨h.1, Nat.zero_le _, h.2.2⟩, fun h => ⟨h.notices, List.Pairwise.nil, fun n => ?_⟩, fun _ l => ?_, fun h => ?_,
    fun _ => ?_, id, id⟩
  · rw [slot, Slot.fits_iff]
    exact ⟨Nat.zero_le _, Nat.zero_le _, List.forall_mem_nil _, List.nodup_nil⟩
  · have lane : d.playbackClear.lane l = (d.lane l).clear := get_map ..
    rw [lane]
    exact orderly_of_empty rfl fun v => pending_reset _ v
  · refine distinct ?_
    have same : (d.intake.outbox.map FlowEntry.clear).map FlowEntry.subject = d.intake.outbox.map FlowEntry.subject := by
      rw [List.map_map]
      exact List.map_congr_left fun e _ => subject_clear e
    unfold Intake.distinct Intake.emptied
    dsimp only
    rw [same]
    exact h
  · refine owes_of_empty ?_ fun n => ?_
    · exact congrArg Pool.free pool
    · exact congrArg Slot.queue (slot n)

theorem keptBy_playbackClear : KeptBy opPlaybackClear := fun _ _ s => keeps_playbackClear s.dev

end Sys2Proof.Machine
end

section
/-!
SUPPORT. Which commands invoke an operation, with its kind byte and its operation; and what every command keeps: of the blocks,
of the port and of the Agent (03 to 09).
-/
namespace Sys2Proof.Machine

/-! ## Operations -/

/-- The operation that a command invokes, with who invokes it and its kind byte (R139, R191). -/
def operationOf : Instr → Option (Via × Byte × Op)
  | .segWrite => some (.request, 0x10, opSegWrite)
  | .segHot via => some (via, 0x11, opSegHot)
  | .segRead => some (.request, 0x12, opSegRead)
  | .voiceStart via => some (via, 0x13, opVoiceStart)
  | .voiceStop via => some (via, 0x14, opVoiceStop)
  | .voiceGain via => some (via, 0x15, opVoiceGain)
  | .voiceStatus => some (.request, 0x16, opVoiceStatus)
  | .laneConfig => some (.request, 0x20, opLaneConfig)
  | .laneArm => some (.request, 0x21, opLaneArm)
  | .laneStart via => some (via, 0x22, opLaneStart)
  | .laneStop via => some (via, 0x23, opLaneStop)
  | .laneFreeze via => some (via, 0x24, opLaneFreeze)
  | .laneResume via => some (via, 0x25, opLaneResume)
  | .laneQuiet => some (.request, 0x26, opLaneQuiet)
  | .laneCompareSet => some (.request, 0x27, opLaneCompareSet)
  | .laneStatus => some (.request, 0x28, opLaneStatus)
  | .domainSet => some (.request, 0x29, opDomainSet)
  | .domainStatus => some (.request, 0x2A, opDomainStatus)
  | .tagWrite => some (.request, 0x30, opTagWrite)
  | .tagRead => some (.request, 0x31, opTagRead)
  | .streamOpen => some (.request, 0x32, opStreamOpen)
  | .streamClose => some (.request, 0x33, opStreamClose)
  | .streamStatus => some (.request, 0x34, opStreamStatus)
  | .poolConfig => some (.request, 0x35, opPoolConfig)
  | .statsRead => some (.request, 0x36, opStatsRead)
  | .clipOpen => some (.request, 0x40, opClipOpen)
  | .clipSeal => some (.request, 0x41, opClipSeal)
  | .clipAbort => some (.request, 0x42, opClipAbort)
  | .clipDelete => some (.request, 0x43, opClipDelete)
  | .clipStatus => some (.request, 0x44, opClipStatus)
  | .clipSpace => some (.request, 0x45, opClipSpace)
  | .mapWrite => some (.request, 0x50, opMapWrite)
  | .mapRead => some (.request, 0x51, opMapRead)
  | .mapArm via => some (via, 0x52, opMapArm)
  | .mapDisarm via => some (via, 0x53, opMapDisarm)
  | .cueThreshold => some (.request, 0x54, opCueThreshold)
  | .listWrite => some (.request, 0x55, opListWrite)
  | .listRead => some (.request, 0x56, opListRead)
  | .cueWrite => some (.request, 0x57, opCueWrite)
  | .cueRead => some (.request, 0x58, opCueRead)
  | .cueRaise via => some (via, 0x59, opCueRaise)
  | .cueAbort => some (.request, 0x5A, opCueAbort)
  | .cueStatus => some (.request, 0x5B, opCueStatus)
  | .trigConfig => some (.request, 0x60, opTrigConfig)
  | .trigStatus => some (.request, 0x61, opTrigStatus)
  | .markerConfig => some (.request, 0x62, opMarkerConfig)
  | .markerSet via => some (via, 0x63, opMarkerSet)
  | .markerStatus => some (.request, 0x64, opMarkerStatus)
  | .meterConfig => some (.request, 0x65, opMeterConfig)
  | .meterStart via => some (via, 0x66, opMeterStart)
  | .meterStop via => some (via, 0x67, opMeterStop)
  | .meterRead => some (.request, 0x68, opMeterRead)
  | .linkStatus => some (.request, 0x70, opLinkStatus)
  | .noticeConfig => some (.request, 0x71, opNoticeConfig)
  | .playbackClear => some (.request, 0x73, opPlaybackClear)
  | .storeProgram => some (.request, 0x74, opStoreProgram)
  | .storeRead => some (.request, 0x75, opStoreRead)
  | .identify => some (.request, 0x76, opIdentify)
  | .nop => some (.action, 0x00, opNop)
  | .wait => some (.action, 0x5E, opWait)
  | .notice => some (.action, 0x5F, opNotice)
  | _ => none

/-- Such a command takes its request or performs its action, and does nothing more. -/
theorem exec_of_operation {c : Instr} {via : Via} {kind : Byte} {op : Op} (h : operationOf c = some (via, kind, op))
    (s : State) : exec c s = .next (viaStep via kind op s) := by
  cases c <;> cases h <;> rfl

theorem kept_some {via : Via} {kind : Byte} {op : Op} (h : KeptBy op) : ∀ o ∈ some (via, kind, op), KeptBy o.2.2 := by
  rintro _ ⟨⟩
  exact h

/-- Every operation keeps what the blocks keep. -/
theorem keptBy_operationOf : ∀ c : Instr, ∀ o ∈ operationOf c, KeptBy o.2.2
  | .segWrite => kept_some keptBy_segWrite
  | .segHot _ => kept_some keptBy_segHot
  | .segRead => kept_some keptBy_segRead
  | .voiceStart _ => kept_some keptBy_voiceStart
  | .voiceStop _ => kept_some keptBy_voiceStop
  | .voiceGain _ => kept_some keptBy_voiceGain
  | .voiceStatus => kept_some keptBy_voiceStatus
  | .laneConfig => kept_some keptBy_laneConfig
  | .laneArm => kept_some keptBy_laneArm
  | .laneStart _ => kept_some keptBy_laneStart
  | .laneStop _ => kept_some keptBy_laneStop
  | .laneFreeze _ => kept_some keptBy_laneFreeze
  | .laneResume _ => kept_some keptBy_laneResume
  | .laneQuiet => kept_some keptBy_laneQuiet
  | .laneCompareSet => kept_some keptBy_laneCompareSet
  | .laneStatus => kept_some keptBy_laneStatus
  | .domainSet => kept_some keptBy_domainSet
  | .domainStatus => kept_some keptBy_domainStatus
  | .tagWrite => kept_some keptBy_tagWrite
  | .tagRead => kept_some keptBy_tagRead
  | .streamOpen => kept_some keptBy_streamOpen
  | .streamClose => kept_some keptBy_streamClose
  | .streamStatus => kept_some keptBy_streamStatus
  | .poolConfig => kept_some keptBy_poolConfig
  | .statsRead => kept_some keptBy_statsRead
  | .clipOpen => kept_some keptBy_clipOpen
  | .clipSeal => kept_some keptBy_clipSeal
  | .clipAbort => kept_some keptBy_clipAbort
  | .clipDelete => kept_some keptBy_clipDelete
  | .clipStatus => kept_some keptBy_clipStatus
  | .clipSpace => kept_some keptBy_clipSpace
  | .mapWrite => kept_some keptBy_mapWrite
  | .mapRead => kept_some keptBy_mapRead
  | .mapArm _ => kept_some keptBy_mapArm
  | .mapDisarm _ => kept_some keptBy_mapDisarm
  | .cueThreshold => kept_some keptBy_cueThreshold
  | .listWrite => kept_some keptBy_listWrite
  | .listRead => kept_some keptBy_listRead
  | .cueWrite => kept_some keptBy_cueWrite
  | .cueRead => kept_some keptBy_cueRead
  | .cueRaise _ => kept_some keptBy_cueRaise
  | .cueAbort => kept_some keptBy_cueAbort
  | .cueStatus => kept_some keptBy_cueStatus
  | .trigConfig => kept_some keptBy_trigConfig
  | .trigStatus => kept_some keptBy_trigStatus
  | .markerConfig => kept_some keptBy_markerConfig
  | .markerSet _ => kept_some keptBy_markerSet
  | .markerStatus => kept_some keptBy_markerStatus
  | .meterConfig => kept_some keptBy_meterConfig
  | .meterStart _ => kept_some keptBy_meterStart
  | .meterStop _ => kept_some keptBy_meterStop
  | .meterRead => kept_some keptBy_meterRead
  | .linkStatus => kept_some keptBy_linkStatus
  | .noticeConfig => kept_some keptBy_noticeConfig
  | .playbackClear => kept_some keptBy_playbackClear
  | .storeProgram => kept_some keptBy_storeProgram
  | .storeRead => kept_some keptBy_storeRead
  | .identify => kept_some keptBy_identify
  | .nop => kept_some keptBy_nop
  | .wait => kept_some keptBy_wait
  | .notice => kept_some keptBy_notice
  | .unitReset | .unknownRequestKind | .contextPop | .blockBoundary _ | .laneStartsAtEdge _ | .frozenEdge _
  | .settleTimerExpiry _ | .triggerTick _ _ | .pulseBegin _ | .pulseEnd _ | .noticeHoldoffExpiry
  | .programTimerExpiry | .coldReset _ _ | .unitResetPerformed _ | .signalPresent _ | .signalAbsent _
  | .alignmentReached _ | .alignmentLost _ | .offerSend _ | .badCell _ _ | .offer _ _ _ _ | .sample _ _ _ _
  | .streamEnd _ _ _ | .clipData _ _ _ _ | .request _ _ _ _ _ | .flowLink _ _ | .chainUpstreamCell _
  | .chainTransmit | .upstreamGrant | .cellSent _ | .decodedSymbol _ _ => fun _ h => nomatch h

/-! ## What a state keeps -/

/-- The chain queues and the alignment counters within their sizes (R180, R181, R170). -/
structure Port.Fits (p : Port) : Prop where
  forward : p.forward.length ≤ 32
  merge   : p.merge.length ≤ 32
  counter : ∀ id, (p.link id).counter ≤ 15

/-- The request queue and the reply queue within their sizes (R188, R190). -/
structure Agent.Fits (a : Agent) : Prop where
  requests : a.requests.length ≤ 16
  replies  : a.replies.length ≤ 8

/-- From `s` to `t` the sizes and accounts are kept, and the queue of commands is untouched. -/
structure State.Keeps (s t : State) : Prop where
  pending : t.pending = s.pending
  dev     : s.dev.Keeps t.dev
  port    : s.port.Fits → t.port.Fits
  agent   : s.agent.Fits → t.agent.Fits

theorem State.Keeps.refl (s : State) : s.Keeps s := ⟨rfl, .refl _, id, id⟩

theorem State.Keeps.trans {a b c : State} (h : a.Keeps b) (g : b.Keeps c) : a.Keeps c :=
  ⟨g.pending.trans h.pending, h.dev.trans g.dev, g.port ∘ h.port, g.agent ∘ h.agent⟩

theorem keeps_dev (s : State) {d : Device} (h : s.dev.Keeps d) : s.Keeps { s with dev := d } := ⟨rfl, h, id, id⟩

theorem keeps_port (s : State) {p : Port} (h : s.port.Fits → p.Fits) : s.Keeps { s with port := p } := ⟨rfl, .refl _, h, id⟩

theorem keeps_agent (s : State) {a : Agent} (h : s.agent.Fits → a.Fits) : s.Keeps { s with agent := a } :=
  ⟨rfl, .refl _, id, h⟩

/-! ### Requests and actions -/

/-- The Agent that took a request has room for its reply (R189, R190). -/
theorem fits_take {a b : Agent} {r : Request} (h : a.take = some (r, b)) (fits : a.Fits) (result : Result) (data : List Byte) :
    (b.reply r result data).Fits := by
  unfold Agent.take at h
  split at h
  · cases h
  · rename_i q rest requests
    split at h
    · rename_i ready
      cases h
      have room : a.replies.length < 8 := by
        unfold Agent.ready at ready
        simp only [Bool.and_eq_true, decide_eq_true_eq] at ready
        exact ready.1
      have held := fits.requests
      rw [requests, List.length_cons] at held
      refine ⟨Nat.le_of_succ_le held, ?_⟩
      unfold Agent.reply
      dsimp only
      rw [List.length_append]
      exact room
    · cases h

theorem keeps_requestStep {op : Op} (h : KeptBy op) (kind : Byte) (s : State) : s.Keeps (requestStep kind op s) := by
  unfold requestStep
  split
  · exact .refl s
  · rename_i r a taken
    split
    · exact ⟨rfl, h .request r.payload { s with agent := a }, id, fun fits => fits_take taken fits ..⟩
    · exact .refl s

theorem stack_of_runningTop {c : Cue} {top : Context} {rest : List Context} (h : c.runningTop = some (top, rest)) :
    c.stack = top :: rest := by
  unfold Cue.runningTop at h
  split at h
  · cases h
  · rename_i t r stack
    split at h
    · cases h
      exact stack
    · cases h

theorem keeps_actionStep {op : Op} (h : KeptBy op) (kind : Byte) (s : State) : s.Keeps (actionStep kind op s) := by
  unfold actionStep
  split
  · exact .refl s
  · rename_i top rest running
    dsimp only
    split
    · have performed := (keeps_stepped (stack_of_runningTop running)).trans
        (h (.action top.source top.reference) (s.dev.cue.actionAt top.list top.index).operands
          { s with dev := s.dev.stepped top rest })
      unfold performAction
      refine keeps_dev s ?_
      split
      · exact performed
      · exact performed.trans (keeps_cueFault ..)
    · exact .refl s

theorem keeps_viaStep {op : Op} (h : KeptBy op) (via : Via) (kind : Byte) (s : State) : s.Keeps (viaStep via kind op s) := by
  cases via
  · exact keeps_requestStep h kind s
  · exact keeps_actionStep h kind s

theorem keeps_unknownKindStep (s : State) : s.Keeps (unknownKindStep s) := by
  unfold unknownKindStep
  split
  · exact .refl s
  · rename_i taken
    split
    · exact .refl s
    · exact keeps_agent s fun fits => fits_take taken fits ..

theorem keeps_unitResetStep (s : State) : s.Keeps (unitResetStep s) := by
  unfold unitResetStep
  split
  · exact .refl s
  · rename_i r a taken
    split
    · refine keeps_agent s fun fits => ?_
      have replied := fits_take taken fits .ok []
      exact ⟨replied.requests, replied.replies⟩
    · exact .refl s

/-! ### The links (R170 to R174) -/

theorem link_setLink_of_ne (s : State) {id j : LinkId} (x : Link) (h : j ≠ id) : (s.setLink id x).link j = s.link j := by
  cases id with
  | bench => cases j with
    | bench => exact absurd rfl h
    | chain => rfl
  | chain => cases j with
    | bench => rfl
    | chain => exact absurd rfl h

@[simp] theorem setLink_forward (s : State) (id : LinkId) (x : Link) : (s.setLink id x).port.forward = s.port.forward := by
  cases id <;> rfl

@[simp] theorem setLink_merge (s : State) (id : LinkId) (x : Link) : (s.setLink id x).port.merge = s.port.merge := by
  cases id <;> rfl

/-- A link written whose alignment counter is in range. -/
theorem keeps_setLink (s : State) (id : LinkId) (x : Link) (h : (s.link id).counter ≤ 15 → x.counter ≤ 15) :
    s.Keeps (s.setLink id x) := by
  refine ⟨rfl, .refl _, fun fits => ⟨?_, ?_, fun j => ?_⟩, fun fits => fits⟩
  · rw [setLink_forward]; exact fits.forward
  · rw [setLink_merge]; exact fits.merge
  · change ((s.setLink id x).link j).counter ≤ 15
    by_cases e : j = id
    · subst e
      rw [link_setLink_same]
      exact h (fits.counter j)
    · rw [link_setLink_of_ne s x e]
      exact fits.counter j

theorem keeps_count (s : State) (id : LinkId) (f : LinkCounters → LinkCounters) : s.Keeps (s.count id f) :=
  keeps_setLink s id _ fun h => h

theorem State.Keeps.count {s t : State} (h : s.Keeps t) (id : LinkId) (f : LinkCounters → LinkCounters) :
    s.Keeps (t.count id f) := h.trans (keeps_count t id f)

/-- A link changed in anything but its alignment counter. -/
theorem keeps_updLink (s : State) (id : LinkId) (f : Link → Link) (h : (f (s.link id)).counter = (s.link id).counter) :
    s.Keeps (s.updLink id f) := keeps_setLink s id _ fun low => h ▸ low

/-- The port changed in its flags, its flow place, its mark or its counters. -/
theorem keeps_flags (s : State) {p : Port} (bench : p.bench = s.port.bench) (chain : p.chain = s.port.chain)
    (forward : p.forward.length ≤ s.port.forward.length) (merge : p.merge.length ≤ s.port.merge.length) :
    s.Keeps { s with port := p } :=
  keeps_port s fun fits => ⟨Nat.le_trans forward fits.forward, Nat.le_trans merge fits.merge, fun
    | .bench => by rw [Port.link, bench]; exact fits.counter .bench
    | .chain => by rw [Port.link, chain]; exact fits.counter .chain⟩

theorem keeps_resetSent (s : State) : s.Keeps { s with agent := { s.agent with resetSent := true } } :=
  keeps_agent s fun fits => ⟨fits.requests, fits.replies⟩

theorem keeps_cutOff (s : State) (id : LinkId) : s.Keeps (s.cutOff id) := by
  unfold State.cutOff
  split
  · exact .refl s
  · have dropped := (keeps_count s id LinkCounters.addAbort).trans (keeps_updLink _ id (fun y => { y with sending := none }) rfl)
    dsimp only
    split
    · exact dropped.trans (keeps_resetSent _)
    · exact dropped

theorem keeps_benchLeavesUp (s : State) : s.Keeps s.benchLeavesUp :=
  (keeps_cutOff s .bench).trans (keeps_flags _ rfl rfl (Nat.le_refl _) (Nat.le_refl _))

theorem keeps_chainLeavesUp (s : State) : s.Keeps s.chainLeavesUp :=
  (keeps_cutOff s .chain).trans (keeps_flags _ rfl rfl (Nat.zero_le _) (Nat.zero_le _))

theorem keeps_leaves (s : State) (id : LinkId) : s.Keeps (s.leaves id) := by
  have left (t : State) : t.Keeps (if (t.link id).assembles then
      (t.count id LinkCounters.addLoss).updLink id fun x => { x with receiving := none, sending := none } else t) := by
    split
    · exact (keeps_count t id LinkCounters.addLoss).trans (keeps_updLink _ id _ rfl)
    · exact .refl t
  unfold State.leaves
  refine State.Keeps.trans ?_ (left _)
  split
  · exact keeps_benchLeavesUp s
  · exact keeps_chainLeavesUp s
  · exact .refl s

theorem keeps_restart (s : State) (id : LinkId) (state : LinkState) : s.Keeps (s.updLink id (·.restart state)) :=
  keeps_setLink s id _ fun _ => Nat.zero_le _

theorem keeps_signalPresent (s : State) (id : LinkId) : s.Keeps (s.signalPresent id) := by
  unfold State.signalPresent
  split
  · exact keeps_restart ..
  · exact .refl s

theorem keeps_signalAbsent (s : State) (id : LinkId) : s.Keeps (s.signalAbsent id) := by
  unfold State.signalAbsent
  split
  · exact .refl s
  · exact (keeps_leaves s id).trans (keeps_restart ..)

theorem keeps_alignmentReached (s : State) (id : LinkId) : s.Keeps (s.alignmentReached id) := by
  unfold State.alignmentReached
  split
  · exact keeps_setLink s id _ fun _ => Nat.le_refl 15
  · exact .refl s

theorem keeps_alignmentLost (s : State) (id : LinkId) : s.Keeps (s.alignmentLost id) := by
  unfold State.alignmentLost
  split
  · exact (keeps_leaves s id).trans (keeps_restart ..)
  · exact .refl s

theorem keeps_offerSend (s : State) (id : LinkId) : s.Keeps (s.offerSend id) := by
  unfold State.offerSend
  dsimp only
  split
  · exact (keeps_dev s (keeps_reach s.dev (s.link id).offerAt)).trans (keeps_setLink _ id _ fun h => h)
  · exact .refl s

theorem keeps_announced (s : State) : s.Keeps s.announce := keeps_dev s (keeps_announce s.dev)

theorem keeps_becomesUp (s : State) (id : LinkId) (rate : Nat) : s.Keeps (s.becomesUp id rate) := by
  have up := (keeps_count s id LinkCounters.addUp).trans (keeps_updLink _ id (fun x =>
    { x with state := .up, rate := some (min 2 rate), answerDue := true }) rfl)
  cases id
  · exact up.trans (keeps_announced _)
  · exact up

theorem keeps_upAnew (s : State) (id : LinkId) : s.Keeps (s.upAnew id) := by
  have due := keeps_updLink s id (fun x => { x with answerDue := true }) rfl
  cases id
  · refine due.trans (State.Keeps.trans ?_ (keeps_announced _))
    refine State.Keeps.count ?_ .bench LinkCounters.addUp
    exact keeps_flags _ rfl rfl (Nat.le_refl _) (Nat.le_refl _)
  · exact due.trans (keeps_flags _ rfl rfl (Nat.le_refl _) (Nat.le_refl _))

theorem keeps_takeOffer (s : State) (id : LinkId) (c : Cell) : s.Keeps (s.takeOffer id c) := by
  unfold State.takeOffer
  dsimp only
  split
  · exact keeps_count ..
  · have seen := keeps_updLink s id (fun x =>
      { x with peerServer := some (c.wordA.getLsbD 8), peerAddr := some (addressOf c.addr), seen := true }) rfl
    split
    · exact seen.trans (keeps_becomesUp ..)
    · split
      · exact seen.trans (keeps_upAnew ..)
      · exact seen

/-! ### Cells taken (R178 to R183) -/

theorem keeps_forwardCell (s : State) (c : Cell) : s.Keeps (s.forwardCell c) := by
  unfold State.forwardCell
  dsimp only
  split
  · rename_i room
    refine keeps_port s fun fits => ⟨?_, fits.merge, fun | .bench => fits.counter .bench | .chain => fits.counter .chain⟩
    rw [List.length_append]
    exact room.2
  · exact keeps_flags s rfl rfl (Nat.le_refl _) (Nat.le_refl _)

theorem keeps_arrive (s : State) (r : Request) : s.Keeps { s with agent := s.agent.arrive r } := by
  refine keeps_agent s fun fits => ?_
  unfold Agent.arrive
  split
  · rename_i room
    refine ⟨?_, fits.replies⟩
    rw [List.length_append]
    exact room
  · exact ⟨fits.requests, fits.replies⟩

theorem keeps_ownCell (s : State) (c : Cell) : s.Keeps (s.ownCell c) := by
  unfold State.ownCell
  split
  · exact keeps_dev s (keeps_takeSample ..)
  · split
    · exact keeps_dev s (keeps_takeStreamEnd ..)
    · split
      · exact keeps_dev s (keeps_takeClipData ..)
      · exact keeps_arrive ..

theorem keeps_addressed (s : State) (c : Cell) : s.Keeps (s.addressed c) := by
  unfold State.addressed
  split
  · exact keeps_ownCell s c
  · split
    · exact (keeps_ownCell s c).trans (keeps_forwardCell ..)
    · exact keeps_forwardCell s c

theorem keeps_holdTest {s : State} {p : Port} (h : s.Keeps { s with port := p }) : s.Keeps { s with port := p.holdTest } := by
  unfold Port.holdTest
  split
  · exact h.trans (keeps_flags _ rfl rfl (Nat.le_refl _) (Nat.le_refl _))
  · exact h

theorem keeps_releaseTest {s : State} {p : Port} (h : s.Keeps { s with port := p }) :
    s.Keeps { s with port := p.releaseTest } := by
  unfold Port.releaseTest
  split
  · exact h.trans (keeps_flags _ rfl rfl (Nat.le_refl _) (Nat.le_refl _))
  · exact h

theorem keeps_mergeCell (s : State) (c : Cell) : s.Keeps (s.mergeCell c) := by
  unfold State.mergeCell
  dsimp only
  split
  · rename_i room
    refine keeps_holdTest (keeps_port s fun fits => ⟨fits.forward, ?_, fun
      | .bench => fits.counter .bench
      | .chain => fits.counter .chain⟩)
    rw [List.length_append]
    exact room
  · exact keeps_flags s rfl rfl (Nat.le_refl _) (Nat.le_refl _)

theorem keeps_takeCellAt (s : State) (id : LinkId) (c : Cell) : s.Keeps (s.takeCell id c) := by
  unfold State.takeCell
  split
  · exact keeps_takeOffer ..
  · cases id
    · dsimp only
      split
      · exact keeps_flags s rfl rfl (Nat.le_refl _) (Nat.le_refl _)
      · exact keeps_addressed s c
    · exact keeps_mergeCell s c

theorem keeps_receiveCell (s : State) (id : LinkId) (c : Cell) : s.Keeps (s.receiveCell id c) := by
  unfold State.receiveCell
  split
  · split
    · exact keeps_count ..
    · exact (keeps_count s id LinkCounters.addIn).trans (keeps_takeCellAt ..)
  · exact .refl s

theorem keeps_closeCell (s : State) (id : LinkId) (bytes : List Byte) : s.Keeps (s.closeCell id bytes) := by
  unfold State.closeCell
  split
  · exact keeps_count ..
  · split
    · exact keeps_count ..
    · exact keeps_receiveCell ..

/-! ### The transmitters (R180, R184, R186) -/

theorem State.Keeps.send {s t : State} (h : s.Keeps t) (id : LinkId) (c : Cell) (resetReply : Bool) :
    s.Keeps (t.send id c resetReply) := h.trans (keeps_updLink t id _ rfl)

theorem keeps_sendAnswer (s : State) (id : LinkId) : s.Keeps (s.sendAnswer id) :=
  ((State.Keeps.refl s).send id _ _).trans (keeps_updLink _ id _ rfl)

theorem keeps_chainTransmit (s : State) : s.Keeps s.chainTransmit := by
  unfold State.chainTransmit
  dsimp only
  split
  · split
    · exact keeps_sendAnswer ..
    · split
      · refine State.Keeps.send ?_ _ _ _
        exact keeps_flags s rfl rfl (Nat.le_refl _) (Nat.le_refl _)
      · split
        · exact .refl s
        · rename_i forward
          refine State.Keeps.send ?_ _ _ _
          refine keeps_flags s rfl rfl ?_ (Nat.le_refl _)
          rw [forward]
          exact Nat.le_succ _
  · exact .refl s

theorem keeps_grant (s : State) (k : Class) : s.Keeps (s.grant k) := by
  have marked : s.Keeps { s with port := { s.port with mark := k } } :=
    keeps_flags s rfl rfl (Nat.le_refl _) (Nat.le_refl _)
  unfold State.grant
  dsimp only
  split
  · split
    · exact marked
    · rename_i replies
      refine State.Keeps.send ?_ _ _ _
      refine marked.trans (keeps_agent _ fun fits => ⟨fits.requests, ?_⟩)
      have held := fits.replies
      dsimp only at held
      rw [replies] at held
      exact Nat.le_of_succ_le held
  · refine State.Keeps.send ?_ _ _ _
    exact marked.trans (keeps_dev _ (keeps_noticeSent s.dev))
  · split
    · exact marked
    · rename_i merge
      refine State.Keeps.send ?_ _ _ _
      refine marked.trans (keeps_releaseTest (keeps_flags _ rfl rfl (Nat.le_refl _) ?_))
      dsimp only
      rw [merge]
      exact Nat.le_succ _

theorem keeps_upstreamGrant (s : State) : s.Keeps s.upstreamGrant := by
  unfold State.upstreamGrant
  split
  · split
    · exact keeps_sendAnswer ..
    · split
      · rename_i outbox
        refine State.Keeps.send ?_ _ _ _
        exact keeps_dev s (keeps_outbox outbox)
      · split
        · exact .refl s
        · split
          · exact .refl s
          · exact keeps_grant ..
  · exact .refl s

theorem keeps_cellSent (s : State) (id : LinkId) : s.Keeps (s.cellSent id) := by
  unfold State.cellSent
  split
  · exact .refl s
  · have sent := (keeps_count s id LinkCounters.addOut).trans (keeps_updLink _ id (fun y => { y with sending := none }) rfl)
    dsimp only
    split
    · exact sent.trans (keeps_resetSent _)
    · exact sent

/-! ### Symbols (R170, R175) -/

theorem keeps_setReceiving (s : State) (id : LinkId) (bytes : Option (List Byte)) : s.Keeps (s.setReceiving id bytes) :=
  keeps_updLink s id _ rfl

theorem keeps_discard (s : State) (id : LinkId) (f : LinkCounters → LinkCounters) : s.Keeps (s.discard id f) :=
  (keeps_count s id f).trans (keeps_setReceiving ..)

theorem keeps_symbolOutside (s : State) (id : LinkId) (x : Symbol) : s.Keeps (s.symbolOutside id x) := by
  cases x with
  | start => exact keeps_setReceiving ..
  | stop => exact keeps_count ..
  | data _ => exact .refl s
  | idle => exact .refl s
  | codeError => exact .refl s

theorem keeps_symbolInside (s : State) (id : LinkId) (bytes : List Byte) (x : Symbol) :
    s.Keeps (s.symbolInside id bytes x) := by
  cases x with
  | start => exact (keeps_count s id LinkCounters.addFrameErr).trans (keeps_setReceiving ..)
  | stop => exact (keeps_setReceiving s id none).trans (keeps_closeCell ..)
  | idle => exact keeps_discard ..
  | codeError => exact keeps_discard ..
  | data b =>
    unfold State.symbolInside
    dsimp only
    split
    · exact keeps_discard ..
    · exact keeps_setReceiving ..

theorem keeps_assemble (s : State) (id : LinkId) (x : Symbol) : s.Keeps (s.assemble id x) := by
  unfold State.assemble
  split
  · exact keeps_symbolOutside ..
  · exact keeps_symbolInside ..

/-- The alignment counter stays within 15 (R170). -/
theorem alignStep_le {n : Nat} (h : n ≤ 15) (x : Symbol) : alignStep n x ≤ 15 := by
  unfold alignStep
  split
  · omega
  · exact Nat.min_le_left ..

theorem keeps_alignStep (s : State) (id : LinkId) (x : Symbol) :
    s.Keeps (s.setLink id { s.link id with counter := alignStep (s.link id).counter x }) :=
  keeps_setLink s id _ fun h => alignStep_le h x

theorem keeps_withSymbol (s : State) (id : LinkId) (x : Symbol) {act : State → State} (h : ∀ t : State, t.Keeps (act t)) :
    s.Keeps (s.withSymbol id x act) := by
  have acted := (keeps_alignStep s id x).trans (h _)
  rw [withSymbol_eq]
  dsimp only
  split
  · exact acted.trans (keeps_alignmentLost ..)
  · exact acted

theorem keeps_decodedSymbol (s : State) (id : LinkId) (x : Symbol) : s.Keeps (s.decodedSymbol id x) := by
  unfold State.decodedSymbol
  split
  · exact .refl s
  · dsimp only
    split
    · exact (keeps_alignStep s id x).trans (keeps_alignmentReached ..)
    · exact keeps_alignStep s id x
  · exact keeps_withSymbol s id x fun t => keeps_assemble t id x
  · exact keeps_withSymbol s id x fun t => keeps_assemble t id x

theorem keeps_badCell (s : State) (id : LinkId) (bad : BadCell) : s.Keeps (s.badCell id bad) := by
  unfold State.badCell
  split
  · cases bad with
    | startInside => exact keeps_symbolInside ..
    | idleInside => exact keeps_symbolInside ..
    | endOutside => exact keeps_symbolOutside ..
    | codeErrorInside => exact keeps_withSymbol s id .codeError fun t => keeps_symbolInside t id [] .codeError
    | tooLong => exact keeps_discard ..
    | closed bytes =>
      dsimp only
      split
      · exact .refl s
      · exact keeps_discard ..
  · exact .refl s

/-! ### The resets (R192, R201) -/

theorem fits_portReset (address : Option (Fin 15)) (origin : Origin) : (Port.reset address origin).Fits :=
  ⟨Nat.zero_le _, Nat.zero_le _, fun | .bench => Nat.zero_le _ | .chain => Nat.zero_le _⟩

theorem keeps_coldReset (s : State) (straps inputs : BitVec 4) : s.Keeps (s.coldReset straps inputs) :=
  ⟨rfl, keeps_of_fresh (fresh_reset ..) (fun _ => rfl) (fun _ => accounted_reset), fun _ => fits_portReset ..,
    fun _ => ⟨Nat.zero_le _, Nat.zero_le _⟩⟩

theorem keeps_performUnitReset (s : State) (inputs : BitVec 4) : s.Keeps (s.performUnitReset inputs) := by
  have reset (t : State) : t.Keeps
      { t with dev := t.dev.unitReset inputs, port := t.port.unitReset, agent := t.agent.unitReset } :=
    ⟨rfl, keeps_unitReset t.dev inputs, fun fits => ⟨Nat.zero_le _, Nat.zero_le _, fun
      | .bench => fits.counter .bench
      | .chain => fits.counter .chain⟩, fun fits => ⟨Nat.zero_le _, fits.replies⟩⟩
  unfold State.performUnitReset
  dsimp only
  refine State.Keeps.trans ?_ (reset _)
  split
  · exact .refl s
  · exact keeps_cellSent s .bench

/-! ## Every command -/

/-- Every command goes on, and keeps what is kept. -/
theorem exec_keeps (c : Instr) (s : State) : ∃ t, exec c s = .next t ∧ s.Keeps t := by
  cases found : operationOf c with
  | some o =>
    obtain ⟨via, kind, op⟩ := o
    exact ⟨_, exec_of_operation found s, keeps_viaStep (keptBy_operationOf c _ found) via kind s⟩
  | none =>
    cases c with
    | unitReset => exact ⟨_, rfl, keeps_unitResetStep s⟩
    | unknownRequestKind => exact ⟨_, rfl, keeps_unknownKindStep s⟩
    | contextPop => exact ⟨_, rfl, keeps_dev s (keeps_popContext s.dev)⟩
    | blockBoundary l => exact ⟨_, rfl, keeps_dev s (keeps_blockBoundary s.dev l)⟩
    | laneStartsAtEdge l => exact ⟨_, rfl, keeps_dev s (keeps_startAtEdge s.dev l)⟩
    | frozenEdge l => exact ⟨_, rfl, keeps_dev s (keeps_frozenEdge s.dev l)⟩
    | settleTimerExpiry i => exact ⟨_, rfl, keeps_dev s (keeps_settleExpires s.dev i)⟩
    | triggerTick n high => exact ⟨_, rfl, keeps_dev s (keeps_tick s.dev n high)⟩
    | pulseBegin n => exact ⟨_, rfl, keeps_dev s (keeps_pulseBegin s.dev n)⟩
    | pulseEnd n => exact ⟨_, rfl, keeps_dev s (keeps_pulseEnd s.dev n)⟩
    | noticeHoldoffExpiry => exact ⟨_, rfl, keeps_dev s (keeps_holdoffExpires s.dev)⟩
    | programTimerExpiry => exact ⟨_, rfl, keeps_dev s (keeps_programExpires s.dev)⟩
    | coldReset straps inputs => exact ⟨_, rfl, keeps_coldReset s straps inputs⟩
    | unitResetPerformed inputs =>
      refine ⟨_, rfl, ?_⟩
      split
      · exact keeps_performUnitReset s inputs
      · exact .refl s
    | signalPresent id => exact ⟨_, rfl, keeps_signalPresent s id⟩
    | signalAbsent id => exact ⟨_, rfl, keeps_signalAbsent s id⟩
    | alignmentReached id => exact ⟨_, rfl, keeps_alignmentReached s id⟩
    | alignmentLost id => exact ⟨_, rfl, keeps_alignmentLost s id⟩
    | offerSend id => exact ⟨_, rfl, keeps_offerSend s id⟩
    | badCell id bad => exact ⟨_, rfl, keeps_badCell s id bad⟩
    | offer id addr wordA wordB => exact ⟨_, rfl, keeps_receiveCell s id _⟩
    | sample addr tag q payload => exact ⟨_, rfl, keeps_receiveCell s .bench _⟩
    | streamEnd addr tag final => exact ⟨_, rfl, keeps_receiveCell s .bench _⟩
    | clipData addr wordA index payload => exact ⟨_, rfl, keeps_receiveCell s .bench _⟩
    | request addr tag kind wordB payload => exact ⟨_, rfl, keeps_receiveCell s .bench _⟩
    | flowLink addr wordB => exact ⟨_, rfl, keeps_receiveCell s .bench _⟩
    | chainUpstreamCell cell => exact ⟨_, rfl, keeps_receiveCell s .chain cell⟩
    | chainTransmit => exact ⟨_, rfl, keeps_chainTransmit s⟩
    | upstreamGrant => exact ⟨_, rfl, keeps_upstreamGrant s⟩
    | cellSent id => exact ⟨_, rfl, keeps_cellSent s id⟩
    | decodedSymbol id x => exact ⟨_, rfl, keeps_decodedSymbol s id x⟩
    | _ => exact nomatch found

theorem keeps_idle (s : State) : s.Keeps s.idle := keeps_dev s (keeps_reach s.dev _)

/-- Every step keeps what is kept of the blocks, the port and the Agent; it may take a command from the queue. -/
theorem step_keeps {s t : State} (h : step s = .next t) : ∃ rest, ({ s with pending := rest } : State).Keeps t := by
  unfold step at h
  split at h
  · cases h
    exact ⟨s.pending, keeps_idle s⟩
  · rename_i c rest _
    obtain ⟨u, out, kept⟩ := exec_keeps c { s with pending := rest }
    rw [out] at h
    cases h
    exact ⟨rest, kept⟩

end Sys2Proof.Machine
end

section
/-!
The statements about every command: that each goes on, that each step keeps the sizes and the accounts, that a blocked Agent takes
no request, and that a short or unknown request is refused.
-/
namespace Sys2Proof.Machine

/-! ## The sizes (R40, R69, R81, R97, R128, R132, R170, R180, R181, R188, R190, R195, R196) -/

theorem all_toList_iff {α : Type} {n : Nat} (v : Vector α n) (p : α → Bool) :
    v.toList.all p = true ↔ ∀ i : Fin n, p (v.get i) = true := by
  rw [List.all_eq_true]
  constructor
  · intro h i
    exact h _ (by rw [get_eq_getElem, Vector.mem_toList_iff]; exact Vector.getElem_mem i.isLt)
  · intro h x hx
    obtain ⟨i, hi, rfl⟩ := List.getElem_of_mem hx
    exact h ⟨i, by simpa using hi⟩

theorem fits_port_iff (p : Port) : p.Fits ↔
    p.forward.length ≤ 32 ∧ p.merge.length ≤ 32 ∧ p.bench.counter ≤ 15 ∧ p.chain.counter ≤ 15 :=
  ⟨fun h => ⟨h.forward, h.merge, h.counter .bench, h.counter .chain⟩,
    fun ⟨forward, merge, bench, chain⟩ => ⟨forward, merge, fun | .bench => bench | .chain => chain⟩⟩

/-- The sizes that the statement gives are those of the blocks, of the port and of the Agent. -/
theorem bounded_iff (s : State) : s.bounded = true ↔
    s.dev.sized ∧ s.dev.Tidy ∧ s.dev.Orderly ∧ s.dev.intake.distinct ∧ s.port.Fits ∧ s.agent.Fits := by
  unfold State.bounded
  simp only [Bool.and_eq_true, decide_eq_true_eq, all_toList_iff, Lane.scheduled_iff, fits_port_iff]
  constructor
  · rintro ⟨⟨⟨⟨⟨⟨⟨⟨⟨⟨⟨⟨⟨requests, replies⟩, notices⟩, kinds⟩, forward⟩, merge⟩, stack⟩, levels⟩, threshold⟩, bench⟩, chain⟩, outbox⟩,
      lanes⟩, slots⟩
    exact ⟨⟨notices, stack, threshold⟩, ⟨kinds, levels, slots⟩, lanes, outbox, ⟨forward, merge, bench, chain⟩,
      ⟨requests, replies⟩⟩
  · rintro ⟨⟨notices, stack, threshold⟩, ⟨kinds, levels, slots⟩, lanes, outbox, ⟨forward, merge, bench, chain⟩,
      ⟨requests, replies⟩⟩
    exact ⟨⟨⟨⟨⟨⟨⟨⟨⟨⟨⟨⟨⟨requests, replies⟩, notices⟩, kinds⟩, forward⟩, merge⟩, stack⟩, levels⟩, threshold⟩, bench⟩, chain⟩, outbox⟩,
      lanes⟩, slots⟩

/-- Settles O57: each command keeps the sizes of the blocks, of the port and of the Agent (`exec_keeps`). -/
theorem everyStepKeepsTheSizes : Obligations.EveryStepKeepsTheSizes := by
  unfold Obligations.EveryStepKeepsTheSizes
  intro s t bounded stepped
  obtain ⟨rest, kept⟩ := step_keeps stepped
  obtain ⟨sized, tidy, orderly, distinct, port, agent⟩ := (bounded_iff s).mp bounded
  exact (bounded_iff t).mpr ⟨kept.dev.sized sized, kept.dev.tidy tidy, kept.dev.orderly orderly, kept.dev.distinct distinct,
    kept.port port, kept.agent agent⟩

/-- Settles O58: each command keeps the form of the bytes and the account of the pages (`exec_keeps`). -/
theorem everyStepAccountsForThePages : Obligations.EveryStepAccountsForThePages := by
  unfold Obligations.EveryStepAccountsForThePages
  intro s t stepped
  obtain ⟨rest, kept⟩ := step_keeps stepped
  exact ⟨kept.dev.memory, kept.dev.pages⟩

/-- Settles O59: each command keeps the account of the buffers (`exec_keeps`). -/
theorem everyStepAccountsForTheBuffers : Obligations.EveryStepAccountsForTheBuffers := by
  unfold Obligations.EveryStepAccountsForTheBuffers
  intro s t accounted stepped
  obtain ⟨rest, kept⟩ := step_keeps stepped
  exact (accounted_iff_owes _).mpr (kept.dev.pool ((accounted_iff_owes _).mp accounted))

/-- Settles O60: the blocks, the port and the Agent are within their sizes right after a reset. -/
theorem resetMeetsWhatStepsKeep : Obligations.ResetMeetsWhatStepsKeep := by
  unfold Obligations.ResetMeetsWhatStepsKeep
  obtain ⟨sized, tidy, orderly, distinct, pool⟩ := fresh_reset 0 0 (Vector.replicate 8 0) IdentityStore.blank 0
  refine ⟨(bounded_iff _).mpr ⟨sized, tidy, orderly, distinct, fits_portReset .., ⟨Nat.zero_le _, Nat.zero_le _⟩⟩, rfl,
    accounted_reset, (accounted_iff_owes _).mpr pool⟩

/-! ## The queue of commands (log entry 2) -/

/-- Settles O1: a step runs the command at the front on the rest of the queue. -/
theorem stepRunsTheFrontCommand : Obligations.StepRunsTheFrontCommand := by
  unfold Obligations.StepRunsTheFrontCommand
  intro c rest s
  rfl

/-- A cycle of the reference clock is 125 units (log entry 3). -/
theorem idle_eq (s : State) : s.idle = { s with dev := { s.dev with now := s.dev.now + 125 } } := by
  unfold State.idle Device.reach
  rw [Nat.max_eq_right (Nat.le_add_right ..)]
  rfl

theorem step_of_empty {s : State} (h : s.pending = []) : step s = .next s.idle := by
  unfold step
  rw [h]

/-- Settles O2: every command goes on and leaves the queue (`exec_keeps`); an idle step lets one cycle pass. -/
theorem everyStepGoesOn : Obligations.EveryStepGoesOn := by
  unfold Obligations.EveryStepGoesOn
  refine ⟨fun c s => ?_, fun s empty => ?_⟩
  · obtain ⟨t, out, kept⟩ := exec_keeps c s
    exact ⟨t, out, kept.pending⟩
  · rw [step_of_empty empty, idle_eq]

/-! ## Requests (R189, R209) -/

/-- A command that takes a request invokes its operation by the request, or is one of the two that invoke none. -/
theorem asks_of_takesRequest : ∀ {c : Instr}, takesRequest c = true →
    (∃ kind op, operationOf c = some (.request, kind, op)) ∨ c = .unitReset ∨ c = .unknownRequestKind
  | .segHot via, h | .voiceStart via, h | .voiceStop via, h | .voiceGain via, h | .laneStart via, h | .laneStop via, h
  | .laneFreeze via, h | .laneResume via, h | .mapArm via, h | .mapDisarm via, h | .cueRaise via, h | .markerSet via, h
  | .meterStart via, h | .meterStop via, h => by
    obtain rfl : via = .request := of_decide_eq_true h
    exact .inl ⟨_, _, rfl⟩
  | .unitReset, _ => .inr (.inl rfl)
  | .unknownRequestKind, _ => .inr (.inr rfl)
  | .segWrite, _ | .segRead, _ | .voiceStatus, _ | .laneConfig, _ | .laneArm, _ | .laneQuiet, _ | .laneCompareSet, _
  | .laneStatus, _ | .domainSet, _ | .domainStatus, _ | .tagWrite, _ | .tagRead, _ | .streamOpen, _ | .streamClose, _
  | .streamStatus, _ | .poolConfig, _ | .statsRead, _ | .clipOpen, _ | .clipSeal, _ | .clipAbort, _ | .clipDelete, _
  | .clipStatus, _ | .clipSpace, _ | .mapWrite, _ | .mapRead, _ | .cueThreshold, _ | .listWrite, _ | .listRead, _
  | .cueWrite, _ | .cueRead, _ | .cueAbort, _ | .cueStatus, _ | .trigConfig, _ | .trigStatus, _ | .markerConfig, _
  | .markerStatus, _ | .meterConfig, _ | .meterRead, _ | .linkStatus, _ | .noticeConfig, _ | .playbackClear, _
  | .storeProgram, _ | .storeRead, _ | .identify, _ => .inl ⟨_, _, rfl⟩

/-- Settles O3: each command that takes a request asks the Agent for it, which gives none (`take_none`). -/
theorem agentTakesNoRequestWhileBlocked : Obligations.AgentTakesNoRequestWhileBlocked := by
  unfold Obligations.AgentTakesNoRequestWhileBlocked
  intro c s takes blocked
  have none_taken := take_none blocked
  obtain ⟨kind, op, found⟩ | rfl | rfl := asks_of_takesRequest takes
  · rw [exec_of_operation found]
    exact congrArg _ (requestStep_of_blocked none_taken)
  · have same : unitResetStep s = s := by unfold unitResetStep; rw [none_taken]
    exact congrArg _ same
  · have same : unknownKindStep s = s := by unfold unknownKindStep; rw [none_taken]
    exact congrArg _ same

/-- A row of the layouts: the command invokes by the request an operation that refuses a shorter payload (R209). -/
def RefusesShort (row : Instr × Byte × Nat) : Prop :=
  ∃ op : Op, operationOf row.1 = some (.request, row.2.1, op) ∧
    ∀ c p s, p.length < row.2.2 → op c p s = refuse .badField s

/-- Every layout's operation checks the length first: by `needs`, or by its own first check as CUE_WRITE does. -/
theorem layouts_refuseShort : ∀ row ∈ layoutLengths, RefusesShort row := by
  have cueWrite : RefusesShort (.cueWrite, 0x57, 20) := ⟨_, rfl, fun _ _ _ short => if_pos (.inl short)⟩
  unfold layoutLengths
  repeat' refine List.forall_mem_cons.mpr ⟨?_, ?_⟩
  any_goals exact List.forall_mem_nil _
  any_goals exact cueWrite
  all_goals exact ⟨_, rfl, fun _ _ _ short => if_pos short⟩

/-- A request of a kind that names none is answered BAD_KIND (R189, R209). -/
theorem unknownKindStep_asked {s : State} {kind : Byte} {p : List Byte} (h : asked .request kind s p = true)
    (unknown : kind ∉ requestKinds) : unknownKindStep s = concluded .request s s.dev .badKind [] := by
  obtain ⟨ready, r, rest, requests, rfl, -⟩ := asked_request h
  simp [unknownKindStep, Agent.take, requests, ready, unknown, concluded, Agent.reply, replyOf]

/-- Settles O4: a short payload fails its operation's first check, and an unknown kind is answered by the Agent. -/
theorem unknownAndShortRequestsAreRefused : Obligations.UnknownAndShortRequestsAreRefused := by
  unfold Obligations.UnknownAndShortRequestsAreRefused
  refine ⟨fun row s p mem ask short => ?_, fun s kind p ask unknown => ?_⟩
  · obtain ⟨op, found, refuses⟩ := layouts_refuseShort row mem
    rw [exec_of_operation found, viaStep_asked op ask, refuses _ _ _ short, refuse_dev, refuse_result, refuse_data,
      begun_request_dev]
  · exact congrArg _ (unknownKindStep_asked ask unknown)

end Sys2Proof.Machine
end

section
/-!
SUPPORT. A command whose operation finds its operands: what it concludes with, by what the operation gives.
-/
namespace Sys2Proof.Machine

section
variable {c : Instr} {via : Via} {kind : Byte} {op : Op} {s : State} {p : List Byte}

/-- The command concludes with what its operation gives on the state it finds. -/
theorem exec_asked (found : operationOf c = some (via, kind, op)) (ask : asked via kind s p = true) {o : OpOut}
    (out : op (callerOf via s) p (begun via s) = o) : exec c s = .next (concluded via s o.dev o.result o.data) := by
  rw [exec_of_operation found, viaStep_asked op ask, out]

theorem exec_refuses (found : operationOf c = some (via, kind, op)) (ask : asked via kind s p = true) {r : Result}
    (out : op (callerOf via s) p (begun via s) = refuse r (begun via s)) :
    exec c s = .next (concluded via s (begun via s).dev r []) := exec_asked found ask out

theorem exec_does (found : operationOf c = some (via, kind, op)) (ask : asked via kind s p = true) {d : Device}
    (out : op (callerOf via s) p (begun via s) = done d) : exec c s = .next (concluded via s d .ok []) :=
  exec_asked found ask out

/-- The Agent's taking a request changes no block, so a refused request changes none. -/
theorem request_refuses (found : operationOf c = some (.request, kind, op)) (ask : asked .request kind s p = true) {r : Result}
    (out : op .request p (begun .request s) = refuse r (begun .request s)) :
    exec c s = .next (concluded .request s s.dev r []) := by
  rw [exec_refuses found ask out, begun_request_dev]

/-- A read answers with what the blocks hold: `items` of the blocks that the operation finds are `held` of those that stand. -/
theorem request_answers (found : operationOf c = some (.request, kind, op)) (ask : asked .request kind s p = true)
    {items held : List Item} (out : op .request p (begun .request s) = answer items (begun .request s)) (same : items = held) :
    exec c s = .next (concluded .request s s.dev .ok (pack held)) := by
  rw [exec_asked found ask out, answer_dev, answer_result, answer_data, begun_request_dev, same]

/-- A command that goes on to one of two states. -/
theorem exec_ite {P : Prop} [Decidable P] {t u : State} (yes : P → exec c s = .next t) (no : ¬ P → exec c s = .next u) :
    exec c s = .next (if P then t else u) := by
  split
  · exact yes ‹P›
  · exact no ‹¬ P›

end

/-! ## Operations on one lane and on one source: the index -/

section
variable {c : Caller} {p : List Byte} {s : State} (long : 1 ≤ p.length)
include long

theorem onLane_of_no_lane {f : State → Fin 8 → OpOut} (h : 7 < u8 p 0) : onLane f c p s = refuse .outOfRange s := by
  simp [onLane, long, fin?_of_le (Nat.succ_le_of_lt h)]

theorem onLane_of_lane {f : State → Fin 8 → OpOut} {l : Fin 8} (h : u8 p 0 = l.val) : onLane f c p s = f s l := by
  simp [onLane, long, fin?_of_eq h]

theorem onSource_of_no_source {f : State → Fin 126 → OpOut} (h : 125 < u8 p 0) : onSource f c p s = refuse .outOfRange s := by
  simp [onSource, long, fin?_of_le (Nat.succ_le_of_lt h)]

theorem onSource_of_source {f : State → Fin 126 → OpOut} {k : Fin 126} (h : u8 p 0 = k.val) : onSource f c p s = f s k := by
  simp [onSource, long, fin?_of_eq h]

end

section
variable {c : Caller} {p : List Byte} {s : State} (long : 2 ≤ p.length)
include long

theorem onClip_of_no_clip {f : State → Fin 256 → OpOut} (h : 255 < u16 p 0) : onClip f c p s = refuse .outOfRange s := by
  simp [onClip, long, fin?_of_le (Nat.succ_le_of_lt h)]

theorem onClip_of_clip {f : State → Fin 256 → OpOut} {k : Fin 256} (h : u16 p 0 = k.val) : onClip f c p s = f s k := by
  simp [onClip, long, fin?_of_eq h]

end

/-! ## Operands that name a domain -/

theorem domainAt_of_code {p : List Byte} {i : Nat} {d : DomainId} (h : u8 p i = domainCode d) : domainAt p i = some d := by
  unfold domainAt
  rw [h]
  cases d <;> rfl

theorem domainAt_of_lt {p : List Byte} {i : Nat} (h : 1 < u8 p i) : domainAt p i = none := by
  unfold domainAt
  split
  · omega
  · omega
  · rfl

/-! ## The reads of a record (R30, R35, R54, R64, R153, R160) -/

section
variable {c : Caller} {p : List Byte} {s : State}

theorem opVoiceStatus_of_out_of_range (long : 2 ≤ p.length) (h : 7 < u8 p 0 ∨ 3 < u8 p 1) :
    opVoiceStatus c p s = refuse .outOfRange s := by
  rcases h with h | h
  · simp [opVoiceStatus, long, fin?_of_le (Nat.succ_le_of_lt h)]
  · simp [opVoiceStatus, long, fin?_of_le (Nat.succ_le_of_lt h)]

theorem opVoiceStatus_of_voice (long : 2 ≤ p.length) {l : Fin 8} {v : Fin 4} (hl : u8 p 0 = l.val) (hv : u8 p 1 = v.val) :
    opVoiceStatus c p s = answer [.one (voiceBytes (s.dev.voice l v) ++ b48 (s.dev.lane l).time)] s := by
  simp [opVoiceStatus, long, fin?_of_eq hl, fin?_of_eq hv]

variable (long : 1 ≤ p.length)
include long

theorem opLaneStatus_of_lane {l : Fin 8} (h : u8 p 0 = l.val) :
    opLaneStatus c p s = answer [.one (laneBytes (s.dev.lane l) (s.dev.domain (s.dev.lane l).domain).state),
      .many ((s.dev.lane l).schedule.map entryBytes)] s := onLane_of_lane long h

theorem opDomainStatus_of_no_domain (h : 1 < u8 p 0) : opDomainStatus c p s = refuse .outOfRange s := by
  simp [opDomainStatus, long, domainAt_of_lt h]

theorem opDomainStatus_of_domain {i : DomainId} (h : u8 p 0 = domainCode i) :
    opDomainStatus c p s = answer [.one (b8 (domainStateCode (s.dev.domain i).state) ++ b8 (s.dev.domain i).rate
      ++ b8 (s.dev.domain i).settle), .many ((s.dev.lanesOf i).map fun l => b8 l.val)] s := by
  simp [opDomainStatus, long, domainAt_of_code h]

theorem opStreamStatus_of_no_slot (h : 15 < u8 p 0) : opStreamStatus c p s = refuse .outOfRange s := by
  simp [opStreamStatus, long, fin?_of_le (Nat.succ_le_of_lt h)]

theorem opStreamStatus_of_slot {n : Fin 16} (h : u8 p 0 = n.val) :
    opStreamStatus c p s = answer [.one (slotBytes (s.dev.slot n) (s.dev.intake.slotTag n)),
      .many ((s.dev.slot n).readers.map readerBytes), .many (((s.dev.slot n).queue.take 16).map queueEntryBytes)] s := by
  simp [opStreamStatus, long, fin?_of_eq h]

theorem opTrigStatus_of_no_trigger (h : 3 < u8 p 0) : opTrigStatus c p s = refuse .outOfRange s := by
  simp [opTrigStatus, long, fin?_of_le (Nat.succ_le_of_lt h)]

theorem opTrigStatus_of_trigger {n : Fin 4} (h : u8 p 0 = n.val) :
    opTrigStatus c p s = answer [.one (triggerBytes (s.dev.triggers.get n)),
      .many ((s.dev.armedOn n).map fun l => b8 l.val)] s := by
  simp [opTrigStatus, long, fin?_of_eq h]

theorem opMarkerStatus_of_no_marker (h : 5 < u8 p 0) : opMarkerStatus c p s = refuse .outOfRange s := by
  simp [opMarkerStatus, long, fin?_of_le (Nat.succ_le_of_lt h)]

theorem opMarkerStatus_of_marker {n : Fin 6} (h : u8 p 0 = n.val) :
    opMarkerStatus c p s = answer [.one (markerBytes (s.dev.markers.get n) s.dev.now
      (s.dev.markerLogical s.linkUp (s.dev.markers.get n)))] s := by
  simp [opMarkerStatus, long, fin?_of_eq h]

end

@[simp] theorem begun_linkUp (via : Via) (s : State) : (begun via s).linkUp = s.linkUp := by
  unfold State.linkUp
  rw [begun_port]

/-- Settles O12: each read finds its index and answers with the record. -/
theorem statusReadsReturnTheRecord : Obligations.StatusReadsReturnTheRecord := by
  unfold Obligations.StatusReadsReturnTheRecord
  intro s p long d gives
  refine ⟨fun ask two => ⟨fun h => ?_, fun l v hl hv => ?_⟩, fun ask => ⟨fun h => ?_, fun l h => ?_⟩,
    fun ask => ⟨fun h => ?_, fun i h => ?_⟩, fun ask => ⟨fun h => ?_, fun n h => ?_⟩,
    fun ask => ⟨fun h => ?_, fun n h => ?_⟩, fun ask => ⟨fun h => ?_, fun n h => ?_⟩⟩
  · exact request_refuses rfl ask (opVoiceStatus_of_out_of_range two h)
  · exact request_answers rfl ask (opVoiceStatus_of_voice two hl hv) (by rw [begun_request_dev])
  · exact request_refuses rfl ask (onLane_of_no_lane long h)
  · exact request_answers rfl ask (opLaneStatus_of_lane long h) (by rw [begun_request_dev])
  · exact request_refuses rfl ask (opDomainStatus_of_no_domain long h)
  · exact request_answers rfl ask (opDomainStatus_of_domain long h) (by rw [begun_request_dev])
  · exact request_refuses rfl ask (opStreamStatus_of_no_slot long h)
  · exact request_answers rfl ask (opStreamStatus_of_slot long h) (by rw [begun_request_dev])
  · exact request_refuses rfl ask (opTrigStatus_of_no_trigger long h)
  · exact request_answers rfl ask (opTrigStatus_of_trigger long h) (by rw [begun_request_dev])
  · exact request_refuses rfl ask (opMarkerStatus_of_no_marker long h)
  · exact request_answers rfl ask (opMarkerStatus_of_marker long h) (by rw [begun_request_dev, begun_linkUp])

end Sys2Proof.Machine
end

section
/-!
SUPPORT. The reads of the tables, of the clips and of the unit (R114, R115, R125, R136, R138, R147, R187, R204, R205).
-/
namespace Sys2Proof.Machine

section
variable {c : Caller} {p : List Byte} {s : State}

theorem opMapRead_of_source (long : 1 ≤ p.length) {k : Fin 126} (h : u8 p 0 = k.val) :
    opMapRead c p s = answer [.one (mapEntryBytes (s.dev.cue.map.get k) ++ bFlag (s.dev.cue.pending.get k).isSome
      ++ (s.dev.cue.pending.get k).elim [] pendingBytes)] s := by
  unfold opMapRead
  rw [onSource_of_source long h]
  dsimp only
  cases s.dev.cue.pending.get k <;> rfl

theorem opListRead_of_no_list (long : 2 ≤ p.length) (h : 255 < u16 p 0) : opListRead c p s = refuse .outOfRange s := by
  simp [opListRead, long, fin?_of_le (Nat.succ_le_of_lt h)]

theorem opListRead_of_list (long : 2 ≤ p.length) {n : Fin 256} (h : u16 p 0 = n.val) :
    opListRead c p s = answer [.one (b16 (s.dev.cue.lists.get n).first ++ b16 (s.dev.cue.lists.get n).count
      ++ bFlag (s.dev.cue.stack.any fun c => c.list = n))] s := by
  simp [opListRead, long, fin?_of_eq h, Cue.held]

theorem opCueRead_of_out_of_range (long : 6 ≤ p.length) (h : 2047 < u16 p 0 ∨ 2048 < u16 p 0 + u32 p 2) :
    opCueRead c p s = refuse .outOfRange s := by
  rw [opCueRead, needs_of_le long, if_pos h]

theorem opCueRead_of_in_range (long : 6 ≤ p.length) (first : u16 p 0 ≤ 2047) (last : u16 p 0 + u32 p 2 ≤ 2048) :
    opCueRead c p s = answer [.many ((List.range (u32 p 2)).map fun i =>
      actionBytes (s.dev.cue.actions.get (Fin.ofNat 2048 (u16 p 0 + i))))] s := by
  rw [opCueRead, needs_of_le long, if_neg (by omega)]

theorem opClipStatus_of_clip (long : 2 ≤ p.length) {k : Fin 256} (h : u16 p 0 = k.val) :
    opClipStatus c p s = answer [
      .one (b8 (clipStateCode (s.dev.clip k).state) ++ b32 (s.dev.clip k).length ++ b32 (cellsFor (s.dev.clip k).length)),
      .many ((s.dev.clip k).extents.map extentBytes),
      .one (b32 (pagesOf (s.dev.clip k).extents) ++ b32 (s.dev.clipRefs k)),
      .one (if (s.dev.clip k).state = .loading then loadBytes s.dev.clips k (cellsFor (s.dev.clip k).length) else [])] s :=
  onClip_of_clip long h

end

/-- Settles O13: each read finds its index and answers with what its table holds. -/
theorem tableReadsReturnWhatIsHeld : Obligations.TableReadsReturnWhatIsHeld := by
  unfold Obligations.TableReadsReturnWhatIsHeld
  intro s p d gives
  refine ⟨fun ask long => ⟨fun h => ?_, fun k h => ?_⟩, fun ask long => ⟨fun h => ?_, fun n h => ?_⟩,
    fun ask long => ⟨fun h => ?_, fun first last => ?_⟩, fun ask => ?_, fun ask long => ⟨fun h => ?_, fun k h => ?_⟩,
    fun ask => ?_⟩
  · exact request_refuses rfl ask (onSource_of_no_source long h)
  · exact request_answers rfl ask (opMapRead_of_source long h) (by rw [begun_request_dev])
  · exact request_refuses rfl ask (opListRead_of_no_list long h)
  · exact request_answers rfl ask (opListRead_of_list long h) (by rw [begun_request_dev])
  · exact request_refuses rfl ask (opCueRead_of_out_of_range long h)
  · exact request_answers rfl ask (opCueRead_of_in_range long first last) (by rw [begun_request_dev])
  · exact request_answers (op := opCueStatus) rfl ask rfl (by rw [begun_request_dev])
  · exact request_refuses rfl ask (onClip_of_no_clip long h)
  · exact request_answers rfl ask (opClipStatus_of_clip long h) (by rw [begun_request_dev])
  · exact request_answers (op := opClipSpace) rfl ask rfl (by rw [begun_request_dev]; rfl)

/-! ## The reads of the unit (R80, R116, R186, R187, R204, R205) -/

/-- The Agent's replies are as they were when it takes a request. -/
@[simp] theorem begun_request_replies (s : State) : (begun .request s).agent.replies = s.agent.replies := by
  unfold begun
  cases s.agent.requests <;> rfl

/-- What STATS_READ answers for a group. -/
def Group.items (s : State) : Group → List Item
  | .intake => intakeStats s.dev.intake
  | .clip => clipStats s.dev.clips
  | .link => portStats s.port
  | .agent => agentStats s.agent s.dev.notices s.dev.now

theorem opStatsRead_of_group {c : Caller} {p : List Byte} {s : State} (long : 1 ≤ p.length) {g : Group} (h : groupAt p 0 = some g) :
    opStatsRead c p s = answer (g.items s) s := by
  simp only [opStatsRead, needs_of_le long, h]
  cases g <;> rfl

theorem opStatsRead_of_no_group {c : Caller} {p : List Byte} {s : State} (long : 1 ≤ p.length) (h : groupAt p 0 = none) :
    opStatsRead c p s = refuse .badField s := by
  simp only [opStatsRead, needs_of_le long, h]

/-- The codes of the groups (R205). -/
def Group.code : Group → Nat
  | .intake => 0
  | .clip => 1
  | .link => 2
  | .agent => 3

theorem groupAt_of_code {p : List Byte} (g : Group) (h : u8 p 0 = g.code) : groupAt p 0 = some g := by
  unfold groupAt
  rw [h]
  cases g <;> rfl

theorem groupAt_of_other {p : List Byte} (h : ∀ g : Group, u8 p 0 ≠ g.code) : groupAt p 0 = none := by
  unfold groupAt
  split
  · exact absurd ‹_› (h .intake)
  · exact absurd ‹_› (h .clip)
  · exact absurd ‹_› (h .link)
  · exact absurd ‹_› (h .agent)
  · rfl

/-- Settles O14: the Agent's side of STATS_READ is counted with its own request already taken. -/
theorem unitReadsReturnWhatIsHeld : Obligations.UnitReadsReturnWhatIsHeld := by
  unfold Obligations.UnitReadsReturnWhatIsHeld
  intro s p a gives
  refine ⟨fun ask => ?link, fun ask => ?store, fun ask => ?identity, fun ask long => ?stats⟩
  case link =>
    exact request_answers (op := opLinkStatus) rfl ask rfl (by
      simp only [State.classReady, begun_port, begun_request_dev, begun_request_replies])
  case store => exact request_answers (op := opStoreRead) rfl ask rfl (by rw [begun_request_dev])
  case identity => exact request_answers (op := opIdentify) rfl ask rfl (by rw [begun_request_dev, begun_port])
  case stats =>
    split
    case h_1 code =>
      exact request_answers rfl ask (opStatsRead_of_group long (groupAt_of_code .intake code)) (by rw [Group.items, begun_request_dev])
    case h_2 code =>
      exact request_answers rfl ask (opStatsRead_of_group long (groupAt_of_code .clip code)) (by rw [Group.items, begun_request_dev])
    case h_3 code =>
      exact request_answers rfl ask (opStatsRead_of_group long (groupAt_of_code .link code)) (by rw [Group.items, begun_port])
    case h_4 code =>
      exact request_answers rfl ask (opStatsRead_of_group long (groupAt_of_code .agent code)) (by rw [Group.items, begun_request_dev])
    case h_5 no0 no1 no2 no3 =>
      exact request_refuses rfl ask (opStatsRead_of_no_group long (groupAt_of_other fun
        | .intake => no0
        | .clip => no1
        | .link => no2
        | .agent => no3))

end Sys2Proof.Machine
end

section
/-!
SUPPORT. VOICE_START: its checks, its placing in the schedule, the start that it replaces, and its begin in a block (R11 to R17).
-/
namespace Sys2Proof.Machine

/-! ## When (R12, R140) -/

theorem whenAt_of_lt {p : List Byte} {i : Nat} (h : 2 < u8 p i) : whenAt p i = none := by
  unfold whenAt
  split
  · omega
  · omega
  · omega
  · rfl

theorem resolveWhen_request (w : When) : resolveWhen .request w = .ok w := rfl

section
variable (source : Fin 126) (reference : Option (Fin 8 × Nat))

theorem resolveWhen_next : resolveWhen (.action source reference) .next = .ok .next := rfl

theorem resolveWhen_at (t : Nat) : resolveWhen (.action source reference) (.at t) = .ok (.at t) := rfl

theorem resolveWhen_rel_of_lt {d : Nat} (h : 4294967295 < d) :
    resolveWhen (.action source reference) (.rel d) = .error .outOfRange := if_pos h

theorem resolveWhen_rel_of_no_reference {d : Nat} (h : d ≤ 4294967295) :
    resolveWhen (.action source none) (.rel d) = .error .badField := if_neg (Nat.not_lt.mpr h)

theorem resolveWhen_rel_of_reference {d : Nat} (h : d ≤ 4294967295) (l : Fin 8) (u : Nat) :
    resolveWhen (.action source (some (l, u))) (.rel d) =
      if 281474976710656 ≤ u + d then .error .outOfRange else .ok (.at (u + d)) := if_neg (Nat.not_lt.mpr h)

end

/-- The stamp of a start that is not relative (R12). -/
theorem stampOf_eq (x : Lane) (w : When) : stampOf x.time w = stampAt x w := by
  cases w <;> rfl

/-! ## The checks (R11) -/

/-- Whether the pending start of a voice has a reader that passes to a start on a STREAM segment (R13). -/
def Voice.passes (x : Voice) (f : Fixed) : Bool := x.pending.any fun q => q.claim.any fun c => c.1 = f.slot

theorem passedClaim_eq_none {x : Voice} {f : Fixed} (stream : f.kind = .stream) :
    x.passedClaim f = none ↔ x.passes f = false := by
  unfold Voice.passedClaim Voice.passes
  cases x.pending with
  | none => exact ⟨fun _ => rfl, fun _ => rfl⟩
  | some q =>
    cases hq : q.claim with
    | none => simp [hq]
    | some c =>
      by_cases same : c.1 = f.slot
      · simp [hq, stream, same]
      · simp [hq, same]

/-- The result of VOICE_START by checks 2 to 7 of R11 in the manual's terms. -/
def Device.startResult (d : Device) (l : Fin 8) (v : Fin 4) (g : Fin 1024) (w : When) : Result :=
  let f := (d.segment g).fixed
  let x := d.voice l v
  if w.isRel then .badField
  else if (d.lane l).state = .stopped then .laneStopped
  else if f.kind = .none then .badField
  else if f.kind = .clip ∧ (d.clip f.clip).state ≠ .ready then .notReady
  else if x.pending = none ∧ 16 ≤ (d.lane l).schedule.length then .full
  else if f.kind = .stream ∧ x.passes f = false then (d.slot f.slot).claimResult
  else .ok

/-- The model's checks give the result of R11. -/
theorem startCheck_getD {d : Device} {l : Fin 8} {v : Fin 4} {g : Fin 1024} {w : When} (absolute : w.isRel = false) :
    (d.startCheck l v g).getD .ok = d.startResult l v g w := by
  unfold Device.startCheck Device.startResult
  simp only [apply_ite (Option.getD · Result.ok), Option.getD_some, Option.getD_none, absolute, Lane.full, decide_eq_true_eq]
  by_cases stream : (d.segment g).fixed.kind = .stream
  · simp only [passedClaim_eq_none stream, stream, true_and]
    by_cases new : (d.voice l v).passes (d.segment g).fixed = false
    · by_cases ok : (d.slot (d.segment g).fixed.slot).claimResult = .ok
      · simp [new, ok]
      · simp [new, ok]
    · simp [new]
  · simp [stream]

/-- A failed check never gives OK. -/
theorem startCheck_ne_ok (d : Device) (l : Fin 8) (v : Fin 4) (g : Fin 1024) : d.startCheck l v g ≠ some .ok := by
  unfold Device.startCheck
  dsimp only
  split
  · exact nofun
  · split
    · exact nofun
    · split
      · exact nofun
      · split
        · exact nofun
        · split
          · rename_i refused
            exact fun h => refused.2.2 (Option.some.inj h)
          · exact nofun

section
variable {c : Caller} {p : List Byte} {s : State} (long : 11 ≤ p.length)
include long

theorem opVoiceStart_of_no_when (h : whenAt p 4 = none) : opVoiceStart c p s = refuse .badField s := by
  simp [opVoiceStart, long, h]

variable {w : When} (hw : whenAt p 4 = some w)
include hw

theorem opVoiceStart_of_unresolved {r : Result} (h : resolveWhen c w = .error r) : opVoiceStart c p s = refuse r s := by
  simp [opVoiceStart, long, hw, h]

variable {w' : When} (resolved : resolveWhen c w = .ok w')
include resolved

theorem opVoiceStart_of_out_of_range (h : 7 < u8 p 0 ∨ 3 < u8 p 1 ∨ 1023 < u16 p 2) :
    opVoiceStart c p s = refuse .outOfRange s := by
  simp only [opVoiceStart, needs_of_le long, hw, resolved]
  rcases h with h | h | h
  · rw [fin?_of_le (Nat.succ_le_of_lt h)]
  · rw [fin?_of_le (n := 4) (Nat.succ_le_of_lt h)]
    cases fin? 8 (u8 p 0) <;> rfl
  · rw [fin?_of_le (n := 1024) (Nat.succ_le_of_lt h)]
    cases fin? 8 (u8 p 0) <;> cases fin? 4 (u8 p 1) <;> rfl

variable {l : Fin 8} {v : Fin 4} {g : Fin 1024} (hl : u8 p 0 = l.val) (hv : u8 p 1 = v.val) (hg : u16 p 2 = g.val)
include hl hv hg

theorem opVoiceStart_of_refused (h : s.dev.startResult l v g w' ≠ .ok) :
    opVoiceStart c p s = refuse (s.dev.startResult l v g w') s := by
  simp only [opVoiceStart, needs_of_le long, hw, resolved, fin?_of_eq hl, fin?_of_eq hv, fin?_of_eq hg]
  by_cases relative : w'.isRel = true
  · rw [if_pos relative, Device.startResult, if_pos relative]
  · rw [if_neg relative]
    have result := startCheck_getD (d := s.dev) (l := l) (v := v) (g := g) (Bool.eq_false_iff.mpr relative)
    cases check : s.dev.startCheck l v g with
    | none =>
      rw [check] at result
      exact absurd result.symm h
    | some r =>
      rw [check] at result
      rw [← result]
      rfl

theorem opVoiceStart_of_accepted (h : s.dev.startResult l v g w' = .ok) :
    opVoiceStart c p s = done (s.dev.acceptStart l v g w') := by
  have absolute : ¬ w'.isRel = true := fun relative => by
    rw [Device.startResult, if_pos relative] at h
    cases h
  simp only [opVoiceStart, needs_of_le long, hw, resolved, fin?_of_eq hl, fin?_of_eq hv, fin?_of_eq hg, if_neg absolute]
  have result := startCheck_getD (d := s.dev) (l := l) (v := v) (g := g) (Bool.eq_false_iff.mpr absolute)
  have failed := startCheck_ne_ok s.dev l v g
  cases check : s.dev.startCheck l v g with
  | none => rfl
  | some r =>
    rw [check] at result failed
    exact absurd (congrArg some (result.trans h)) failed

end

/-- Settles O8: the model's checks are those of R11 (`startCheck_getD`), after the when of the start is read and resolved. -/
theorem voiceStartChecksInOrder : Obligations.VoiceStartChecksInOrder := by
  unfold Obligations.VoiceStartChecksInOrder
  refine ⟨fun via s p ask long => ⟨fun h => ?_, fun w r hw h => ?_⟩, resolveWhen_request,
    fun source reference d t => ⟨rfl, rfl, fun h => ?_, fun h none_ => ?_, fun l u h ref => ?_⟩,
    fun via s p w w' ask long hw resolved => ⟨fun h => ?_, fun l v g hl hv hg => ⟨fun h => ?_, fun h => ?_⟩⟩⟩
  · exact exec_refuses rfl ask (opVoiceStart_of_no_when long (whenAt_of_lt h))
  · exact exec_refuses rfl ask (opVoiceStart_of_unresolved long hw h)
  · exact resolveWhen_rel_of_lt source reference h
  · exact none_ ▸ resolveWhen_rel_of_no_reference source h
  · exact ref ▸ resolveWhen_rel_of_reference source h l u
  · exact exec_refuses rfl ask (opVoiceStart_of_out_of_range long hw resolved h)
  · exact exec_refuses rfl ask (opVoiceStart_of_refused long hw resolved hl hv hg h)
  · exact ⟨_, exec_does rfl ask (opVoiceStart_of_accepted long hw resolved hl hv hg h)⟩

/-! ## The accepted start (R12 to R14) -/

/-- The voice with a start pending (R12). -/
def Voice.withStart (x : Voice) (p : PendingStart) : Voice :=
  { x with pending := some p, state := if x.state = .idle then .pending else x.state }

/-- The lane with the start of a voice placed (R12, R40). -/
def Lane.withStart (x : Lane) (v : Fin 4) (p : PendingStart) : Lane :=
  { x with schedule := placed { stamp := p.stamp, kind := .voiceStart v p.segment p.claim } x.schedule
           voices := put x.voices v ((x.voices.get v).withStart p) }

theorem placeStart_eq (d : Device) (l : Fin 8) (v : Fin 4) (g : Fin 1024) (w : When) (claim : Option (Fin 16 × Nat)) :
    d.placeStart l v g w claim =
      d.setLane l ((d.lane l).withStart v { segment := g, stamp := stampAt (d.lane l) w, claim := claim }) := by
  rw [Device.placeStart, stampOf_eq]
  unfold Device.updVoice Device.setVoice Device.updLane Device.voice Device.schedule
  simp only [lane_updLane_same, insertEntry_eq]
  simp [Device.setLane, Device.updLane, Lane.withStart, Voice.withStart, placed]

theorem claimResult_of_room {x : Slot} (state : x.state = .filling ∨ x.state = .primed) (room : x.readers.length < 8) :
    x.claimResult = .ok := by
  unfold Slot.claimResult
  rcases state with h | h
  · rw [h]; exact if_pos room
  · rw [h]; exact if_pos room

/-- The checks pass: all that an accepted start needs (R11). -/
theorem startResult_ok {d : Device} {l : Fin 8} {v : Fin 4} {g : Fin 1024} {w : When} (absolute : w.isRel = false)
    (running : (d.lane l).state ≠ .stopped) (kind : (d.segment g).fixed.kind ≠ .none)
    (clip : (d.segment g).fixed.kind = .clip → (d.clip (d.segment g).fixed.clip).state = .ready)
    (room : (d.voice l v).pending = none → (d.lane l).schedule.length < 16)
    (stream : (d.segment g).fixed.kind = .stream → (d.voice l v).passes (d.segment g).fixed = false →
      (d.slot (d.segment g).fixed.slot).claimResult = .ok) : d.startResult l v g w = .ok := by
  unfold Device.startResult
  dsimp only
  rw [if_neg (by simp [absolute]), if_neg running, if_neg kind, if_neg fun h => h.2 (clip h.1),
    if_neg fun h => absurd (room h.1) (Nat.not_lt.mpr h.2)]
  split
  · rename_i new
    exact stream new.1 new.2
  · rfl

/-- A start that takes no reader from another: it claims its own on a STREAM segment (R13, R82), and is placed. -/
theorem placeStart_claimFor (d : Device) (l : Fin 8) (v : Fin 4) (g : Fin 1024) (w : When) (f : Fixed) :
    (d.claimFor l v f none).1.placeStart l v g w (d.claimFor l v f none).2 =
      { d with
        lanes := put d.lanes l ((d.lane l).withStart v
          { segment := g, stamp := stampAt (d.lane l) w
            claim := if f.kind = .stream then some (f.slot, (d.slot f.slot).freeIndex) else none })
        intake := if f.kind = .stream then
            d.intake.setSlot f.slot ((d.slot f.slot).claim l v true) else d.intake } := by
  unfold Device.claimFor
  dsimp only
  by_cases stream : f.kind = .stream
  · simp only [if_pos stream]
    rw [placeStart_eq]
    rfl
  · simp only [if_neg stream]
    rw [placeStart_eq]
    rfl

/-- A start to which a reader passes claims none (R13). -/
theorem placeStart_claimFor_passed (d : Device) (l : Fin 8) (v : Fin 4) (g : Fin 1024) (w : When) (f : Fixed) (c : Fin 16 × Nat) :
    (d.claimFor l v f (some c)).1.placeStart l v g w (d.claimFor l v f (some c)).2 =
      { d with lanes := put d.lanes l ((d.lane l).withStart v
          { segment := g, stamp := stampAt (d.lane l) w, claim := some c }) } :=
  placeStart_eq ..

theorem passedClaim_of_fresh {x : Voice} (h : x.pending = none) (f : Fixed) : x.passedClaim f = none := by
  unfold Voice.passedClaim
  rw [h]

/-- A start of a voice that has none pending (R12, R13). -/
theorem acceptStart_fresh {d : Device} {l : Fin 8} {v : Fin 4} (h : (d.voice l v).pending = none) (g : Fin 1024) (w : When) :
    d.acceptStart l v g w =
      { d with
        lanes := put d.lanes l ((d.lane l).withStart v
          { segment := g, stamp := stampAt (d.lane l) w
            claim := if (d.segment g).fixed.kind = .stream then
              some ((d.segment g).fixed.slot, (d.slot (d.segment g).fixed.slot).freeIndex) else none })
        intake := if (d.segment g).fixed.kind = .stream then
            d.intake.setSlot (d.segment g).fixed.slot ((d.slot (d.segment g).fixed.slot).claim l v true)
          else d.intake } := by
  rw [acceptStart_eq, replaceStart_of_none _ h, passedClaim_of_fresh h]
  exact placeStart_claimFor ..

/-- Of two voices written in one place the later stands. -/
theorem setVoice_setVoice (d : Device) (l : Fin 8) (v : Fin 4) (x y : Voice) : (d.setVoice l v x).setVoice l v y = d.setVoice l v y := by
  simp [Device.setVoice, Device.updLane, Device.setLane, Device.lane]

/-! ## A start applied in a block (R15 to R17) -/

/-- The block as the start finds it: the pulse caused, the pending start cleared, and a segment that plays ended (R16). -/
def Block.spliced (k : Block) (l : Fin 8) (v : Fin 4) (t : Nat) : Block :=
  let d := (k.dev.causePulse (.voiceStartPulse l) (k.dev.sampleClock l t)).updVoice l v fun x => { x with pending := none }
  if (k.dev.voice l v).current.isSome then ({ k with dev := d } : Block).endSegment l v .replaced else { k with dev := d }

theorem applyStart_eq (k : Block) (l : Fin 8) (v : Fin 4) (t : Nat) (g : Fin 1024) (claim : Option (Fin 16 × Nat)) :
    k.applyStart l v t g claim = (k.spliced l v t).begin l v t g claim := by
  unfold Block.applyStart Block.spliced
  simp only [voice_updVoice_same, voice_causePulse]

/-- A voice whose pending start is applied, before its segment begins. -/
def Voice.spliced (x : Voice) : Voice :=
  if x.current.isSome then ({ x with pending := none } : Voice).ended .replaced else { x with pending := none }

theorem endEvent_eq (x : Voice) : x.endEvent = x.hot.any Hot.endEvent := by
  unfold Voice.endEvent
  cases x.hot <;> rfl

section
variable (k : Block) (l : Fin 8) (v : Fin 4) (t : Nat)

/-- What a splice changes of the blocks: the voice, and the starts due of the lane's voice-start markers. -/
theorem spliced_dev : (k.spliced l v t).dev =
    (k.dev.causePulse (.voiceStartPulse l) (k.dev.sampleClock l t)).setVoice l v (k.dev.voice l v).spliced := by
  unfold Block.spliced Voice.spliced
  by_cases playing : (k.dev.voice l v).current.isSome = true
  · simp only [if_pos playing, block_endSegment_dev, Device.updVoice, voice_causePulse, voice_setVoice_same, setVoice_setVoice]
  · simp only [if_neg playing, Device.updVoice, voice_causePulse]

theorem spliced_events : (k.spliced l v t).events =
    k.events ++ if (k.dev.voice l v).current.isSome = true ∧ (k.dev.voice l v).endEvent = true then
      [voiceEndEvent l v .replaced] else [] := by
  unfold Block.spliced
  by_cases playing : (k.dev.voice l v).current.isSome = true
  · simp only [if_pos playing, block_endSegment_events, voice_updVoice_same, voice_causePulse]
    by_cases ends : (k.dev.voice l v).endEvent = true
    · rw [if_pos (show ({ k.dev.voice l v with pending := none } : Voice).endEvent = true from ends), if_pos ⟨playing, ends⟩]
    · rw [if_neg (show ¬ ({ k.dev.voice l v with pending := none } : Voice).endEvent = true from ends), if_neg fun h => ends h.2,
        List.append_nil]
  · simp [playing]

theorem spliced_released {c : Cursor} (playing : (k.dev.voice l v).current.isSome = true) (h : k.cursors.get v = some c) :
    (c.slot, c.index) ∈ (k.spliced l v t).released := by
  unfold Block.spliced
  simp [playing, block_endSegment_released, h]

end

/-- The begin of a segment releases no reader. -/
theorem block_begin_released (k : Block) (l : Fin 8) (v : Fin 4) (t : Nat) (g : Fin 1024) (c : Option (Fin 16 × Nat)) :
    (k.begin l v t g c).released = k.released := by
  unfold Block.begin
  dsimp only
  split
  · rfl
  · rfl
  · split <;> rfl
  · split <;> rfl

/-- How a segment begins depends on the clips alone. -/
theorem bindingOf_of_clips {d e : Device} (h : e.clips = d.clips) (f : Fixed) (claim : Option (Fin 16 × Nat)) :
    e.bindingOf f claim = d.bindingOf f claim := by
  unfold Device.bindingOf Device.clipBinds Device.clip
  rw [h]

section
variable (x : Voice) (g : Fin 1024) (seg : Segment)

theorem begins_spliced (b : Option Binding) : x.spliced.begins g seg b =
    ({ x with pending := none } : Voice).playingOn g seg b (if x.current.isSome = true then some .replaced else x.lastCause) := by
  unfold Voice.spliced
  by_cases playing : x.current.isSome = true
  · rw [if_pos playing, if_pos playing]; rfl
  · rw [if_neg playing, if_neg playing]; rfl

theorem ended_spliced (cause : EndCause) : x.spliced.ended cause = ({ x with pending := none } : Voice).stoppedBy cause := by
  unfold Voice.spliced
  by_cases playing : x.current.isSome = true
  · rw [if_pos playing]; rfl
  · rw [if_neg playing]; rfl

end

/-- The markers of a start: the starts due of the lane's voice-start and segment-edge markers gain its sample clock (R155). -/
theorem markers_begin_spliced (k : Block) (l : Fin 8) (v : Fin 4) (t : Nat) (g : Fin 1024) (claim : Option (Fin 16 × Nat)) (n : Fin 6) :
    ((k.spliced l v t).begin l v t g claim).dev.markers.get n =
      if (k.dev.markers.get n).condition = .voiceStartPulse l ∨ (k.dev.markers.get n).condition = .segmentEdgePulse l then
        { k.dev.markers.get n with startsDue := insertDue (k.dev.sampleClock l t) (k.dev.markers.get n).startsDue }
      else k.dev.markers.get n := by
  have clock : (k.spliced l v t).dev.sampleClock l t = k.dev.sampleClock l t := by
    rw [spliced_dev]
    exact sampleClock_updVoice ..
  rw [block_begin_markers, clock, spliced_dev]
  unfold Device.causePulse
  simp only [setVoice_markers, get_map]
  by_cases start : (k.dev.markers.get n).condition = .voiceStartPulse l
  · simp [start]
  · simp [start]

/-- Settles O9: an accepted start enters the schedule (`acceptStart_fresh`), and applied it begins its segment on the voice that
the splice leaves (`applyStart_eq`). -/
theorem voiceStartEntersTheSchedule : Obligations.VoiceStartEntersTheSchedule := by
  unfold Obligations.VoiceStartEntersTheSchedule
  refine ⟨fun via s p w w' l v g ask long hw resolved absolute hl hv hg => ?entered, fun k l v t stamp g claim => ?applied⟩
  case entered =>
    intro d f lane x slot running kind clip fresh room stream
    have ok : d.startResult l v g w' = .ok := startResult_ok absolute running kind clip (fun _ => room)
      fun isStream _ => claimResult_of_room (stream isStream).1 (stream isStream).2
    rw [exec_does rfl ask (opVoiceStart_of_accepted long hw resolved hl hv hg ok), acceptStart_fresh fresh]
    rfl
  case applied =>
    intro x seg started cleared spliced
    have splice : started = (k.spliced l v t).begin l v t g claim := applyStart_eq k l v t g claim
    have segment : (k.spliced l v t).dev.segment g = seg := by rw [spliced_dev]; rfl
    have binding : (k.spliced l v t).dev.bindingOf seg.fixed claim = k.dev.bindingOf seg.fixed claim :=
      bindingOf_of_clips (by rw [spliced_dev]; rfl) _ _
    have voice : (k.spliced l v t).dev.voice l v = x.spliced := by rw [spliced_dev, voice_setVoice_same]
    have began := block_begin_voice (k.spliced l v t) l v t g claim
    have events := block_begin_events (k.spliced l v t) l v t g claim
    rw [segment, binding, voice] at began
    rw [segment, binding, spliced_events] at events
    rw [splice]
    refine ⟨fun b bound => ?_, fun cause failed => ?_, fun c playing reader => ?_, fun m w other => ?_, fun n => ?_⟩
    · rw [bound] at began events
      rw [began, events, endEvent_eq]
      exact ⟨begins_spliced x g seg b, rfl⟩
    · rw [failed] at began events
      dsimp only at began events
      rw [began, events, endEvent_eq]
      refine ⟨ended_spliced x cause, ?_⟩
      by_cases ends : seg.hot.endEvent = true
      · rw [if_pos ends, if_pos ends]; rfl
      · rw [if_neg ends, if_neg ends, List.append_nil]; rfl
    · rw [block_begin_released]
      exact spliced_released k l v t playing reader
    · rw [block_begin_other _ _ _ _ _ _ other, spliced_dev]
      exact voice_updVoice_other _ l v (fun _ => x.spliced) other
    · intro m m' lane divider clock
      have marker : m' = if m.condition = .voiceStartPulse l ∨ m.condition = .segmentEdgePulse l then
          { m with startsDue := insertDue clock m.startsDue } else m := markers_begin_spliced k l v t g claim n
      refine ⟨fun pulse => ?_, fun start edge => ?_⟩
      · rw [if_pos pulse] at marker
        rw [marker]
        exact ⟨rfl, fun u => mem_insertDue ..⟩
      · rw [marker, if_neg (not_or.mpr ⟨start, edge⟩)]

end Sys2Proof.Machine
end

section
/-!
SUPPORT. VOICE_START with a start pending, and the entries of VOICE_STOP and VOICE_GAIN, in the schedule and in a block (R13,
R14, R23 to R26).
-/
namespace Sys2Proof.Machine

/-! ## The start replaced (R13, R14) -/

/-- Whether the reader of a pending start passes to a start on a segment (R13). -/
def PendingStart.passes (q : PendingStart) (f : Fixed) : Bool := q.claim.any fun c => f.kind = .stream && c.1 = f.slot

theorem claim_of_passes {q : PendingStart} {f : Fixed} (h : q.passes f = true) : ∃ c, q.claim = some c := by
  unfold PendingStart.passes at h
  cases hq : q.claim with
  | none => rw [hq] at h; cases h
  | some c => exact ⟨c, rfl⟩

section
variable {d : Device} {l : Fin 8} {v : Fin 4} {q : PendingStart} (pending : (d.voice l v).pending = some q) (f : Fixed)
include pending

/-- The reader that passes to the new start is that of the pending one, where both name one slot. -/
theorem passedClaim_of_pending : (d.voice l v).passedClaim f =
    if q.passes f = true then q.claim else none := by
  unfold Voice.passedClaim PendingStart.passes
  rw [pending]
  dsimp only
  cases hq : q.claim with
  | none => rfl
  | some c => simp

/-- The blocks after a pending start is replaced: its reader released unless it passes. -/
theorem replaceStart_of_some : d.replaceStart l v f =
    ((if q.passes f = true then d.unschedule l v
      else (d.unschedule l v).releaseClaim q).updVoice l v Voice.replaced).raise (srcVoiceEnd l v) 2 := by
  have passed : ((d.voice l v).passedClaim f).isSome = q.passes f := by
    rw [passedClaim_of_pending pending]
    by_cases passes : q.passes f = true
    · obtain ⟨c, claim⟩ := claim_of_passes passes
      rw [if_pos passes, claim, passes]
      rfl
    · rw [if_neg passes, (Bool.not_eq_true _).mp passes]
      rfl
  unfold Device.replaceStart
  simp only [pending, passed]
  rfl

end

/-- The blocks with a start placed: its claim, and with it a new reader or none. -/
def Device.entered (d : Device) (l : Fin 8) (v : Fin 4) (g : Fin 1024) (w : When) (f : Fixed) (claim : Option (Fin 16 × Nat))
    (new : Prop) [Decidable new] : Device :=
  { d with
    lanes := put d.lanes l ((d.lane l).withStart v { segment := g, stamp := stampAt (d.lane l) w, claim := claim })
    intake := if new then d.intake.setSlot f.slot ((d.slot f.slot).claim l v true) else d.intake }

/-- A start accepted in place of a pending one (R13, R14). -/
theorem acceptStart_of_pending {d : Device} {l : Fin 8} {v : Fin 4} {q : PendingStart} (pending : (d.voice l v).pending = some q)
    (g : Fin 1024) (w : When) : d.acceptStart l v g w =
      (let f := (d.segment g).fixed
       let e := ((if q.passes f = true then d.unschedule l v else (d.unschedule l v).releaseClaim q).updVoice l v
         Voice.replaced).raise (srcVoiceEnd l v) 2
       e.entered l v g w f
         (if q.passes f = true then q.claim
          else if f.kind = .stream then some (f.slot, (e.slot f.slot).freeIndex) else none)
         (f.kind = .stream ∧ q.passes f = false)) := by
  rw [acceptStart_eq, replaceStart_of_some pending, passedClaim_of_pending pending]
  by_cases passes : q.passes (d.segment g).fixed = true
  · obtain ⟨c, claim⟩ := claim_of_passes passes
    simp only [if_pos passes, claim, Device.entered]
    rw [placeStart_claimFor_passed, if_neg fun h => Bool.noConfusion (passes.symm.trans h.2)]
  · simp only [Device.entered, (Bool.not_eq_true _).mp passes, Bool.false_eq_true, if_false, and_true]
    rw [placeStart_claimFor]

/-- A start to which no reader passes needs room for its own (R11). -/
theorem passes_of_pending {x : Voice} {q : PendingStart} (pending : x.pending = some q) {f : Fixed} (stream : f.kind = .stream) :
    x.passes f = q.passes f := by
  simp [Voice.passes, PendingStart.passes, pending, stream]

/-- Settles O10: the checks pass, and the accepted start is `acceptStart_of_pending`. -/
theorem voiceStartReplacesAPendingStart : Obligations.VoiceStartReplacesAPendingStart := by
  unfold Obligations.VoiceStartReplacesAPendingStart
  intro via s p w w' l v g q ask long hw resolved absolute hl hv hg d f passes running kind clip pending room
  have ok : d.startResult l v g w' = .ok :=
    startResult_ok absolute running kind clip (fun fresh => by rw [pending] at fresh; cases fresh) fun stream new => by
      rw [passes_of_pending pending stream] at new
      exact claimResult_of_room (room stream new).1 (room stream new).2
  rw [exec_does rfl ask (opVoiceStart_of_accepted long hw resolved hl hv hg ok), acceptStart_of_pending pending]
  rfl

/-! ## VOICE_STOP and VOICE_GAIN (R23, R26) -/

/-- The checks on when and on the lane, and the entry placed, in the manual's terms. -/
theorem placeEntry_eq (s : State) (l : Fin 8) (w : When) (kind : EntryKind) :
    placeEntry s l w kind =
      { result := (entersSchedule s.dev l w kind).2, data := [], dev := (entersSchedule s.dev l w kind).1 } := by
  unfold placeEntry entersSchedule
  by_cases relative : w.isRel = true
  · simp only [if_pos relative]
    rfl
  · simp only [if_neg relative, Device.entryCheck, Lane.full, decide_eq_true_eq]
    by_cases stopped : (s.dev.lane l).state = .stopped
    · simp only [if_pos stopped]
      rfl
    · by_cases full : 16 ≤ (s.dev.lane l).schedule.length
      · simp only [if_neg stopped, if_pos full]
        rfl
      · simp only [if_neg stopped, if_neg full, Device.place, Device.schedule, insertEntry_eq, stampOf_eq]
        rfl

section
variable {c : Caller} {p : List Byte} {s : State} (long : 10 ≤ p.length)
include long

theorem opVoiceStop_of_bad_field (h : modeAt p 2 = none ∨ whenAt p 3 = none) : opVoiceStop c p s = refuse .badField s := by
  simp only [opVoiceStop, needs_of_le long]
  rcases h with h | h
  · rw [h]
  · rw [h]
    cases modeAt p 2 <;> rfl

variable {mode : Mode} (hm : modeAt p 2 = some mode) {w : When} (hw : whenAt p 3 = some w)
include hm hw

theorem opVoiceStop_of_unresolved {r : Result} (h : resolveWhen c w = .error r) : opVoiceStop c p s = refuse r s := by
  simp [opVoiceStop, long, hm, hw, h]

variable {w' : When} (resolved : resolveWhen c w = .ok w')
include resolved

theorem opVoiceStop_of_out_of_range (h : 7 < u8 p 0 ∨ 3 < u8 p 1) : opVoiceStop c p s = refuse .outOfRange s := by
  simp only [opVoiceStop, needs_of_le long, hm, hw, resolved]
  rcases h with h | h
  · rw [fin?_of_le (Nat.succ_le_of_lt h)]
  · rw [fin?_of_le (n := 4) (Nat.succ_le_of_lt h)]
    cases fin? 8 (u8 p 0) <;> rfl

theorem opVoiceStop_of_voice {l : Fin 8} {v : Fin 4} (hl : u8 p 0 = l.val) (hv : u8 p 1 = v.val) :
    opVoiceStop c p s = placeEntry s l w' (.voiceStop v mode) := by
  simp [opVoiceStop, long, hm, hw, resolved, fin?_of_eq hl, fin?_of_eq hv]

end

section
variable {c : Caller} {p : List Byte} {s : State} (long : 13 ≤ p.length)
include long

theorem opVoiceGain_of_no_when (h : whenAt p 6 = none) : opVoiceGain c p s = refuse .badField s := by
  simp [opVoiceGain, long, h]

variable {w : When} (hw : whenAt p 6 = some w)
include hw

theorem opVoiceGain_of_unresolved {r : Result} (h : resolveWhen c w = .error r) : opVoiceGain c p s = refuse r s := by
  simp [opVoiceGain, long, hw, h]

variable {w' : When} (resolved : resolveWhen c w = .ok w')
include resolved

theorem opVoiceGain_of_out_of_range (h : 7 < u8 p 0 ∨ 3 < u8 p 1 ∨ s16 p 2 < -900 ∨ 60 < s16 p 2) :
    opVoiceGain c p s = refuse .outOfRange s := by
  simp only [opVoiceGain, needs_of_le long, hw, resolved]
  rcases h with h | h | h
  · rw [fin?_of_le (Nat.succ_le_of_lt h)]
  · rw [fin?_of_le (n := 4) (Nat.succ_le_of_lt h)]
    cases fin? 8 (u8 p 0) <;> rfl
  · rw [gainInRange_eq_false.mpr h]
    cases fin? 8 (u8 p 0) <;> cases fin? 4 (u8 p 1) <;> rfl

theorem opVoiceGain_of_voice {l : Fin 8} {v : Fin 4} (hl : u8 p 0 = l.val) (hv : u8 p 1 = v.val)
    (low : -900 ≤ s16 p 2) (high : s16 p 2 ≤ 60) :
    opVoiceGain c p s = placeEntry s l w' (.voiceGain v (s16 p 2) (u16 p 4)) := by
  have inRange : gainInRange (s16 p 2) = true := by simp [gainInRange, low, high]
  simp [opVoiceGain, long, hw, resolved, fin?_of_eq hl, fin?_of_eq hv, inRange]

end

/-! ## A stop and a gain applied in a block (R24 to R26) -/

section
variable (k : Block) (l : Fin 8) (v : Fin 4)

theorem applyStop_fades (playing : (k.dev.voice l v).state = .playing) (ramp : k.dev.rampOf (k.dev.voice l v) ≠ 0) :
    k.applyStop l v .soft =
      { k with
        dev := k.dev.setVoice l v
          { k.dev.voice l v with state := .fading, stopFade := some (k.dev.rampOf (k.dev.voice l v)) } } := by
  simp [Block.applyStop, playing, ramp]

theorem applyStop_soft_of_other (h : (k.dev.voice l v).state = .fading ∨ (k.dev.voice l v).state = .idle ∨
    (k.dev.voice l v).state = .pending) : k.applyStop l v .soft = k := by
  rcases h with h | h | h <;> simp [Block.applyStop, h]

theorem applyStop_hard_of_other (h : (k.dev.voice l v).state = .idle ∨ (k.dev.voice l v).state = .pending) :
    k.applyStop l v .hard = k := by
  rcases h with h | h <;> simp [Block.applyStop, h]

theorem applyStop_ends {mode : Mode} (h : (k.dev.voice l v).state = .stalled ∨
    (k.dev.voice l v).state = .playing ∧ (mode = .hard ∨ k.dev.rampOf (k.dev.voice l v) = 0) ∨
    (k.dev.voice l v).state = .fading ∧ mode = .hard) : k.applyStop l v mode = k.endSegment l v .stopped := by
  rcases h with h | ⟨h, rfl | ramp⟩ | ⟨h, rfl⟩
  · simp [Block.applyStop, h]
  · simp [Block.applyStop, h]
  · cases mode <;> simp [Block.applyStop, h, ramp]
  · simp [Block.applyStop, h]

theorem applyGain_of_current (gain : Int) (ramp : Nat) (h : (k.dev.voice l v).state = .playing ∨
    (k.dev.voice l v).state = .stalled ∨ (k.dev.voice l v).state = .fading) :
    k.applyGain l v gain ramp =
      { k with
        dev := k.dev.setVoice l v { (k.dev.voice l v).rampTo (gainAmplitude gain) ramp with gainOverride := true } } := by
  rcases h with h | h | h <;> simp [Block.applyGain, h]

theorem applyGain_of_other (gain : Int) (ramp : Nat) (h : (k.dev.voice l v).state = .idle ∨ (k.dev.voice l v).state = .pending) :
    k.applyGain l v gain ramp = k := by
  rcases h with h | h <;> simp [Block.applyGain, h]

end

/-- The ramp of the segment that a voice plays. -/
theorem rampOf_eq (d : Device) (x : Voice) : d.rampOf x = x.current.elim 0 fun g => (d.segment g).fixed.ramp := by
  unfold Device.rampOf
  cases x.current <;> rfl

/-- Settles O11: the entries are placed (`placeEntry_eq`), and applied each acts by the state of its voice. -/
theorem voiceStopAndGainEnterTheSchedule : Obligations.VoiceStopAndGainEnterTheSchedule := by
  unfold Obligations.VoiceStopAndGainEnterTheSchedule
  refine ⟨fun via s p ask long => ?stop, fun via s p ask long => ?gain, fun k l v t stamp => ?applied⟩
  case stop =>
    refine ⟨fun h => ?_, fun mode w r hm hw h => ?_, fun mode w w' hm hw resolved => ⟨fun h => ?_, fun l v hl hv => ?_⟩⟩
    · exact exec_refuses rfl ask (opVoiceStop_of_bad_field long h)
    · exact exec_refuses rfl ask (opVoiceStop_of_unresolved long hm hw h)
    · exact exec_refuses rfl ask (opVoiceStop_of_out_of_range long hm hw resolved h)
    · exact exec_asked rfl ask ((opVoiceStop_of_voice long hm hw resolved hl hv).trans (placeEntry_eq ..))
  case gain =>
    refine ⟨fun h => ?_, fun w r hw h => ?_, fun w w' hw resolved => ⟨fun h => ?_, fun l v hl hv low high => ?_⟩⟩
    · exact exec_refuses rfl ask (opVoiceGain_of_no_when long h)
    · exact exec_refuses rfl ask (opVoiceGain_of_unresolved long hw h)
    · exact exec_refuses rfl ask (opVoiceGain_of_out_of_range long hw resolved h)
    · exact exec_asked rfl ask ((opVoiceGain_of_voice long hw resolved hl hv low high).trans (placeEntry_eq ..))
  case applied =>
    intro x ramp fading stops
    have isRamp : k.dev.rampOf x = ramp := rampOf_eq k.dev x
    refine ⟨fun playing long => ?_, applyStop_soft_of_other k l v, applyStop_hard_of_other k l v, fun mode h => ?_,
      fun gain length => ⟨applyGain_of_current k l v gain length, applyGain_of_other k l v gain length⟩⟩
    · have fades := applyStop_fades k l v playing (by rw [isRamp]; exact Nat.pos_iff_ne_zero.mp long)
      rw [isRamp] at fades
      exact fades
    · have ends : stops mode = k.endSegment l v .stopped := applyStop_ends k l v (by rw [isRamp]; exact h)
      rw [ends, block_endSegment_dev, block_endSegment_events, endEvent_eq]
      refine ⟨voice_updVoice_same .., ?_, fun m w other => voice_updVoice_other _ _ _ _ other⟩
      by_cases event : x.hot.any Hot.endEvent = true
      · rw [if_pos event, if_pos event]
        rfl
      · rw [if_neg event, if_neg event, List.append_nil]

end Sys2Proof.Machine
end

section
/-!
SUPPORT. The lane operations that set a lane's state and settings, the freeze entry, and the clock domains (R34 to R38, R46, R47,
R50, R51, R53).
-/
namespace Sys2Proof.Machine

/-! ## LANE_CONFIG (R36) -/

/-- The lane with the settings of a LANE_CONFIG, in the manual's terms: the gain acts by lane state. -/
def Lane.configured (x : Lane) (i : DomainId) (ramp : Nat) (gain : Int) (meter : Bool) : Lane :=
  let y : Lane :=
    { x with
      domain := i, freezeRamp := ramp, masterGain := gain, meterInFreeze := meter
      rampLeft := if x.rampDue then ramp else x.rampLeft }
  match x.state with
  | .stopped | .armed => { y with ampNow := gainAmplitude gain, ampTarget := gainAmplitude gain }
  | .running => if gain = x.masterGain then y
      else { y with ampTarget := gainAmplitude gain, rampLeft := ramp, rampDue := true }
  | .freezing | .frozen => y

theorem configure_eq (x : Lane) (i : DomainId) (ramp : Nat) (gain : Int) (meter : Bool) :
    x.configure i ramp gain meter = x.configured i ramp gain meter := by
  unfold Lane.configure Lane.newGain Lane.configured
  cases x.state with
  | stopped => rfl
  | armed => rfl
  | running =>
    dsimp only
    by_cases same : gain = x.masterGain
    · rw [if_pos same, if_pos same, same]
    · rw [if_neg same, if_neg same]
  | freezing => rfl
  | frozen => rfl

section
variable {c : Caller} {p : List Byte} {s : State} (long : 7 ≤ p.length)
include long

theorem opLaneConfig_of_no_domain (h : domainAt p 1 = none) : opLaneConfig c p s = refuse .badField s := by
  simp [opLaneConfig, long, h]

variable {i : DomainId} (hi : domainAt p 1 = some i)
include hi

theorem opLaneConfig_of_out_of_range (h : 7 < u8 p 0 ∨ s16 p 4 < -900 ∨ 60 < s16 p 4) :
    opLaneConfig c p s = refuse .outOfRange s := by
  simp only [opLaneConfig, needs_of_le long, hi]
  cases hl : fin? 8 (u8 p 0) with
  | none => rfl
  | some l =>
    have low : ¬ 7 < u8 p 0 := by rw [fin?_eq_some.mp hl]; omega
    exact if_pos (gainInRange_eq_false.mpr (h.resolve_left low))

theorem opLaneConfig_of_in_range {l : Fin 8} (hl : u8 p 0 = l.val) (low : -900 ≤ s16 p 4) (high : s16 p 4 ≤ 60) :
    opLaneConfig c p s =
      if (s.dev.lane l).domain ≠ i ∧ (s.dev.lane l).state ≠ .stopped then refuse .busy s
      else done (s.dev.setLane l ((s.dev.lane l).configured i (u16 p 2) (s16 p 4) (flagAt p 6))) := by
  have inRange : ¬ gainInRange (s16 p 4) = false := fun h => by
    have := gainInRange_eq_false.mp h
    omega
  simp only [opLaneConfig, needs_of_le long, hi, fin?_of_eq hl, if_neg inRange, Device.updLane, configure_eq]

end

/-- Settles O15: the gain acts by lane state as in `Lane.configured`. -/
theorem laneConfigStoresItsSettings : Obligations.LaneConfigStoresItsSettings := by
  unfold Obligations.LaneConfigStoresItsSettings
  intro s p ask long
  refine ⟨fun h => request_refuses rfl ask (opLaneConfig_of_no_domain long h), fun i hi =>
    ⟨fun h => request_refuses rfl ask (opLaneConfig_of_out_of_range long hi h), fun l hl low high => ?_⟩⟩
  intro x gain y x'
  have out := opLaneConfig_of_in_range (c := .request) (s := begun .request s) long hi hl low high
  rw [begun_request_dev] at out
  exact exec_ite (fun busy => request_refuses rfl ask (out.trans (if_pos busy)))
    fun free => exec_does rfl ask (out.trans (if_neg free))

/-! ## LANE_ARM (R37) -/

theorem startModeAt_of_lt {p : List Byte} {i : Nat} (h : 1 < u8 p i) : startModeAt p i = none := by
  unfold startModeAt
  split
  · omega
  · omega
  · rfl

theorem startModeAt_immediate {p : List Byte} {i : Nat} (h : u8 p i = 0) : startModeAt p i = some none := by
  rw [startModeAt, h]; rfl

theorem startModeAt_trigger {p : List Byte} {i : Nat} (h : u8 p i = 1) : startModeAt p i = some (some (fin? 4 (u8 p (i + 1)))) := by
  rw [startModeAt, h]; rfl

section
variable {c : Caller} {p : List Byte} {s : State} (long : 3 ≤ p.length)
include long

theorem opLaneArm_of_no_mode (h : 1 < u8 p 1) : opLaneArm c p s = refuse .badField s := by
  simp [opLaneArm, long, startModeAt_of_lt h]

theorem opLaneArm_of_out_of_range (mode : u8 p 1 ≤ 1) (h : 7 < u8 p 0 ∨ u8 p 1 = 1 ∧ 3 < u8 p 2) :
    opLaneArm c p s = refuse .outOfRange s := by
  simp only [opLaneArm, needs_of_le long]
  rcases h with h | ⟨h, trigger⟩
  · rw [fin?_of_le (n := 8) (Nat.succ_le_of_lt h)]
    obtain zero | one : u8 p 1 = 0 ∨ u8 p 1 = 1 := by omega
    · rw [startModeAt_immediate zero]
    · rw [startModeAt_trigger one]
  · rw [startModeAt_trigger h, fin?_of_le (n := 4) (Nat.succ_le_of_lt trigger)]
    cases fin? 8 (u8 p 0) <;> rfl

theorem opLaneArm_of_mode {l : Fin 8} (hl : u8 p 0 = l.val) {mode : StartMode}
    (h : mode = .immediate ∧ u8 p 1 = 0 ∨ ∃ n : Fin 4, mode = .trigger n ∧ u8 p 1 = 1 ∧ u8 p 2 = n.val) :
    opLaneArm c p s = armLane s l mode := by
  rcases h with ⟨rfl, code⟩ | ⟨n, rfl, code, hn⟩
  · simp [opLaneArm, long, startModeAt_immediate code, fin?_of_eq hl]
  · simp [opLaneArm, long, startModeAt_trigger code, fin?_of_eq hl, fin?_of_eq hn]

end

/-- Settles O16: the last two checks are those of `armLane`. -/
theorem laneArmPutsTheLaneInArmed : Obligations.LaneArmPutsTheLaneInArmed := by
  unfold Obligations.LaneArmPutsTheLaneInArmed
  intro s p ask long
  refine ⟨fun h => request_refuses rfl ask (opLaneArm_of_no_mode long h),
    fun mode h => request_refuses rfl ask (opLaneArm_of_out_of_range long mode h), fun l mode hl h => ?_⟩
  intro x x'
  have out := opLaneArm_of_mode (c := .request) (s := begun .request s) long hl h
  unfold armLane at out
  rw [begun_request_dev] at out
  exact exec_ite (fun busy => request_refuses rfl ask (out.trans (if_pos busy)))
    fun free => exec_ite (fun waiting => request_refuses rfl ask (out.trans ((if_neg free).trans (if_pos waiting))))
      fun ready => exec_does rfl ask (out.trans ((if_neg free).trans (if_neg ready)))

/-! ## LANE_START and LANE_RESUME (R38, R50) -/

/-- Settles O17: each acts by lane state. -/
theorem laneStartAndResumeActByLaneState : Obligations.LaneStartAndResumeActByLaneState := by
  unfold Obligations.LaneStartAndResumeActByLaneState
  intro via s p long d
  refine ⟨fun ask h => exec_refuses rfl ask (onLane_of_no_lane long h),
    fun ask h => exec_refuses rfl ask (onLane_of_no_lane long h), fun l hl => ?_⟩
  intro x started resumed thawed
  refine ⟨fun ask => ?start, fun ask => ?resume⟩
  case start =>
    have out : opLaneStart (callerOf via s) p (begun via s) = startLane (begun via s) l := onLane_of_lane long hl
    exact exec_ite (fun stopped => exec_refuses rfl ask (out.trans (if_pos stopped)))
      fun going => exec_ite (fun armed => exec_does rfl ask (out.trans ((if_neg going).trans (if_pos armed))))
        fun other => exec_does rfl ask (out.trans ((if_neg going).trans (if_neg other)))
  case resume =>
    have out : opLaneResume (callerOf via s) p (begun via s) = done (d.resumeLane l) := onLane_of_lane long hl
    rw [exec_does rfl ask out]
    unfold Device.resumeLane
    change Host.Outcome.next (concluded via s (match x.state with
      | .frozen => (d.thawMarkers l).setLane l (x.resume Val.zero)
      | .freezing => d.setLane l (x.resume x.ampNow)
      | .stopped | .armed | .running => d) .ok []) = _
    cases x.state <;> rfl

/-! ## LANE_FREEZE (R46, R47) -/

section
variable {c : Caller} {p : List Byte} {s : State} (long : 9 ≤ p.length)
include long

theorem opLaneFreeze_of_bad_field (h : modeAt p 1 = none ∨ whenAt p 2 = none) : opLaneFreeze c p s = refuse .badField s := by
  simp only [opLaneFreeze, needs_of_le long]
  rcases h with h | h
  · rw [h]
  · rw [h]
    cases modeAt p 1 <;> rfl

variable {mode : Mode} (hm : modeAt p 1 = some mode) {w : When} (hw : whenAt p 2 = some w)
include hm hw

theorem opLaneFreeze_of_unresolved {r : Result} (h : resolveWhen c w = .error r) : opLaneFreeze c p s = refuse r s := by
  simp [opLaneFreeze, long, hm, hw, h]

variable {w' : When} (resolved : resolveWhen c w = .ok w')
include resolved

theorem opLaneFreeze_of_no_lane (h : 7 < u8 p 0) : opLaneFreeze c p s = refuse .outOfRange s := by
  simp [opLaneFreeze, long, hm, hw, resolved, fin?_of_le (Nat.succ_le_of_lt h)]

theorem opLaneFreeze_of_lane {l : Fin 8} (hl : u8 p 0 = l.val) :
    opLaneFreeze c p s = if w'.isRel = true then refuse .badField s else freezeEntry s l mode w' := by
  simp [opLaneFreeze, long, hm, hw, resolved, fin?_of_eq hl]

end

/-- An entry placed, in the manual's terms (R12, R40). -/
theorem place_eq (d : Device) (l : Fin 8) (w : When) (kind : EntryKind) :
    d.place l w kind = d.setLane l
      { d.lane l with schedule := placed { stamp := stampAt (d.lane l) w, kind := kind } (d.lane l).schedule } := by
  rw [Device.place, stampOf_eq, Device.schedule, Device.updLane, insertEntry_eq]
  rfl

/-- Settles O19: the checks are those of `freezeEntry`, and a soft freeze applied is `Lane.softFreeze`. -/
theorem laneFreezeEntersTheSchedule : Obligations.LaneFreezeEntersTheSchedule := by
  unfold Obligations.LaneFreezeEntersTheSchedule
  refine ⟨fun via s p ask long => ⟨fun h => ?_, fun mode w r hm hw h => ?_, fun mode w w' hm hw resolved =>
    ⟨fun h => ?_, fun l hl => ?entry⟩⟩, fun k l t stamp => ?applied⟩
  · exact exec_refuses rfl ask (opLaneFreeze_of_bad_field long h)
  · exact exec_refuses rfl ask (opLaneFreeze_of_unresolved long hm hw h)
  · exact exec_refuses rfl ask (opLaneFreeze_of_no_lane long hm hw resolved h)
  case entry =>
    intro x x'
    have out := opLaneFreeze_of_lane (s := begun via s) long hm hw resolved hl
    have entry : freezeEntry (begun via s) l mode w' = if x.state = .stopped ∨ x.state = .armed then refuse .busy (begun via s)
        else if x.state = .frozen then done (begun via s).dev
        else if 16 ≤ x.schedule.length then refuse .full (begun via s)
        else done ((begun via s).dev.setLane l x') := by
      unfold freezeEntry
      simp only [Lane.full, decide_eq_true_eq, place_eq]
      rfl
    rw [entry] at out
    exact exec_ite (fun relative => exec_refuses rfl ask (out.trans (if_pos relative)))
      fun absolute => exec_ite (fun still => exec_refuses rfl ask (out.trans ((if_neg absolute).trans (if_pos still))))
        fun moving => exec_ite
          (fun frozen => exec_does rfl ask (out.trans ((if_neg absolute).trans ((if_neg moving).trans (if_pos frozen)))))
          fun running => exec_ite
            (fun full => exec_refuses rfl ask
              (out.trans ((if_neg absolute).trans ((if_neg moving).trans ((if_neg running).trans (if_pos full))))))
            fun room => exec_does rfl ask
              (out.trans ((if_neg absolute).trans ((if_neg moving).trans ((if_neg running).trans (if_neg room)))))
  case applied =>
    intro x y frozen
    have applied : frozen = { k with dev := k.dev.setLane l x.softFreeze } := rfl
    refine ⟨fun running => ?_, fun other => ?_⟩
    · rw [applied, Lane.softFreeze, if_pos running]
    · have same : k.dev.setLane l x = k.dev := by
        unfold Device.setLane
        rw [show x = k.dev.lanes.get l from rfl, put_get_self]
      rw [applied, Lane.softFreeze, if_neg other, same]

end Sys2Proof.Machine
end

section
/-!
SUPPORT. LANE_QUIET, LANE_COMPARE_SET and the clock domains (R33 to R35, R51, R53).
-/
namespace Sys2Proof.Machine

/-! ## LANE_QUIET and LANE_COMPARE_SET (R51, R53) -/

theorem quietOrderAt_of_lt {p : List Byte} {i : Nat} (h : 2 < u8 p i) : quietOrderAt p i = none := by
  unfold quietOrderAt
  split
  · omega
  · omega
  · omega
  · rfl

theorem quietOrderAt_on {p : List Byte} {i : Nat} (h : u8 p i = 0) : quietOrderAt p i = some .on := by
  rw [quietOrderAt, h]; rfl

theorem quietOrderAt_off {p : List Byte} {i : Nat} (h : u8 p i = 1) : quietOrderAt p i = some .off := by
  rw [quietOrderAt, h]; rfl

theorem quietOrderAt_offForce {p : List Byte} {i : Nat} (h : u8 p i = 2) : quietOrderAt p i = some .offForce := by
  rw [quietOrderAt, h]; rfl

theorem boolEnumAt_of_lt {p : List Byte} {i : Nat} (h : 1 < u8 p i) : boolEnumAt p i = none := by
  unfold boolEnumAt
  split
  · omega
  · omega
  · rfl

theorem boolEnumAt_of_le {p : List Byte} {i : Nat} (h : u8 p i ≤ 1) : boolEnumAt p i = some (decide (u8 p i = 1)) := by
  obtain zero | one : u8 p i = 0 ∨ u8 p i = 1 := by omega
  · rw [boolEnumAt, zero]; rfl
  · rw [boolEnumAt, one]; rfl

/-- The three orders of LANE_QUIET have the codes up to 2. -/
theorem quietOrderAt_of_le {p : List Byte} {i : Nat} (h : u8 p i ≤ 2) : ∃ o, quietOrderAt p i = some o := by
  obtain zero | one | two : u8 p i = 0 ∨ u8 p i = 1 ∨ u8 p i = 2 := by omega
  · exact ⟨_, quietOrderAt_on zero⟩
  · exact ⟨_, quietOrderAt_off one⟩
  · exact ⟨_, quietOrderAt_offForce two⟩

section
variable {c : Caller} {p : List Byte} {s : State}

theorem opLaneQuiet_of_no_order (long : 2 ≤ p.length) (h : 2 < u8 p 1) : opLaneQuiet c p s = refuse .badField s := by
  simp [opLaneQuiet, long, quietOrderAt_of_lt h]

theorem opLaneQuiet_of_no_lane (long : 2 ≤ p.length) (order : u8 p 1 ≤ 2) (h : 7 < u8 p 0) :
    opLaneQuiet c p s = refuse .outOfRange s := by
  obtain ⟨o, ho⟩ := quietOrderAt_of_le order
  simp [opLaneQuiet, long, ho, fin?_of_le (Nat.succ_le_of_lt h)]

theorem opLaneQuiet_of_order (long : 2 ≤ p.length) {o : QuietOrder} (ho : quietOrderAt p 1 = some o) {l : Fin 8} (hl : u8 p 0 = l.val) :
    opLaneQuiet c p s = done (s.dev.setLane l ((s.dev.lane l).orderQuiet o)) := by
  simp only [opLaneQuiet, needs_of_le long, ho, fin?_of_eq hl, Device.updLane]

theorem opLaneCompareSet_of_no_flag (long : 8 ≤ p.length) (h : 1 < u8 p 1) : opLaneCompareSet c p s = refuse .badField s := by
  simp [opLaneCompareSet, long, boolEnumAt_of_lt h]

theorem opLaneCompareSet_of_no_lane (long : 8 ≤ p.length) (flag : u8 p 1 ≤ 1) (h : 7 < u8 p 0) :
    opLaneCompareSet c p s = refuse .outOfRange s := by
  simp [opLaneCompareSet, long, boolEnumAt_of_le flag, fin?_of_le (Nat.succ_le_of_lt h)]

theorem opLaneCompareSet_of_lane (long : 8 ≤ p.length) (flag : u8 p 1 ≤ 1) {l : Fin 8} (hl : u8 p 0 = l.val) :
    opLaneCompareSet c p s =
      done (s.dev.setLane l { s.dev.lane l with compare := if u8 p 1 = 1 then some (u48 p 2) else none }) := by
  simp only [opLaneCompareSet, needs_of_le long, boolEnumAt_of_le flag, fin?_of_eq hl, Device.updLane, decide_eq_true_eq]

end

/-- Settles O20: neither operation looks at the lane's state. -/
theorem laneQuietAndCompareActInAnyState : Obligations.LaneQuietAndCompareActInAnyState := by
  unfold Obligations.LaneQuietAndCompareActInAnyState
  intro s p
  refine ⟨fun ask long => ⟨fun h => ?_, fun order h => ?_, fun l order hl => ?quiet⟩,
    fun ask long => ⟨fun h => ?_, fun flag h => ?_, fun l flag hl => ?compare⟩⟩
  · exact request_refuses rfl ask (opLaneQuiet_of_no_order long h)
  · exact request_refuses rfl ask (opLaneQuiet_of_no_lane long order h)
  case quiet =>
    have out {o : QuietOrder} (ho : quietOrderAt p 1 = some o) :=
      exec_does (c := .laneQuiet) rfl ask (opLaneQuiet_of_order long ho hl)
    rw [begun_request_dev] at out
    dsimp only
    split
    case h_1 on => exact out (quietOrderAt_on on)
    case h_2 off => exact out (quietOrderAt_off off)
    case h_3 not_on not_off =>
      have force : u8 p 1 = 2 := by
        have : u8 p 1 ≠ 0 := not_on
        have : u8 p 1 ≠ 1 := not_off
        omega
      exact out (quietOrderAt_offForce force)
  · exact request_refuses rfl ask (opLaneCompareSet_of_no_flag long h)
  · exact request_refuses rfl ask (opLaneCompareSet_of_no_lane long flag h)
  case compare =>
    have out := exec_does (c := .laneCompareSet) rfl ask (opLaneCompareSet_of_lane long flag hl)
    rw [begun_request_dev] at out
    exact out

/-! ## DOMAIN_SET and the settle timer (R33 to R35) -/

section
variable {c : Caller} {p : List Byte} {s : State} (long : 3 ≤ p.length)
include long

theorem opDomainSet_of_out_of_range (h : 1 < u8 p 0 ∨ 7 < u8 p 1) : opDomainSet c p s = refuse .outOfRange s := by
  simp only [opDomainSet, needs_of_le long]
  rcases h with h | h
  · rw [domainAt_of_lt h]
  · cases domainAt p 0 with
    | none => rfl
    | some i => exact if_pos h

theorem opDomainSet_of_domain {i : DomainId} (hi : u8 p 0 = domainCode i) (rate : u8 p 1 ≤ 7) :
    opDomainSet c p s =
      if 3 < u8 p 2 then refuse .badField s
      else if ∃ l, (s.dev.lane l).domain = i ∧ (s.dev.lane l).state ≠ .stopped then refuse .busy s
      else done (s.dev.setDomain i { s.dev.domain i with
        state := .settling, rate := u8 p 1, settle := u8 p 2, settleEnds := some (s.dev.now + settleTime (u8 p 2)) }) := by
  have going : (s.dev.lanesOf i).any (fun l => (s.dev.lane l).state ≠ .stopped) = true ↔
      ∃ l, (s.dev.lane l).domain = i ∧ (s.dev.lane l).state ≠ .stopped := by
    simp [Device.lanesOf]
  simp only [opDomainSet, needs_of_le long, domainAt_of_code hi, if_neg (Nat.not_lt.mpr rate), going]

end

theorem settleExpires_of_settling {d : Device} {i : DomainId} {moment : Nat} (settling : (d.domain i).state = .settling)
    (ends : (d.domain i).settleEnds = some moment) :
    d.settleExpires i = ((d.reach moment).setDomain i
      { d.domain i with state := .ready, settleEnds := none, readyAt := max d.now moment }).raise (srcDomainReady i)
        (BitVec.ofNat 8 (d.domain i).rate) := by
  unfold Device.settleExpires
  dsimp only
  rw [settling, ends]
  rfl

/-- Settles O21: the four settle times are the powers of ten that `settleTime` gives, and the timer's expiry is its own equation. -/
theorem domainSetSettlesAndThenIsReady : Obligations.DomainSetSettlesAndThenIsReady := by
  unfold Obligations.DomainSetSettlesAndThenIsReady
  refine ⟨fun s p ask long => ⟨fun h => ?_, fun i hi rate => ?set⟩, fun s i moment settling ends => ?expires⟩
  · exact request_refuses rfl ask (opDomainSet_of_out_of_range long h)
  case set =>
    intro micros x
    have out := opDomainSet_of_domain (c := .request) (s := begun .request s) long hi rate
    rw [begun_request_dev] at out
    refine exec_ite (fun bad => request_refuses rfl ask (out.trans (if_pos bad)))
      fun good => exec_ite (fun busy => request_refuses rfl ask (out.trans ((if_neg good).trans (if_pos busy))))
        fun free => ?_
    have time : settleTime (u8 p 2) = micros * 30720 := by
      simp only [micros]
      split
      case h_1 code => rw [code]; rfl
      case h_2 code => rw [code]; rfl
      case h_3 code => rw [code]; rfl
      case h_4 not0 not1 not2 =>
        have code : u8 p 2 = 3 := by
          have : u8 p 2 ≠ 0 := not0
          have : u8 p 2 ≠ 1 := not1
          have : u8 p 2 ≠ 2 := not2
          omega
        rw [code]
        rfl
    rw [exec_does rfl ask (out.trans ((if_neg good).trans (if_neg free))), time]
    cases i <;> rfl
  case expires =>
    have expired := settleExpires_of_settling settling ends
    change Host.Outcome.next { s with dev := s.dev.settleExpires i } = _
    rw [expired]
    cases i <;> rfl

end Sys2Proof.Machine
end

section
/-!
SUPPORT. The Tag Table, STREAM_OPEN, STREAM_CLOSE and POOL_CONFIG (R56, R57, R61 to R63, R77).
-/
namespace Sys2Proof.Machine

/-! ## An operation that checks and then acts -/

/-- The refusal that a result other than OK is. -/
def Result.refusal (r : Result) : Option Result := if r = .ok then none else some r

/-- What an operation gives that refuses with a result, or leaves the blocks `d` when the result is OK. -/
def ofResult (r : Result) (s : State) (d : Device) : OpOut := if r = .ok then done d else refuse r s

/-- A request that checks and then acts. -/
theorem request_result {c : Instr} {kind : Byte} {op : Op} {s : State} {p : List Byte} {r : Result} {d : Device}
    (found : operationOf c = some (.request, kind, op)) (ask : asked .request kind s p = true)
    (out : op .request p (begun .request s) = ofResult r (begun .request s) d) :
    exec c s = .next (concluded .request s (if r = .ok then d else s.dev) r []) := by
  unfold ofResult at out
  split
  · rename_i ok
    rw [if_pos ok] at out
    rw [exec_does found ask out, ok]
  · rename_i bad
    rw [if_neg bad] at out
    exact request_refuses found ask out

/-! ## The Tag Table (R56, R57) -/

theorem tagActionAt_of_lt {p : List Byte} {i : Nat} (h : 1 < u8 p i) : tagActionAt p i = none := by
  rw [tagActionAt, boolEnumAt_of_lt h]
  rfl

theorem tagActionAt_of_le {p : List Byte} {i : Nat} (h : u8 p i ≤ 1) : tagActionAt p i = some (decide (u8 p i = 0)) := by
  obtain zero | one : u8 p i = 0 ∨ u8 p i = 1 := by omega
  · rw [tagActionAt, boolEnumAt_of_le h, zero]; rfl
  · rw [tagActionAt, boolEnumAt_of_le h, one]; rfl

/-- The entry that TAG_WRITE stores. -/
def tagEntryAt (p : List Byte) (toSlot : Bool) : TagEntry :=
  { valid := flagAt p 2, tag := BitVec.ofNat 16 (u16 p 3), toSlot := toSlot, slot := if toSlot then u8 p 6 else 0 }

section
variable {c : Caller} {p : List Byte} {s : State} (long : 7 ≤ p.length)
include long

theorem opTagWrite_of_no_action (h : 1 < u8 p 5) : opTagWrite c p s = refuse .badField s := by
  simp [opTagWrite, long, tagActionAt_of_lt h]

variable (action : u8 p 5 ≤ 1)
include action

theorem opTagWrite_of_out_of_range (h : 31 < u16 p 0) : opTagWrite c p s = refuse .outOfRange s := by
  simp [opTagWrite, long, tagActionAt_of_le action, fin?_of_le (Nat.succ_le_of_lt h)]

theorem opTagWrite_of_entry {n : Fin 32} (hn : u16 p 0 = n.val) {r : Result}
    (h : s.dev.intake.tagWriteCheck n (tagEntryAt p (decide (u8 p 5 = 0))) = r.refusal) :
    opTagWrite c p s = ofResult r s { s.dev with
      intake := { s.dev.intake with tags := put s.dev.intake.tags n (tagEntryAt p (decide (u8 p 5 = 0))) } } := by
  simp only [opTagWrite, needs_of_le long, tagActionAt_of_le action, fin?_of_eq hn]
  rw [tagEntryAt] at h ⊢
  unfold Result.refusal at h
  unfold ofResult
  rw [h]
  by_cases ok : r = .ok
  · rw [if_pos ok, if_pos ok]
  · rw [if_neg ok, if_neg ok]

end

theorem otherTag_iff (k : Intake) (n : Fin 32) (f : TagEntry → Bool) :
    k.otherTag n f = true ↔ ∃ m, m ≠ n ∧ (k.tags.get m).valid = true ∧ f (k.tags.get m) = true := by
  simp [Intake.otherTag, and_assoc]

theorem feedsOpen_iff (k : Intake) (e : TagEntry) :
    k.feedsOpen e = true ↔
      e.valid = true ∧ e.toSlot = true ∧ ∃ i : Fin 16, e.slot = i.val ∧ (k.slots.get i).isOpen = true := by
  simp [Intake.feedsOpen, TagEntry.feeds, and_assoc]

/-- The result of TAG_WRITE in the manual's terms (R56). -/
def Intake.tagWriteResult (k : Intake) (n : Fin 32) (e : TagEntry) : Result :=
  let old := k.tags.get n
  if e.valid = true ∧ (e.tag = 0x0000 ∨ e.tag = 0xFFFF) then .badField
  else if e.toSlot = true ∧ 15 < e.slot then .outOfRange
  else if e.valid = true ∧ (∃ m, m ≠ n ∧ (k.tags.get m).valid = true ∧ (k.tags.get m).tag = e.tag) then .inUse
  else if e.valid = true ∧ e.toSlot = true ∧ (∃ m, m ≠ n ∧ (k.tags.get m).valid = true ∧
    (k.tags.get m).toSlot = true ∧ (k.tags.get m).slot = e.slot) then .inUse
  else if old.valid = true ∧ old.toSlot = true ∧ (∃ i : Fin 16, old.slot = i.val ∧ (k.slots.get i).isOpen = true) ∧
    old ≠ e then .inUse
  else .ok

theorem tagWriteCheck_eq (k : Intake) (n : Fin 32) (e : TagEntry) :
    k.tagWriteCheck n e = (k.tagWriteResult n e).refusal := by
  unfold Intake.tagWriteCheck Intake.tagWriteResult
  simp only [otherTag_iff, feedsOpen_iff, Bool.and_eq_true, decide_eq_true_eq, and_assoc, ← Nat.lt_iff_add_one_le,
    apply_ite Result.refusal]
  rfl

section
variable {c : Caller} {p : List Byte} {s : State} (long : 2 ≤ p.length)
include long

theorem opTagRead_of_out_of_range (h : 31 < u16 p 0) : opTagRead c p s = refuse .outOfRange s := by
  simp [opTagRead, long, fin?_of_le (Nat.succ_le_of_lt h)]

theorem opTagRead_of_entry {n : Fin 32} (hn : u16 p 0 = n.val) :
    opTagRead c p s = answer [.one (bFlag (s.dev.intake.tags.get n).valid ++ b16 (s.dev.intake.tags.get n).tag.toNat ++
      b8 (if (s.dev.intake.tags.get n).toSlot then 0 else 1) ++ b8 (s.dev.intake.tags.get n).slot)] s := by
  simp [opTagRead, long, fin?_of_eq hn]

end

/-- Settles O26: the checks of TAG_WRITE are `tagWriteResult`. -/
theorem tagWriteStoresAndTagReadReturns : Obligations.TagWriteStoresAndTagReadReturns := by
  unfold Obligations.TagWriteStoresAndTagReadReturns
  refine ⟨fun s p ask long => ⟨fun h => ?_, fun action h => ?_, fun n action hn => ?write⟩,
    fun s p ask long => ⟨fun h => ?_, fun n hn => ?read⟩⟩
  · exact request_refuses rfl ask (opTagWrite_of_no_action long h)
  · exact request_refuses rfl ask (opTagWrite_of_out_of_range long action h)
  case write =>
    have out := opTagWrite_of_entry (c := .request) (s := begun .request s) long action hn (tagWriteCheck_eq _ _ _)
    rw [begun_request_dev] at out
    exact request_result rfl ask out
  · exact request_refuses rfl ask (opTagRead_of_out_of_range long h)
  case read =>
    rw [request_answers rfl ask (opTagRead_of_entry long hn) (by rw [begun_request_dev]), pack_one]
    simp [bFlag, b16, b8]

/-! ## STREAM_OPEN (R61, R62) -/

theorem policyAt_of_lt {p : List Byte} {i : Nat} (h : 1 < u8 p i) : policyAt p i = none := by
  unfold policyAt
  split
  · omega
  · omega
  · rfl

theorem policyAt_of_le {p : List Byte} {i : Nat} (h : u8 p i ≤ 1) :
    policyAt p i = some (if u8 p i = 0 then .zeroFill else .stall) := by
  obtain zero | one : u8 p i = 0 ∨ u8 p i = 1 := by omega
  · rw [policyAt, zero]; rfl
  · rw [policyAt, one]; rfl

/-- The result of STREAM_OPEN in the manual's terms (R61). -/
def Device.openResult (d : Device) (n : Fin 16) (c : SlotConfig) : Result :=
  if c.quota < 1 ∨ 4096 < c.quota then .outOfRange
  else if c.prime < 1 ∨ c.quota < c.prime then .outOfRange
  else if c.high < 1 ∨ c.quota < c.high then .outOfRange
  else if c.high ≤ c.low then .badField
  else if c.gapLimit < 1 then .outOfRange
  else if (d.slot n).isOpen = true then .busy
  else if d.intake.slotTag n = none then .notReady
  else .ok

section
variable {c : Caller} {p : List Byte} {s : State} (long : 23 ≤ p.length)
include long

theorem opStreamOpen_of_no_policy (h : 1 < u8 p 18) : opStreamOpen c p s = refuse .badField s := by
  simp [opStreamOpen, long, policyAt_of_lt h]

variable (policy : u8 p 18 ≤ 1)
include policy

theorem opStreamOpen_of_no_slot (h : 15 < u8 p 0) : opStreamOpen c p s = refuse .outOfRange s := by
  simp [opStreamOpen, long, policyAt_of_le policy, fin?_of_le (Nat.succ_le_of_lt h)]

theorem opStreamOpen_of_slot {n : Fin 16} (hn : u8 p 0 = n.val) :
    let c' := configAt p (if u8 p 18 = 0 then .zeroFill else .stall)
    opStreamOpen c p s = ofResult (s.dev.openResult n c') s (s.dev.setSlot n ((s.dev.slot n).opened c')) := by
  intro c'
  simp only [opStreamOpen, needs_of_le long, policyAt_of_le policy, fin?_of_eq hn]
  change (match c'.check with
    | some r => refuse r s
    | none => if (s.dev.slot n).isOpen = true then refuse .busy s
        else if s.dev.intake.slotTag n = none then refuse .notReady s
        else done (s.dev.setSlot n ((s.dev.slot n).opened c'))) = _
  unfold SlotConfig.check Device.openResult
  by_cases quota : c'.quota < 1 ∨ 4096 < c'.quota
  · simp only [if_pos quota]; rfl
  by_cases prime : c'.prime < 1 ∨ c'.quota < c'.prime
  · simp only [if_neg quota, if_pos prime]; rfl
  by_cases high : c'.high < 1 ∨ c'.quota < c'.high
  · simp only [if_neg quota, if_neg prime, if_pos high]; rfl
  by_cases low : c'.high ≤ c'.low
  · simp only [if_neg quota, if_neg prime, if_neg high, if_pos low]; rfl
  by_cases gap : c'.gapLimit < 1
  · simp only [if_neg quota, if_neg prime, if_neg high, if_neg low, if_pos gap]; rfl
  simp only [if_neg quota, if_neg prime, if_neg high, if_neg low, if_neg gap]
  by_cases free : (s.dev.slot n).isOpen = true
  · simp only [if_pos free]; rfl
  by_cases tag : s.dev.intake.slotTag n = none
  · simp only [if_neg free, if_pos tag]; rfl
  · simp only [if_neg free, if_neg tag]; rfl

end

/-- Settles O27: the checks of STREAM_OPEN are `openResult`. -/
theorem streamOpenChecksInOrderAndSetsUp : Obligations.StreamOpenChecksInOrderAndSetsUp := by
  unfold Obligations.StreamOpenChecksInOrderAndSetsUp
  refine fun s p ask long => ⟨fun h => ?_, fun policy h => ?_, fun n policy hn => ?accepted⟩
  · exact request_refuses rfl ask (opStreamOpen_of_no_policy long h)
  · exact request_refuses rfl ask (opStreamOpen_of_no_slot long policy h)
  case accepted =>
    have out := opStreamOpen_of_slot (c := .request) (s := begun .request s) long policy hn
    rw [begun_request_dev] at out
    exact request_result rfl ask out

/-! ## POOL_CONFIG (R77, R95) -/

theorem opPoolConfig_of_len {c : Caller} {p : List Byte} {s : State} (long : 8 ≤ p.length) :
    opPoolConfig c p s = if 4095 < u32 p 0 ∨ u32 p 4 < 1 ∨ 4096 < u32 p 0 + u32 p 4 then refuse .outOfRange s
      else done { s.dev with intake := s.dev.intake.configurePool (u32 p 0) (u32 p 4) } := needs_of_le long

/-- Settles O29: the test is the pool flow test on the stored values. -/
theorem poolConfigStoresAndTests : Obligations.PoolConfigStoresAndTests := by
  unfold Obligations.PoolConfigStoresAndTests
  intro s p ask long r y k gives
  have out := opPoolConfig_of_len (c := .request) (s := begun .request s) long
  rw [begun_request_dev] at out
  by_cases bad : 4095 < r ∨ y < 1 ∨ 4096 < r + y
  · rw [if_pos bad]
    exact request_refuses rfl ask (out.trans (if_pos bad))
  · rw [if_neg bad, exec_does (c := .poolConfig) rfl ask (out.trans (if_neg bad)), Intake.configurePool, Intake.poolFlowTest]
    change Host.Outcome.next (concluded .request s { s.dev with intake := if k.pool.hold = false ∧ k.pool.free < r then _
      else if k.pool.hold = true ∧ r + y ≤ k.pool.free then _ else _ } .ok []) = _
    by_cases low : k.pool.hold = false ∧ k.pool.free < r
    · rw [if_pos low, if_pos low]
      rfl
    · rw [if_neg low, if_neg low]
      by_cases high : k.pool.hold = true ∧ r + y ≤ k.pool.free
      · rw [if_pos high, if_pos high]
        rfl
      · rw [if_neg high, if_neg high]

/-! ## A slot shut (R63, R70, R92, R94) -/

theorem tags_poolFlowTest (k : Intake) : k.poolFlowTest.tags = k.tags := by
  unfold Intake.poolFlowTest
  split
  · rfl
  · split <;> rfl

theorem free_poolFlowTest (k : Intake) : k.poolFlowTest.pool.free = k.pool.free := by
  unfold Intake.poolFlowTest
  split
  · rfl
  · split <;> rfl

theorem tags_freeBuffers (k : Intake) (m : Nat) : (k.freeBuffers m).tags = k.tags := by
  unfold Intake.freeBuffers
  split
  · rfl
  · exact tags_poolFlowTest _

theorem free_freeBuffers (k : Intake) (m : Nat) : (k.freeBuffers m).pool.free = k.pool.free + m := by
  unfold Intake.freeBuffers
  split
  · omega
  · exact free_poolFlowTest _

theorem tags_shut (k : Intake) (n : Fin 16) (state : SlotState) (cause : Option StreamCause) :
    (k.shut n state cause).tags = k.tags := by
  unfold Intake.shut
  dsimp only
  rw [tags_freeBuffers]
  split <;> rfl

theorem free_shut (k : Intake) (n : Fin 16) (state : SlotState) (cause : Option StreamCause) :
    (k.shut n state cause).pool.free = k.pool.free + (k.slots.get n).held := by
  unfold Intake.shut
  dsimp only
  rw [free_freeBuffers]
  split <;> rfl

theorem slot_shutSlot_same (d : Device) (n : Fin 16) (state : SlotState) (cause : Option StreamCause) :
    (d.shutSlot n state cause).slot n = (d.slot n).shut state cause := by
  unfold Device.slot Device.shutSlot
  rw [slots_shut, get_put_same]

/-! ## The voices of a slot ended (R29) -/

theorem releaseReader_of_no_readers {d : Device} {n : Fin 16} (h : (d.slot n).readers = []) (index : Nat) :
    d.releaseReader n index = d := by
  unfold Device.releaseReader
  rw [show (d.slot n).reader index = none by rw [Slot.reader, h]; rfl]

theorem intake_endSegment {d : Device} {n : Fin 16} (empty : (d.slot n).readers = []) {l : Fin 8} {v : Fin 4}
    (reads : (d.voice l v).reads n = true) (cause : EndCause) : (d.endSegment l v cause).intake = d.intake := by
  have same : d.releaseBinding l v = d := by
    unfold Voice.reads at reads
    unfold Device.releaseBinding
    cases binding : (d.voice l v).binding with
    | none => rfl
    | some b =>
      cases b with
      | clip => rfl
      | stream t index =>
        rw [binding] at reads
        obtain rfl : t = n := of_decide_eq_true reads
        exact releaseReader_of_no_readers empty index
  unfold Device.endSegment
  dsimp only
  rw [same]
  split
  · split
    · exact raiseAll_intake ..
    · rfl
  · split <;> rfl

theorem intake_cancelStart {d : Device} {n : Fin 16} (empty : (d.slot n).readers = []) {l : Fin 8} {v : Fin 4}
    (claims : (d.voice l v).claims n = true) (cause : EndCause) : (d.cancelStart l v cause).intake = d.intake := by
  unfold Voice.claims at claims
  unfold Device.cancelStart
  cases pending : (d.voice l v).pending with
  | none => rfl
  | some p =>
    rw [pending] at claims
    dsimp only at claims ⊢
    rw [raiseAll_intake]
    change ((d.unschedule l v).releaseClaim p).intake = d.intake
    unfold Device.releaseClaim
    cases claim : p.claim with
    | none => rfl
    | some c =>
      rw [claim] at claims
      obtain rfl : c.1 = n := of_decide_eq_true claims
      exact (congrArg Device.intake (releaseReader_of_no_readers (d := d.unschedule l v) empty c.2)).trans rfl

/-- One voice's turn as the voices of a slot end (R29). -/
def Device.endSlotVoice (d : Device) (n : Fin 16) (cause : EndCause) (x : Fin 8 × Fin 4) : Device :=
  let d := if (d.voice x.1 x.2).reads n then d.endSegment x.1 x.2 cause else d
  if (d.voice x.1 x.2).claims n then d.cancelStart x.1 x.2 cause else d

theorem endSlotVoices_eq (d : Device) (n : Fin 16) (cause : EndCause) :
    d.endSlotVoices n cause = allVoices.foldl (fun d x => d.endSlotVoice n cause x) d := rfl

theorem intake_endSlotVoice {d : Device} {n : Fin 16} (empty : (d.slot n).readers = []) (cause : EndCause) (x : Fin 8 × Fin 4) :
    (d.endSlotVoice n cause x).intake = d.intake := by
  unfold Device.endSlotVoice
  dsimp only
  generalize he : (if (d.voice x.1 x.2).reads n = true then d.endSegment x.1 x.2 cause else d) = e
  have ended : e.intake = d.intake := by
    rw [← he]
    split
    · exact intake_endSegment empty ‹_› cause
    · rfl
  split
  · rw [intake_cancelStart (by unfold Device.slot; rw [ended]; exact empty) ‹_› cause, ended]
  · exact ended

/-- With no reader in the slot, its voices end without a word to the Stream Intake. -/
theorem intake_endSlotVoices {d : Device} {n : Fin 16} (empty : (d.slot n).readers = []) (cause : EndCause) :
    (d.endSlotVoices n cause).intake = d.intake := by
  rw [endSlotVoices_eq]
  refine foldl_keeps (fun e : Device => e.intake = d.intake) _ (fun e x same => ?_) _ _ rfl
  rw [intake_endSlotVoice (by unfold Device.slot; rw [same]; exact empty), same]

/-- A voice that neither reads a slot nor claims one. -/
def Voice.leaves (x : Voice) (n : Fin 16) : Prop := (x.current.isSome = true → x.reads n = false) ∧ x.claims n = false

theorem claims_of_no_pending {x : Voice} {n : Fin 16} (h : x.pending = none) : x.claims n = false := by
  unfold Voice.claims
  rw [h]

theorem reads_afterCancel (x : Voice) (n : Fin 16) (cause : EndCause) : (x.afterCancel cause).reads n = x.reads n := by
  unfold Voice.afterCancel
  split <;> rfl

/-- After its turn a voice has left the slot. -/
theorem voice_endSlotVoice_same (d : Device) (n : Fin 16) (cause : EndCause) (l : Fin 8) (v : Fin 4) :
    ((d.endSlotVoice n cause (l, v)).voice l v).leaves n := by
  unfold Device.endSlotVoice
  dsimp only
  generalize he : (if (d.voice l v).reads n = true then d.endSegment l v cause else d) = e
  have ended : (e.voice l v).current.isSome = true → (e.voice l v).reads n = false := by
    rw [← he]
    split
    · rw [voice_endSegment_same, current_afterEnd]
      exact fun absurd => nomatch absurd
    · exact fun _ => (Bool.not_eq_true _).mp ‹_›
  split
  · rw [voice_cancelStart_same]
    exact ⟨by rw [current_afterCancel, reads_afterCancel]; exact ended, claims_of_no_pending (pending_afterCancel ..)⟩
  · exact ⟨ended, (Bool.not_eq_true _).mp ‹_›⟩

theorem voice_endSlotVoice_other (d : Device) (n : Fin 16) (cause : EndCause) {l m : Fin 8} {v w : Fin 4} (h : m ≠ l ∨ w ≠ v) :
    (d.endSlotVoice n cause (l, v)).voice m w = d.voice m w := by
  unfold Device.endSlotVoice
  dsimp only
  generalize he : (if (d.voice l v).reads n = true then d.endSegment l v cause else d) = e
  have ended : e.voice m w = d.voice m w := by
    rw [← he]
    split
    · exact voice_endSegment_other _ _ _ _ h
    · rfl
  split
  · rw [voice_cancelStart_other _ _ _ _ h, ended]
  · exact ended

theorem mem_allVoices (l : Fin 8) (v : Fin 4) : (l, v) ∈ allVoices := by
  simp [allVoices]

/-- Once the voices of a slot have ended, no voice reads it and no start claims it (R29). -/
theorem leaves_endSlotVoices (d : Device) (n : Fin 16) (cause : EndCause) (l : Fin 8) (v : Fin 4) :
    ((d.endSlotVoices n cause).voice l v).leaves n := by
  have turns (xs : List (Fin 8 × Fin 4)) (d : Device) (h : (l, v) ∈ xs ∨ (d.voice l v).leaves n) :
      ((xs.foldl (fun d x => d.endSlotVoice n cause x) d).voice l v).leaves n := by
    induction xs generalizing d with
    | nil => exact h.resolve_left List.not_mem_nil
    | cons x xs ih =>
      obtain ⟨m, w⟩ := x
      refine ih _ ?_
      by_cases here : m = l ∧ w = v
      · obtain ⟨rfl, rfl⟩ := here
        exact .inr (voice_endSlotVoice_same d n cause m w)
      · have other : l ≠ m ∨ v ≠ w := by
          by_cases lane : l = m
          · exact .inr fun voice => here ⟨lane.symm, voice.symm⟩
          · exact .inl lane
        rw [voice_endSlotVoice_other d n cause other]
        refine h.imp_left fun member => (List.mem_cons.mp member).resolve_left fun same => here ?_
        simp only [Prod.mk.injEq] at same
        exact ⟨same.1.symm, same.2.symm⟩
  rw [endSlotVoices_eq]
  exact turns _ d (.inl (mem_allVoices l v))

/-- Where no voice reads the slot and no start claims it, none ends. -/
theorem endSlotVoices_of_unread {d : Device} {n : Fin 16} (cause : EndCause)
    (h : ∀ l v, (d.voice l v).reads n = false ∧ (d.voice l v).claims n = false) : d.endSlotVoices n cause = d := by
  rw [endSlotVoices_eq]
  refine foldl_keeps (fun e : Device => e = d) _ (fun e x same => ?_) _ _ rfl
  subst same
  obtain ⟨reads, claims⟩ := h x.1 x.2
  unfold Device.endSlotVoice
  simp only [reads, claims, Bool.false_eq_true, if_false]

/-! ## STREAM_CLOSE (R63) -/

section
variable {c : Caller} {p : List Byte} {s : State} (long : 2 ≤ p.length)
include long

theorem opStreamClose_of_no_slot (h : 15 < u8 p 0) : opStreamClose c p s = refuse .outOfRange s := by
  simp [opStreamClose, long, fin?_of_le (Nat.succ_le_of_lt h)]

theorem opStreamClose_of_slot {n : Fin 16} (hn : u8 p 0 = n.val) : opStreamClose c p s = closeStream s n (flagAt p 1) := by
  simp [opStreamClose, long, fin?_of_eq hn]

end

theorem steadies_of_plays {d e : Device} (h : d.Plays e) : d.Steadies e :=
  ⟨h.now, h.coldResets, h.segments, h.domainA, h.domainB, h.clips, h.triggers, h.store⟩

/-- Settles O28: the readers have left as the slot shuts, so its voices end with no further word to the Stream Intake. -/
theorem streamCloseShutsTheSlot : Obligations.StreamCloseShutsTheSlot := by
  unfold Obligations.StreamCloseShutsTheSlot
  refine fun s p ask long => ⟨fun h => ?_, fun n hn => ?_⟩
  · exact request_refuses rfl ask (opStreamClose_of_no_slot long h)
  intro x closed
  have out := opStreamClose_of_slot (c := .request) (s := begun .request s) long hn
  unfold closeStream at out
  rw [begun_request_dev] at out
  refine ⟨fun shut => ?_, fun opened readers unforced => ?_, fun opened allowed => ?_⟩
  · exact exec_does rfl ask (out.trans (if_pos shut))
  · exact request_refuses rfl ask
      (out.trans ((if_neg (by rw [opened]; exact Bool.noConfusion)).trans (if_pos ⟨readers, unforced⟩)))
  · have allowed : ¬ ((s.dev.slot n).readers ≠ [] ∧ flagAt p 1 = false) := by
      rintro ⟨readers, unforced⟩
      rcases allowed with none | force
      · exact readers none
      · rw [unforced] at force; cases force
    let shut := s.dev.shutSlot n .closed x.endCause
    have slot : shut.slot n = x.shut .closed x.endCause := slot_shutSlot_same ..
    have intake : (s.dev.closeSlot n).intake = shut.intake := intake_endSlotVoices (by rw [slot]; rfl) _
    refine ⟨s.dev.closeSlot n, exec_does rfl ask (out.trans ((if_neg (by rw [opened]; exact Bool.noConfusion)).trans (if_neg allowed))),
      ?_, ?_, ?_, fun l v => leaves_endSlotVoices .., fun unread => ?_, steadies_of_plays (plays_closeSlot ..)⟩
    · have : (s.dev.closeSlot n).slot n = x.shut .closed x.endCause := by
        rw [← slot]; unfold Device.slot; rw [intake]
      rw [this]
      exact ⟨rfl, rfl, rfl, rfl, rfl, rfl, rfl, rfl, rfl, rfl⟩
    · rw [intake]; exact tags_shut ..
    · rw [intake]; exact free_shut ..
    · exact (congrArg Device.lanes (endSlotVoices_of_unread (d := shut) .closed unread)).trans rfl

end Sys2Proof.Machine
end

section
/-!
SUPPORT. SAMPLE and STREAM_END cells for this unit: how the port hands them on, and those that are not taken (R58, R66, R67,
R73, R179).
-/
namespace Sys2Proof.Machine

/-! ## A cell received on a link (R171, R177, R178) -/

theorem count_addIn (s : State) (id : LinkId) : s.count id LinkCounters.addIn = s.heard id := by
  cases id <;> rfl

theorem heard_owns (s : State) (id : LinkId) (addr : Byte) : (s.heard id).port.owns addr = s.port.owns addr := by
  cases id <;> rfl

theorem heard_dev (s : State) (id : LinkId) : (s.heard id).dev = s.dev := by
  cases id <;> rfl

theorem hears_iff {s : State} {addr : Byte} : s.hears addr = true ↔ s.port.bench.state = .up ∧ s.port.owns addr = true := by
  simp [State.hears]

/-- A cell of an addressed kind with this unit's address is handed to its owning block (R179). -/
theorem receiveCell_of_hears {s : State} {c : Cell} (hears : s.hears c.addr = true) (arrives : kindArrives .bench c = true)
    (fits : lengthFits c = true) (addressed : c.kind ≠ 0x0F ∧ c.kind ≠ 0x0C) :
    s.receiveCell .bench c = (s.heard .bench).ownCell c := by
  obtain ⟨up, owns⟩ := hears_iff.mp hears
  rw [receiveCell_of_up (id := .bench) up arrives fits, count_addIn, State.takeCell, if_neg addressed.1]
  exact (if_neg addressed.2).trans (addressed_own (by rw [heard_owns]; exact owns))

/-! ## The cells of the Stream Intake -/

/-- The state with a cell on the bench link taken and the blocks `d`. -/
def State.heardWith (s : State) (d : Device) : State := { s.heard .bench with dev := d }

section
variable {s : State} {addr : Byte} {tag : BitVec 16} (hears : s.hears addr = true)
include hears

theorem exec_sample {q : Seq} {payload : List Byte} (long : payload.length = 256) :
    exec (.sample addr tag q payload) s = .next (s.heardWith (s.dev.takeSample tag q (samplesOf payload))) := by
  have received := receiveCell_of_hears (c := { kind := 0x01, addr := addr, wordA := tag, wordB := q, payload := payload }) hears
    rfl (decide_eq_true long) (show (0x01 : Byte) ≠ 0x0F ∧ (0x01 : Byte) ≠ 0x0C by decide)
  change Host.Outcome.next (s.receiveCell .bench _) = _
  rw [received]
  rfl

theorem exec_streamEnd (final : Seq) :
    exec (.streamEnd addr tag final) s = .next (s.heardWith (s.dev.takeStreamEnd tag final)) := by
  have received := receiveCell_of_hears (c := { kind := 0x02, addr := addr, wordA := tag, wordB := final, payload := [] }) hears
    rfl rfl (show (0x02 : Byte) ≠ 0x0F ∧ (0x02 : Byte) ≠ 0x0C by decide)
  change Host.Outcome.next (s.receiveCell .bench _) = _
  rw [received]
  rfl

end

/-! ## The tag's lookup (R58) -/

section
variable {d : Device} {tag : BitVec 16} {take : Fin 16 → Device}

theorem lookupCell_unknown (h : d.intake.lookup tag = .unknown) :
    d.lookupCell tag take = { d with intake := { d.intake with unknownTag := satInc d.intake.unknownTag } } := by
  rw [Device.lookupCell, h]

theorem lookupCell_discard (h : d.intake.lookup tag = .discard) : d.lookupCell tag take = d := by
  rw [Device.lookupCell, h]

variable {n : Fin 16} (h : d.intake.lookup tag = .slot n)
include h

theorem lookupCell_shut (shut : (d.slot n).isOpen = false) :
    d.lookupCell tag take = { d with intake := { d.intake with closedStream := satInc d.intake.closedStream } } := by
  rw [Device.lookupCell, h]
  exact if_neg (by rw [shut]; exact Bool.false_ne_true)

theorem lookupCell_open (opened : (d.slot n).isOpen = true) : d.lookupCell tag take = take n := by
  rw [Device.lookupCell, h]
  exact if_pos opened

end

/-! ## The class of a sequence number (R66) -/

section
variable {x : Slot} {q : Seq}

theorem classify_late (h : precedes q x.h = true) : x.classify q = .late := by
  rw [Slot.classify, if_pos h]

variable (notLate : precedes q x.h = false)
include notLate

theorem classify_stale (h : precedes q x.e = true) : x.classify q = .stale := by
  simp [Slot.classify, notLate, h]

end

/-- A slot in FILLING, PRIMED or RUNNING (R66). -/
def Slot.filled (x : Slot) : Prop := x.state = .filling ∨ x.state = .primed ∨ x.state = .running

theorem isOpen_of_filled {x : Slot} (h : x.filled) : x.isOpen = true := by
  unfold Slot.isOpen
  rcases h with h | h | h <;> rw [h]

theorem not_draining_of_filled {x : Slot} (h : x.filled) : x.state ≠ .draining := by
  rcases h with h | h | h <;> rw [h] <;> exact SlotState.noConfusion

theorem isOpen_of_draining {x : Slot} (h : x.state = .draining) : x.isOpen = true := by
  rw [Slot.isOpen, h]

theorem filled_of_isOpen {x : Slot} (h : x.isOpen = true) (going : x.state ≠ .draining) : x.filled := by
  unfold Slot.isOpen at h
  unfold Slot.filled
  cases state : x.state <;> rw [state] at h going <;> simp_all

/-! ## Which cells change what -/

section
variable {d : Device} {tag : BitVec 16} {n : Fin 16} (found : d.intake.lookup tag = .slot n)
include found

theorem takeSample_of_filled (h : (d.slot n).filled) (q : Seq) (samples : List Sample) :
    d.takeSample tag q samples = d.arriveOpen n q samples := by
  unfold Device.takeSample
  rw [lookupCell_open found (isOpen_of_filled h), if_neg (not_draining_of_filled h)]

theorem takeSample_of_draining (h : (d.slot n).state = .draining) (q : Seq) (samples : List Sample) :
    d.takeSample tag q samples = d.setSlot n ((d.slot n).arriveDraining q) := by
  unfold Device.takeSample
  rw [lookupCell_open found (isOpen_of_draining h), if_pos h]

theorem takeStreamEnd_of_filled (h : (d.slot n).filled) (f : Seq) : d.takeStreamEnd tag f = d.endOpen n f := by
  unfold Device.takeStreamEnd
  rw [lookupCell_open found (isOpen_of_filled h), if_neg (not_draining_of_filled h)]

theorem takeStreamEnd_of_draining (h : (d.slot n).state = .draining) (f : Seq) :
    d.takeStreamEnd tag f = d.endDraining n f := by
  unfold Device.takeStreamEnd
  rw [lookupCell_open found (isOpen_of_draining h), if_pos h]

/-- A late SAMPLE is counted in every open state (R67, R73). -/
theorem takeSample_late (opened : (d.slot n).isOpen = true) {q : Seq} (late : precedes q (d.slot n).h = true) (samples : List Sample) :
    d.takeSample tag q samples = d.setSlot n (d.slot n).countLate := by
  by_cases draining : (d.slot n).state = .draining
  · rw [takeSample_of_draining found draining, Slot.arriveDraining, if_pos late]
  · rw [takeSample_of_filled found (filled_of_isOpen opened draining)]
    unfold Device.arriveOpen
    dsimp only
    rw [classify_late late]

theorem takeSample_stale (opened : (d.slot n).isOpen = true) {q : Seq} (notLate : precedes q (d.slot n).h = false)
    (stale : precedes q (d.slot n).e = true) (samples : List Sample) :
    d.takeSample tag q samples = d.setSlot n (d.slot n).countStale := by
  by_cases draining : (d.slot n).state = .draining
  · rw [takeSample_of_draining found draining, Slot.arriveDraining, notLate, stale]
    rfl
  · rw [takeSample_of_filled found (filled_of_isOpen opened draining)]
    unfold Device.arriveOpen
    dsimp only
    rw [classify_stale notLate stale]

theorem takeSample_pastEnd (draining : (d.slot n).state = .draining) {q : Seq} (notLate : precedes q (d.slot n).h = false)
    (ahead : precedes q (d.slot n).e = false) (samples : List Sample) :
    d.takeSample tag q samples = d.setSlot n (d.slot n).countPastEnd := by
  rw [takeSample_of_draining found draining, Slot.arriveDraining, notLate, ahead]
  rfl

theorem takeStreamEnd_late (filled : (d.slot n).filled) {f : Seq} (late : precedes f (d.slot n).h = true) :
    d.takeStreamEnd tag f = d.setSlot n (d.slot n).countLate := by
  rw [takeStreamEnd_of_filled found filled]
  unfold Device.endOpen
  dsimp only
  rw [classify_late late]

theorem takeStreamEnd_stale (filled : (d.slot n).filled) {f : Seq} (notLate : precedes f (d.slot n).h = false)
    (stale : precedes f (d.slot n).e = true) : d.takeStreamEnd tag f = d.setSlot n (d.slot n).countStale := by
  rw [takeStreamEnd_of_filled found filled]
  unfold Device.endOpen
  dsimp only
  rw [classify_stale notLate stale]

theorem takeStreamEnd_again (draining : (d.slot n).state = .draining) {f : Seq} (same : (d.slot n).final = some f) :
    d.takeStreamEnd tag f = d.setSlot n (d.slot n).countStale := by
  rw [takeStreamEnd_of_draining found draining, Device.endDraining, if_pos same]

end

/-- Settles O31: each cell that is not taken counts, by what its lookup and its class are. -/
theorem untakenSamplesAreCounted : Obligations.UntakenSamplesAreCounted := by
  unfold Obligations.UntakenSamplesAreCounted
  refine ⟨fun s addr tag q payload hears long => ?sample, fun s addr tag final hears => ?streamEnd⟩
  case sample =>
    intro k gives
    have out {d : Device} (taken : s.dev.takeSample tag q (samplesOf payload) = d) :
        exec (.sample addr tag q payload) s = .next (s.heardWith d) := by rw [exec_sample hears long, taken]
    refine ⟨fun unknown => out (lookupCell_unknown unknown), fun discard => out (lookupCell_discard discard), fun n found => ?_⟩
    intro x late stale pastEnd
    exact ⟨fun shut => out (lookupCell_shut found shut), fun opened before => out (takeSample_late found opened before _),
      fun opened notLate before => out (takeSample_stale found opened notLate before _),
      fun draining notLate ahead => out (takeSample_pastEnd found draining notLate ahead _)⟩
  case streamEnd =>
    intro k gives
    have out {d : Device} (taken : s.dev.takeStreamEnd tag final = d) :
        exec (.streamEnd addr tag final) s = .next (s.heardWith d) := by rw [exec_streamEnd hears, taken]
    refine ⟨fun unknown => out (lookupCell_unknown unknown), fun discard => out (lookupCell_discard discard), fun n found => ?_⟩
    intro x late stale filled
    exact ⟨fun shut => out (lookupCell_shut found shut), fun filled before => out (takeStreamEnd_late found filled before),
      fun filled notLate before => out (takeStreamEnd_stale found filled notLate before),
      fun draining same => out (takeStreamEnd_again found draining same)⟩

end Sys2Proof.Machine
end

section
/-!
SUPPORT. A SAMPLE cell taken at the next expected sequence or past a gap (R66, R68, R69, R75).
-/
namespace Sys2Proof.Machine

/-! ## Order of sequence numbers -/

theorem precedes_self (a : Seq) : precedes a a = false := by
  simp [precedes]

theorem precedes_asymm {a b : Seq} (h : precedes a b = true) : precedes b a = false := by
  simp only [precedes, Bool.and_eq_true, decide_eq_true_eq, BitVec.toNat_sub] at h
  simp only [precedes, Bool.and_eq_false_iff, decide_eq_false_iff_not, BitVec.toNat_sub]
  omega

theorem ne_of_precedes {a b : Seq} (h : precedes a b = true) : b ≠ a := fun same => by
  rw [same, precedes_self] at h
  cases h

/-! ## Positions marked missing (R65, R68) -/

theorem addVoid_eq (first : Seq) (count : Nat) (queue : List QueueEntry) : addVoid first count queue = withVoid first count queue := by
  induction queue with
  | nil => rfl
  | cons x rest ih =>
    cases rest with
    | nil => cases x <;> rfl
    | cons y rest =>
      have last : (x :: y :: rest).getLast? = (y :: rest).getLast? := List.getLast?_cons_cons
      have step : addVoid first count (x :: y :: rest) = x :: addVoid first count (y :: rest) := by cases x <;> rfl
      rw [step, ih]
      unfold withVoid
      rw [last]
      split <;> rfl

theorem fillGap_eq (x : Slot) (q : Seq) : x.fillGap q = x.missingTo q := by
  unfold Slot.fillGap Slot.missingTo
  simp only [addVoid_eq]
  rfl

theorem missingTo_self (x : Slot) : x.missingTo x.e = x := by
  simp [Slot.missingTo]

theorem missingTo_e (x : Slot) (q : Seq) : (x.missingTo q).e = q := by
  unfold Slot.missingTo
  dsimp only
  split
  · rename_i none
    rw [BitVec.eq_of_toNat_eq (x := q - x.e) (y := 0) none |> BitVec.sub_eq_iff_eq_add.mp]
    simp
  · rfl

/-- What a void run leaves of a slot. -/
theorem missingTo_same (x : Slot) (q : Seq) :
    (x.missingTo q).h = x.h ∧ (x.missingTo q).readers = x.readers ∧ (x.missingTo q).config = x.config ∧
      (x.missingTo q).final = x.final ∧ (x.missingTo q).state = x.state ∧ (x.missingTo q).held = x.held := by
  have held := (recounts_fillGap x q).held
  rw [fillGap_eq] at held
  refine ⟨?_, ?_, ?_, ?_, ?_, held⟩ <;> unfold Slot.missingTo <;> dsimp only <;> split <;> rfl

/-! ## The flow tests and the prime test after a cell is stored (R75, R93, R95) -/

theorem tags_slotFlowTest (k : Intake) (n : Fin 16) : (k.slotFlowTest n).tags = k.tags := by
  unfold Intake.slotFlowTest
  dsimp only
  split
  · rfl
  · split <;> rfl

theorem pool_slotFlowTest (k : Intake) (n : Fin 16) : (k.slotFlowTest n).pool = k.pool := by
  unfold Intake.slotFlowTest
  dsimp only
  split
  · rfl
  · split <;> rfl

/-- A slot after the prime test (R75). -/
def Slot.primed (x : Slot) : Slot :=
  { x with state := if x.state = .filling ∧ x.config.prime ≤ x.held then .primed else x.state }

theorem primeTest_intake (d : Device) (n : Fin 16) : (d.primeTest n).intake = d.intake.setSlot n (d.slot n).primed := by
  unfold Device.primeTest Slot.primed
  dsimp only
  split
  · rw [raise_intake]
    rfl
  · exact congrArg (fun slots => { d.intake with slots := slots }) (put_get_self d.intake.slots n).symm

theorem primeTest_lanes (d : Device) (n : Fin 16) : (d.primeTest n).lanes = d.lanes := by
  unfold Device.primeTest
  dsimp only
  split
  · exact raise_lanes ..
  · rfl

theorem Device.Steadies.trans {a b c : Device} (h : a.Steadies b) (g : b.Steadies c) : a.Steadies c := by
  obtain ⟨h1, h2, h3, h4, h5, h6, h7, h8⟩ := h
  obtain ⟨g1, g2, g3, g4, g5, g6, g7, g8⟩ := g
  exact ⟨g1.trans h1, g2.trans h2, g3.trans h3, g4.trans h4, g5.trans h5, g6.trans h6, g7.trans h7, g8.trans h8⟩

theorem steadies_setSlot (d : Device) (n : Fin 16) (x : Slot) : d.Steadies (d.setSlot n x) :=
  ⟨rfl, rfl, rfl, rfl, rfl, rfl, rfl, rfl⟩

theorem steadies_primeTest (d : Device) (n : Fin 16) : d.Steadies (d.primeTest n) := by
  unfold Device.primeTest
  dsimp only
  split
  · exact (steadies_setSlot d n _).trans (steadies_of_plays (plays_raise ..))
  · exact steadies_of_plays (.refl d)

/-! ## A cell taken at E (R69) -/

section
variable {d : Device} {n : Fin 16} (samples : List Sample)

theorem takeCell_of_full (full : (d.slot n).held = (d.slot n).config.quota) :
    d.takeCell n samples = d.setSlot n (d.slot n).overQuotaVoid := if_pos full

variable (room : (d.slot n).held ≠ (d.slot n).config.quota)
include room

theorem takeCell_of_poor (poor : d.intake.pool.free = 0) : d.takeCell n samples = d.setSlot n (d.slot n).poolEmptyVoid :=
  (if_neg room).trans (if_pos poor)

variable (free : d.intake.pool.free ≠ 0)
include free

theorem takeCell_of_free :
    d.takeCell n samples =
      ({ d with intake := ((d.intake.stored n samples).slotFlowTest n).poolFlowTest } : Device).primeTest n :=
  (if_neg room).trans (if_neg free)

/-- A cell stored: the slot's record but for its flow state, and what stands as before. -/
theorem takeCell_stores :
    (∃ hold, (d.takeCell n samples).slot n = ({ (d.slot n).store samples with hold := hold } : Slot).primed) ∧
      (∀ m, m ≠ n → (d.takeCell n samples).slot m = d.slot m) ∧
      (d.takeCell n samples).intake.tags = d.intake.tags ∧
      (d.takeCell n samples).intake.pool.free + 1 = d.intake.pool.free ∧
      (d.takeCell n samples).lanes = d.lanes ∧ d.Steadies (d.takeCell n samples) := by
  rw [takeCell_of_free samples room free]
  let k := ((d.intake.stored n samples).slotFlowTest n).poolFlowTest
  have intake : (({ d with intake := k } : Device).primeTest n).intake = k.setSlot n (k.slots.get n).primed := primeTest_intake ..
  obtain ⟨hold, slots⟩ := slots_slotFlowTest (d.intake.stored n samples) n
  have stored : k.slots = put d.intake.slots n { (d.slot n).store samples with hold := hold } := by
    rw [slots_poolFlowTest, slots]
    simp only [Intake.stored, Intake.takeBuffer, Intake.setSlot, get_put_same, put_put]
    rfl
  refine ⟨⟨hold, ?_⟩, fun m other => ?_, ?_, ?_, ?_, steadies_primeTest { d with intake := k } n⟩
  · unfold Device.slot
    rw [intake, Intake.setSlot, get_put_same, stored, get_put_same]
    rfl
  · unfold Device.slot
    rw [intake, Intake.setSlot, get_put_of_ne _ _ other, stored, get_put_of_ne _ _ other]
  · rw [intake, Intake.setSlot, tags_poolFlowTest, tags_slotFlowTest]
    rfl
  · rw [intake, Intake.setSlot, free_poolFlowTest, pool_slotFlowTest]
    exact Nat.sub_add_cancel (Nat.one_le_iff_ne_zero.mpr free)
  · exact primeTest_lanes ..

end

/-! ## A cell at its turn -/

section
variable {x : Slot} {q : Seq} (notLate : precedes q x.h = false)
include notLate

theorem classify_inOrder (same : q = x.e) : x.classify q = .inOrder := by
  subst same
  simp [Slot.classify, notLate, precedes_self]

theorem classify_gap (ahead : precedes x.e q = true) (near : (q - x.e).toNat ≤ x.config.gapLimit) : x.classify q = .gap := by
  rw [Slot.classify, notLate, precedes_asymm ahead, if_neg Bool.false_ne_true, if_neg Bool.false_ne_true,
    if_neg (ne_of_precedes ahead), if_pos ⟨ahead, near⟩]

end

/-- A cell in order or past a gap is taken once what is missing before it is marked (R66, R68, R69). -/
theorem arriveOpen_taken {d : Device} {n : Fin 16} {q : Seq} (notLate : precedes q (d.slot n).h = false)
    (turn : q = (d.slot n).e ∨ precedes (d.slot n).e q = true ∧ (q - (d.slot n).e).toNat ≤ (d.slot n).config.gapLimit)
    (span : (q + 1 - (d.slot n).h).toNat ≤ 1073741824) (samples : List Sample) :
    d.arriveOpen n q samples = (d.setSlot n ((d.slot n).missingTo q)).takeCell n samples := by
  have within : ¬ spanLimit < (q + 1 - (d.slot n).h).toNat := Nat.not_lt.mpr span
  unfold Device.arriveOpen
  dsimp only
  rw [← fillGap_eq]
  rcases turn with same | ⟨ahead, near⟩
  · rw [classify_inOrder notLate same]
    exact if_neg within
  · rw [classify_gap notLate ahead near]
    exact if_neg within

/-- What a cell stored at its turn leaves (R69): the slot's fields, and what stands as before. -/
theorem arriveOpen_stores {d : Device} {n : Fin 16} {q : Seq} (notLate : precedes q (d.slot n).h = false)
    (turn : q = (d.slot n).e ∨ precedes (d.slot n).e q = true ∧ (q - (d.slot n).e).toNat ≤ (d.slot n).config.gapLimit)
    (span : (q + 1 - (d.slot n).h).toNat ≤ 1073741824) (room : (d.slot n).held ≠ (d.slot n).config.quota)
    (free : d.intake.pool.free ≠ 0) (samples : List Sample) :
    let x := d.slot n
    let y := x.missingTo q
    let e := d.arriveOpen n q samples
    (e.slot n).queue = y.queue ++ [.data q samples] ∧ (e.slot n).e = q + 1 ∧ (e.slot n).h = x.h ∧
      (e.slot n).readers = x.readers ∧ (e.slot n).config = x.config ∧ (e.slot n).final = x.final ∧
      (e.slot n).counters = { y.counters with accepted := satInc y.counters.accepted } ∧
      e.intake.pool.free + 1 = d.intake.pool.free ∧
      (e.slot n).state = (if x.state = .filling ∧ x.config.prime ≤ x.held + 1 then .primed else x.state) ∧
      (∀ m, m ≠ n → e.slot m = d.slot m) ∧ e.intake.tags = d.intake.tags ∧ e.lanes = d.lanes ∧ d.Steadies e := by
  intro x y e
  obtain ⟨head, readers, config, final, state, held⟩ := missingTo_same x q
  have slot : (d.setSlot n y).slot n = y := slot_setSlot_same ..
  have taken : e = (d.setSlot n y).takeCell n samples := arriveOpen_taken notLate turn span samples
  obtain ⟨⟨hold, here⟩, others, tags, pool, lanes, steady⟩ :=
    takeCell_stores (d := d.setSlot n y) (n := n) samples (by rw [slot, held, config]; exact room) free
  rw [← taken] at here others tags pool lanes steady
  rw [slot] at here
  rw [here]
  have heldStored : ({ y.store samples with hold := hold } : Slot).held = x.held + 1 := (held_store y samples).trans (by rw [held])
  refine ⟨?_, ?_, head, readers, config, final, rfl, pool, ?_, fun m other => ?_, tags, lanes, steady⟩
  · change y.queue ++ [.data y.e samples] = _
    rw [missingTo_e]
  · change y.e + 1 = _
    rw [missingTo_e]
  · unfold Slot.primed
    dsimp only
    rw [heldStored]
    change (if y.state = .filling ∧ y.config.prime ≤ x.held + 1 then _ else y.state) = _
    rw [state, config]
  · rw [others m other, slot_setSlot_of_ne _ _ other]

/-- Settles O30: a cell at its turn is `arriveOpen_taken`, by the quota and the pool. -/
theorem sampleInOrderIsStored : Obligations.SampleInOrderIsStored := by
  unfold Obligations.SampleInOrderIsStored
  refine ⟨fun s addr tag q payload n hears long found => ?inOrder, fun s addr tag q payload n hears long found => ?turn⟩
  case inOrder =>
    intro x filled same notLate span room free
    subst same
    have out := exec_sample hears (tag := tag) (q := x.e) long
    rw [takeSample_of_filled found filled] at out
    have stored := arriveOpen_stores (q := x.e) notLate (.inl rfl) span (Nat.ne_of_lt room) (Nat.ne_of_gt free) (samplesOf payload)
    simp only [x, missingTo_self] at stored
    exact ⟨_, out, stored⟩
  case turn =>
    intro k x y voided full poor gives filled notLate turn span
    have out := exec_sample hears (tag := tag) (q := q) long
    rw [takeSample_of_filled found filled] at out
    have slot : (s.dev.setSlot n y).slot n = y := slot_setSlot_same ..
    obtain ⟨-, -, config, -, -, held⟩ := missingTo_same x q
    have voids (z : Slot) : (s.dev.setSlot n y).setSlot n z = s.dev.setSlot n z := by
      unfold Device.setSlot Intake.setSlot
      simp only [put_put]
    have at_q : y.e = q := missingTo_e x q
    refine ⟨fun atQuota => ?_, fun room none => ?_, fun room some => ?_⟩
    · rw [out, arriveOpen_taken notLate turn span, takeCell_of_full _ (by rw [slot, held, config]; exact atQuota), slot, voids,
        Slot.overQuotaVoid, addVoid_eq, at_q]
      rfl
    · rw [out, arriveOpen_taken notLate turn span, takeCell_of_poor (d := s.dev.setSlot n y) _ (by rw [slot, held, config]; exact room) none, slot, voids,
        Slot.poolEmptyVoid, addVoid_eq, at_q]
      rfl
    · exact ⟨_, out, arriveOpen_stores notLate turn span room some _⟩

end Sys2Proof.Machine
end

section
/-!
SUPPORT. A slot drained, broken, handed its readers and ended (R70, R72, R73, R82 to R92).
-/
namespace Sys2Proof.Machine

/-! ## A slot broken (R70, R29) -/

/-- What a break leaves of its slot and of the voices. -/
theorem breaks_breakSlot (d : Device) (n : Fin 16) : d.breaks n (d.breakSlot n) := by
  have slot := slot_shutSlot_same d n .broken (some .broken)
  have intake : (d.breakSlot n).intake = (d.shutSlot n .broken (some .broken)).intake := by
    unfold Device.breakSlot
    rw [raise_intake]
    exact intake_endSlotVoices (by rw [slot]; rfl) _
  have broken : (d.breakSlot n).slot n = (d.slot n).shut .broken (some .broken) := by
    rw [← slot]; unfold Device.slot; rw [intake]
  have lanes : (d.breakSlot n).lanes = ((d.shutSlot n .broken (some .broken)).endSlotVoices n .broken).lanes := by
    unfold Device.breakSlot
    exact raise_lanes ..
  unfold Device.breaks
  dsimp only
  rw [broken]
  refine ⟨rfl, rfl, rfl, rfl, rfl, rfl, rfl, ?_, fun l v => ?_, steadies_of_plays (plays_breakSlot ..)⟩
  · rw [intake]; exact tags_shut ..
  · rw [voice_of_lanes lanes]
    exact leaves_endSlotVoices ..

/-! ## A cell past the gap limit or past the span (R66, R69, R70, R72) -/

section
variable {x : Slot} {q : Seq} (notLate : precedes q x.h = false) (notStale : precedes q x.e = false)
include notLate notStale

/-- A sequence number that is neither late nor stale is at its turn, past a gap within the limit, or breaking. -/
theorem classify_ahead :
    q = x.e ∧ x.classify q = .inOrder ∨ (q - x.e).toNat ≤ x.config.gapLimit ∧ q ≠ x.e ∧ x.classify q = .gap ∨
      x.classify q = .breaking := by
  unfold Slot.classify
  rw [notLate, notStale, if_neg Bool.false_ne_true, if_neg Bool.false_ne_true]
  by_cases same : q = x.e
  · exact .inl ⟨same, if_pos same⟩
  · rw [if_neg same]
    by_cases near : precedes x.e q = true ∧ (q - x.e).toNat ≤ x.config.gapLimit
    · exact .inr (.inl ⟨near.2, same, if_pos near⟩)
    · exact .inr (.inr (if_neg near))

end

theorem arriveOpen_breaks {d : Device} {n : Fin 16} {q : Seq} (notLate : precedes q (d.slot n).h = false)
    (notStale : precedes q (d.slot n).e = false)
    (far : (d.slot n).config.gapLimit < (q - (d.slot n).e).toNat ∨ 1073741824 < (q + 1 - (d.slot n).h).toNat)
    (samples : List Sample) : d.arriveOpen n q samples = d.breakSlot n := by
  unfold Device.arriveOpen
  dsimp only
  rcases classify_ahead notLate notStale with ⟨same, inOrder⟩ | ⟨near, -, gap⟩ | breaking
  · rw [inOrder]
    have none : (q - (d.slot n).e).toNat = 0 := by rw [same, BitVec.sub_self]; rfl
    exact if_pos (far.resolve_left (by omega))
  · rw [gap]
    exact if_pos (far.resolve_left (by omega))
  · rw [breaking]

theorem endOpen_breaks {d : Device} {n : Fin 16} {f : Seq} (notLate : precedes f (d.slot n).h = false)
    (notStale : precedes f (d.slot n).e = false)
    (far : (d.slot n).config.gapLimit < (f - (d.slot n).e).toNat ∨ f ≠ (d.slot n).e ∧ 1073741824 < (f - (d.slot n).h).toNat) :
    d.endOpen n f = d.breakSlot n := by
  unfold Device.endOpen
  dsimp only
  rcases classify_ahead notLate notStale with ⟨same, inOrder⟩ | ⟨near, -, gap⟩ | breaking
  · have none : (f - (d.slot n).e).toNat = 0 := by rw [same, BitVec.sub_self]; rfl
    exact absurd far (not_or.mpr ⟨by omega, fun h => h.1 same⟩)
  · rw [gap]
    exact if_pos (far.resolve_left (by omega)).2
  · rw [breaking]

theorem endDraining_breaks {d : Device} {n : Fin 16} {f : Seq} (differs : (d.slot n).final ≠ some f) :
    d.endDraining n f = d.breakSlot n := if_neg differs

/-- An end at its turn or past a gap drains the slot (R72). -/
theorem endOpen_drains {d : Device} {n : Fin 16} {f : Seq} (notLate : precedes f (d.slot n).h = false)
    (turn : f = (d.slot n).e ∨ precedes (d.slot n).e f = true ∧ (f - (d.slot n).e).toNat ≤ (d.slot n).config.gapLimit ∧
      (f - (d.slot n).h).toNat ≤ 1073741824) : d.endOpen n f = d.drain n f := by
  unfold Device.endOpen
  dsimp only
  rcases turn with same | ⟨ahead, near, span⟩
  · rw [classify_inOrder notLate same]
  · rw [classify_gap notLate ahead near]
    exact if_neg (Nat.not_lt.mpr span)

theorem drain_eq (d : Device) (n : Fin 16) (f : Seq) :
    d.drain n f =
      if (d.slot n).state = .filling then
        (d.setSlot n { (d.slot n).missingTo f with state := .draining, final := some f }).raise (srcStreamPrimed n) 0
      else d.setSlot n { (d.slot n).missingTo f with state := .draining, final := some f } := by
  unfold Device.drain
  dsimp only
  rw [fillGap_eq]

/-! ## A reader's report and its leaving (R83, R85, R90) -/

/-- A slot with one reader's position and lacking flag taken from its report (R85, R90). -/
def Slot.reported (x : Slot) (c : Cursor) : Slot :=
  { x with
    readers := x.readers.map fun y =>
      if y.index = c.index then { y with cell := c.cell, offset := c.offset, lacking := c.lacking } else y
    counters := if c.lacking then { x.counters with underrun := satInc x.counters.underrun } else x.counters }

theorem takeReport_of_absent {d : Device} {n : Fin 16} {c : Cursor} (h : (d.slot n).reader c.index = none) :
    d.takeReport n c = d := by
  unfold Device.takeReport
  dsimp only
  rw [h]

theorem takeReport_of_reader {d : Device} {n : Fin 16} {c : Cursor} {r : Reader} (h : (d.slot n).reader c.index = some r) :
    d.takeReport n c =
      if c.lacking = true ∧ r.lacking = false then
        (d.setSlot n ((d.slot n).reported c)).raise (srcStreamUnderrun n) (BitVec.ofNat 8 (4 * r.lane.val + r.voice.val))
      else d.setSlot n ((d.slot n).reported c) := by
  unfold Device.takeReport
  dsimp only
  rw [h]
  simp only [Bool.and_eq_true, Bool.not_eq_true']
  rfl

theorem leaveIndex_of_reader {x : Slot} {index : Nat} {r : Reader} (h : x.reader index = some r) :
    x.leaveIndex index =
      { x with
        readers := x.readers.filter fun y => y.index ≠ index
        earlyLeave := x.earlyLeave || x.consumed && !(x.final.any fun final => atOrAfter r.cell final) } := by
  have named : r.index = index := by simpa using List.find?_some h
  have reached : x.reachedEnd r = x.final.any fun final => atOrAfter r.cell final := by
    unfold Slot.reachedEnd
    cases x.final <;> rfl
  unfold Slot.leaveIndex
  rw [h]
  dsimp only
  rw [Slot.leave, named, reached]

/-! ## The hand-off (R42, R84, R85) -/

theorem handOff_of_nothing (d : Device) (n : Fin 16) : d.handOff n [] [] = d := if_pos ⟨rfl, rfl⟩

theorem cursorOf_of_reader {d : Device} {x : Voice} {n : Fin 16} {index : Nat} {r : Reader}
    (bound : x.binding = some (.stream n index)) (found : (d.slot n).reader index = some r) :
    d.cursorOf x = some { slot := n, index := index, cell := r.cell, offset := r.offset, lacking := r.lacking, read := false,
                          touched := false } := by
  unfold Device.cursorOf
  rw [bound]
  dsimp only
  rw [found]
  rfl

theorem cursorOf_of_none {d : Device} {x : Voice}
    (absent : ∀ n index, x.binding = some (.stream n index) → (d.slot n).reader index = none) : d.cursorOf x = none := by
  unfold Device.cursorOf
  split
  · rename_i n index bound
    rw [absent n index bound]
    rfl
  · rfl

theorem cursor_start (d : Device) (l : Fin 8) (v : Fin 4) :
    (Block.start d l).cursors.get v = d.cursorOf (d.voice l v) := get_map ..

theorem toList_four {α : Type} (xs : Vector α 4) : xs.toList = [xs.get 0, xs.get 1, xs.get 2, xs.get 3] := by
  obtain ⟨⟨list⟩, four⟩ := xs
  match list, four with
  | [_, _, _, _], _ => rfl

/-- The cursors of a voice's reader that has something to report. -/
def reportsOf (c : Option Cursor) : List Cursor := c.toList.filter Cursor.touched

theorem allReports_eq (k : Block) :
    k.allReports = k.reports ++ (reportsOf (k.cursors.get 0) ++ reportsOf (k.cursors.get 1) ++ reportsOf (k.cursors.get 2) ++
      reportsOf (k.cursors.get 3)) := by
  have four : k.cursors.toList.flatMap reportsOf = reportsOf (k.cursors.get 0) ++ reportsOf (k.cursors.get 1) ++
      reportsOf (k.cursors.get 2) ++ reportsOf (k.cursors.get 3) := by
    rw [toList_four]
    simp
  rw [← four]
  unfold Block.allReports
  refine congrArg (k.reports ++ ·) ?_
  induction k.cursors.toList with
  | nil => rfl
  | cons c rest ih =>
    rw [List.filterMap_cons, List.flatMap_cons, ← ih]
    cases c with
    | none => rfl
    | some c => cases touched : c.touched <;> simp [reportsOf, touched]

/-! ## The head recomputed (R86) -/

theorem lowestCell_spec (h : Seq) {readers : List Reader} (some_reader : readers ≠ []) :
    ∃ c, lowestCell h readers = some c ∧ (∃ r ∈ readers, r.cell = c) ∧
      ∀ r ∈ readers, (c - h).toNat ≤ (r.cell - h).toNat := by
  induction readers with
  | nil => exact absurd rfl some_reader
  | cons r rest ih =>
    unfold lowestCell
    by_cases last : rest = []
    · subst last
      exact ⟨r.cell, rfl, ⟨r, List.mem_cons_self, rfl⟩, fun y hy => List.mem_singleton.mp hy ▸ Nat.le_refl _⟩
    · obtain ⟨c, low, ⟨y, hy, at_c⟩, least⟩ := ih last
      rw [low]
      dsimp only
      by_cases lower : (r.cell - h).toNat ≤ (c - h).toNat
      · rw [if_pos lower]
        refine ⟨r.cell, rfl, ⟨r, List.mem_cons_self, rfl⟩, fun z hz => ?_⟩
        rcases List.mem_cons.mp hz with rfl | hz
        · exact Nat.le_refl _
        · exact Nat.le_trans lower (least z hz)
      · rw [if_neg lower]
        refine ⟨c, rfl, ⟨y, List.mem_cons_of_mem _ hy, at_c⟩, fun z hz => ?_⟩
        rcases List.mem_cons.mp hz with rfl | hz
        · exact Nat.le_of_not_le lower
        · exact least z hz

theorem mem_of_data_mem_dropBehind {h : Seq} {n : Nat} {p : Seq} {samples : List Sample} {queue : List QueueEntry}
    (member : .data p samples ∈ dropBehind h n queue) : .data p samples ∈ queue := by
  induction queue with
  | nil => exact member
  | cons e rest ih =>
    cases e with
    | data q xs =>
      unfold dropBehind at member
      split at member
      · exact List.mem_cons_of_mem _ (ih member)
      · exact member
    | void f c =>
      unfold dropBehind at member
      dsimp only at member
      split at member
      · exact List.mem_cons_of_mem _ (ih member)
      · split at member
        · exact List.mem_cons_of_mem _ ((List.mem_cons.mp member).resolve_left QueueEntry.noConfusion)
        · exact member

theorem data_mem_dropBehind {h : Seq} {n : Nat} {p : Seq} {samples : List Sample} {queue : List QueueEntry}
    (member : .data p samples ∈ queue) (kept : n ≤ (p - h).toNat) : .data p samples ∈ dropBehind h n queue := by
  induction queue with
  | nil => exact member
  | cons e rest ih =>
    cases e with
    | data q xs =>
      unfold dropBehind
      split
      · refine ih ((List.mem_cons.mp member).resolve_left fun same => ?_)
        obtain ⟨rfl, -⟩ := QueueEntry.data.inj same
        omega
      · exact member
    | void f c =>
      have behind : .data p samples ∈ rest := (List.mem_cons.mp member).resolve_left QueueEntry.noConfusion
      unfold dropBehind
      dsimp only
      split
      · exact ih behind
      · split
        · exact List.mem_cons_of_mem _ behind
        · exact member

/-- The first position of an entry. -/
def QueueEntry.first : QueueEntry → Seq
  | .data p _ => p
  | .void f _ => f

theorem first_dropBehind {h : Seq} {n : Nat} (small : n < 4294967296) {queue rest : List QueueEntry} {e : QueueEntry}
    (head : dropBehind h n queue = e :: rest) : n ≤ (e.first - h).toNat := by
  induction queue with
  | nil => cases head
  | cons x xs ih =>
    cases x with
    | data p samples =>
      unfold dropBehind at head
      split at head
      · exact ih head
      · obtain ⟨rfl, -⟩ := List.cons.inj head
        exact Nat.le_of_not_lt ‹_›
    | void f c =>
      unfold dropBehind at head
      dsimp only at head
      split at head
      · exact ih head
      · split at head
        · obtain ⟨rfl, -⟩ := List.cons.inj head
          have at_n : ((QueueEntry.void (h + BitVec.ofNat 32 n) (c - (n - (f - h).toNat))).first - h).toNat = n := by
            rw [QueueEntry.first, BitVec.add_comm, BitVec.add_sub_cancel, BitVec.toNat_ofNat]
            exact Nat.mod_eq_of_lt small
          exact Nat.le_of_eq at_n.symm
        · obtain ⟨rfl, -⟩ := List.cons.inj head
          exact Nat.le_of_not_lt ‹_›

theorem recompute_of_low {x : Slot} {c : Seq} (low : lowestCell x.h x.readers = some c) : x.recompute = x.moveHead c := by
  unfold Slot.recompute
  rw [low]

theorem recompute_of_no_readers {x : Slot} (none : x.readers = []) : x.recompute = x := by
  unfold Slot.recompute
  rw [none]
  rfl

/-! ## The end of a stream (R92) -/

theorem endTest_of_ends {d : Device} {n : Fin 16}
    (ends : (d.slot n).readers = [] ∧ (d.slot n).consumed = true ∧ ((d.slot n).state = .running ∨ (d.slot n).state = .draining)) :
    let cause : StreamCause := if (d.slot n).state = .draining ∧ (d.slot n).earlyLeave = false then .done else .abandoned
    d.endTest n = (d.shutSlot n .ended (some cause)).raise (srcStreamEnd n)
      (if (d.slot n).state = .draining ∧ (d.slot n).earlyLeave = false then 0 else 1) := by
  have code : (BitVec.ofNat 8 (streamCauseCode
      (if (d.slot n).state = .draining ∧ (d.slot n).earlyLeave = false then .done else .abandoned)) : Byte) =
      if (d.slot n).state = .draining ∧ (d.slot n).earlyLeave = false then 0 else 1 := by
    split <;> rfl
  intro cause
  unfold Device.endTest
  dsimp only
  rw [if_pos ends, code]

/-- Settles O32: each part is the equation of its operation. -/
theorem slotsDrainAndBreak : Obligations.SlotsDrainAndBreak := by
  unfold Obligations.SlotsDrainAndBreak
  refine ⟨fun s addr tag final n hears found => ?drains, fun s addr tag q payload n hears long found => ?breaks,
    fun s addr tag final n hears found => ?ends, fun d n c => ?report, fun d n reports released => ?handOff,
    fun d l => ⟨⟨rfl, rfl, rfl, rfl, rfl, rfl, rfl⟩, fun v => ?cursors⟩, fun k d => ?readers, fun x index => ?leave, fun x => ?head,
    fun d n => rfl, fun d n => ?endTest⟩
  case drains =>
    intro k x runs filled notLate turn y
    rw [exec_streamEnd hears, takeStreamEnd_of_filled found filled, endOpen_drains notLate turn, drain_eq]
    rfl
  case breaks =>
    intro x filled notLate notStale far
    refine ⟨s.dev.breakSlot n, ?_, breaks_breakSlot ..⟩
    rw [exec_sample hears long, takeSample_of_filled found filled, arriveOpen_breaks notLate notStale far]
    rfl
  case ends =>
    intro x h
    refine ⟨s.dev.breakSlot n, ?_, breaks_breakSlot ..⟩
    rw [exec_streamEnd hears]
    rcases h with ⟨filled, notLate, notStale, far⟩ | ⟨draining, differs⟩
    · rw [takeStreamEnd_of_filled found filled, endOpen_breaks notLate notStale far]
      rfl
    · rw [takeStreamEnd_of_draining found draining, endDraining_breaks differs]
      rfl
  case report =>
    exact ⟨takeReport_of_absent, fun r found => takeReport_of_reader found⟩
  case handOff =>
    intro x set first read moved
    refine ⟨fun none nothing => by rw [none, nothing]; exact handOff_of_nothing .., fun some => ?_⟩
    have firstIff : ((d.slot n).consumed = false ∧
        reports.any (fun c => c.read && ((d.slot n).reader c.index).isSome) = true) ↔ first := by
      simp [first, x]
    unfold Device.handOff
    rw [if_neg fun none => some.elim (absurd none.1) (absurd none.2)]
    simp only [firstIff]
    have same : (d.slot n).firstRead = read := by
      unfold Slot.firstRead
      simp only [read, x]
      cases (d.slot n).state <;> rfl
    rw [same]
    rfl
  case cursors =>
    refine ⟨fun n index r bound found => ?_, fun none => ?_⟩
    · rw [cursor_start]; exact cursorOf_of_reader bound found
    · rw [cursor_start]; exact cursorOf_of_none none
  case readers =>
    intro bound reports handed
    unfold Block.handOffReaders
    rw [allReports_eq]
    rfl
  case leave =>
    refine ⟨fun none => ?_, fun r found => leaveIndex_of_reader found⟩
    unfold Slot.leaveIndex
    rw [none]
  case head =>
    intro y
    refine ⟨fun none => recompute_of_no_readers none, fun some => ?_⟩
    obtain ⟨c, low, reached, least⟩ := lowestCell_spec x.h some
    have moved : y = x.moveHead c := recompute_of_low low
    unfold Slot.moveHead at moved
    by_cases passed : precedes x.e c = true
    · rw [if_pos passed] at moved
      rw [moved]
      exact ⟨reached, least, rfl, fun _ => ⟨rfl, rfl⟩, fun behind => absurd (passed.symm.trans behind) Bool.noConfusion⟩
    · rw [if_neg passed] at moved
      rw [moved]
      refine ⟨reached, least, rfl, fun ahead => absurd ahead passed, fun _ => ⟨rfl, fun p samples => mem_of_data_mem_dropBehind,
        fun p samples => data_mem_dropBehind, fun first rest head => ?_⟩⟩
      have behind := first_dropBehind (c - x.h).isLt head
      cases first <;> exact behind
  case endTest =>
    intro x ends done
    refine ⟨fun going => if_neg going, fun ended => ?_⟩
    intro cause
    refine ⟨endTest_of_ends ended, fun y hy => ?_⟩
    rw [hy, slot_shutSlot_same]
    exact ⟨rfl, rfl, rfl, rfl, rfl, rfl, rfl, rfl⟩

end Sys2Proof.Machine
end

section
/-!
SUPPORT. CLIP_DATA cells for this unit (R109, R118).
-/
namespace Sys2Proof.Machine

theorem exec_clipData {s : State} {addr : Byte} (hears : s.hears addr = true) (wordA : BitVec 16) (index : BitVec 32)
    {payload : List Byte} (long : payload.length = 256) :
    exec (.clipData addr wordA index payload) s = .next (s.heardWith (s.dev.takeClipData wordA index.toNat payload)) := by
  have received := receiveCell_of_hears (c := { kind := 0x03, addr := addr, wordA := wordA, wordB := index, payload := payload })
    hears rfl (decide_eq_true long) (show (0x03 : Byte) ≠ 0x0F ∧ (0x03 : Byte) ≠ 0x0C by decide)
  change Host.Outcome.next (s.receiveCell .bench _) = _
  rw [received]
  rfl

theorem takeClipData_of_clip (d : Device) {wordA : BitVec 16} {c : Fin 256} (h : wordA.toNat = c.val) (i : Nat) (payload : List Byte) :
    d.takeClipData wordA i payload = { d with clips := d.clips.takeCell c i payload } := by
  have named : Fin.ofNat 256 wordA.toNat = c := Fin.ext ((Nat.mod_eq_of_lt (h ▸ c.isLt)).trans h)
  unfold Device.takeClipData
  rw [if_pos (h ▸ c.isLt), named]

theorem mem_insertIndex {i j : Nat} {received : List Nat} : j ∈ insertIndex i received ↔ j = i ∨ j ∈ received := by
  induction received with
  | nil => simp [insertIndex]
  | cons x rest ih =>
    unfold insertIndex
    split
    · simp
    · split
      · rename_i same
        subst same
        simp
      · rw [List.mem_cons, ih, List.mem_cons, or_left_comm]

section
variable {k : ClipStore} {c : Fin 256} {i : Nat} (payload : List Byte)

theorem takeCell_of_not_loading (h : (k.clips.get c).state ≠ .loading) : k.takeCell c i payload = k.countNotLoading := if_pos h

variable (loading : (k.clips.get c).state = .loading)
include loading

theorem takeCell_of_bad_index (h : ((k.clips.get c).length + 63) / 64 ≤ i) : k.takeCell c i payload = k.countBadIndex :=
  (if_neg (Classical.not_not.mpr loading)).trans (if_pos h)

theorem takeCell_of_load {slot : Fin 2} {load : LoadSlot} (h : i < ((k.clips.get c).length + 63) / 64)
    (found : k.loadSlotOf c = some (slot, load)) : k.takeCell c i payload = k.writeCell c slot load i payload := by
  unfold ClipStore.takeCell
  dsimp only
  rw [if_neg (Classical.not_not.mpr loading), if_neg (show ¬ cellsFor (k.clips.get c).length ≤ i from Nat.not_le.mpr h), found]

end

/-- The bytes of a run written within clip memory, and every other byte (R101). -/
theorem memRead_run (n : Nat) (m : List Host.Cell) {start : Nat} {bytes : List Byte} (within : start + bytes.length ≤ memoryEnd)
    (a : Nat) : memRead n (memWriteRun m start bytes) a =
      if start ≤ a ∧ a < start + bytes.length then bytes.getD (a - start) 0 else memRead n m a := by
  by_cases inside : start ≤ a ∧ a < start + bytes.length
  · obtain ⟨low, high⟩ := inside
    rw [if_pos ⟨low, high⟩]
    have at_a := memRead_run_inside n m start (a - start) bytes (by omega) within
    rwa [Nat.add_sub_cancel' low] at at_a
  · rw [if_neg inside]
    exact memRead_run_outside n m start a bytes (by omega)

/-- Settles O35: the cell is `writeCell` where the clip takes it, and a count where it does not. -/
theorem clipDataIsWrittenThroughTheExtents : Obligations.ClipDataIsWrittenThroughTheExtents := by
  unfold Obligations.ClipDataIsWrittenThroughTheExtents
  intro s addr wordA index payload c hears long named k x i start counted
  have out {clips : ClipStore} (taken : k.takeCell c i payload = clips) :
      exec (.clipData addr wordA index payload) s = .next (s.heardWith { s.dev with clips := clips }) := by
    rw [exec_clipData hears wordA index long, takeClipData_of_clip s.dev named, ← taken]
  refine ⟨fun idle => out (takeCell_of_not_loading payload idle), fun loading past => out (takeCell_of_bad_index payload loading past),
    fun slot load loading within found room => ?_⟩
  refine ⟨memWriteRun k.memory start payload, insertIndex i load.received, ?_, fun a => ?_, fun j => mem_insertIndex⟩
  · rw [out (takeCell_of_load payload loading within found), ClipStore.writeCell]
    by_cases again : i ∈ load.received
    · have contained : load.received.contains i = true := List.contains_iff_mem.mpr again
      rw [contained, if_pos again]
      rfl
    · have absent : load.received.contains i = false := by rwa [← Bool.not_eq_true, List.contains_iff_mem]
      rw [absent, if_neg again]
      rfl
  · have at_a := memRead_run s.dev.coldResets k.memory (start := start) (bytes := payload) (by rw [long]; exact room) a
    rwa [long] at at_a

end Sys2Proof.Machine
end

section
/-!
SUPPORT. The Event Map, the threshold, the cue lists and actions, selection, and the steps of a context (R122, R124 to R146).
-/
namespace Sys2Proof.Machine

/-! ## The Event Map (R124, R126) -/

theorem optU16_of_absent {p : List Byte} {i : Nat} (h : u16 p i = 0xFFFF) : optU16 p i = none := if_pos h

theorem optU16_of_present {p : List Byte} {i : Nat} (h : u16 p i ≠ 0xFFFF) : optU16 p i = some (u16 p i) := if_neg h

/-- A cue list operand out of range names a list above 255. -/
theorem listInRange_optU16 (p : List Byte) (i : Nat) :
    listInRange (optU16 p i) = false ↔ u16 p i ≠ 0xFFFF ∧ 255 < u16 p i := by
  by_cases absent : u16 p i = 0xFFFF
  · rw [optU16_of_absent absent]
    exact ⟨Bool.noConfusion, fun h => absurd absent h.1⟩
  · rw [optU16_of_present absent]
    exact decide_eq_false_iff_not.trans ⟨fun h => ⟨absent, by omega⟩, fun h => by omega⟩

theorem bind_optU16 (p : List Byte) (i : Nat) :
    (optU16 p i).bind (fin? 256) = if u16 p i = 0xFFFF then none else fin? 256 (u16 p i) := by
  by_cases absent : u16 p i = 0xFFFF
  · rw [optU16_of_absent absent, if_pos absent]; rfl
  · rw [optU16_of_present absent, if_neg absent]; rfl

section
variable {c : Caller} {p : List Byte} {s : State} (long : 9 ≤ p.length)
include long

theorem opMapWrite_of_no_mode (h : 1 < u8 p 2) : opMapWrite c p s = refuse .badField s := by
  simp [opMapWrite, long, boolEnumAt_of_lt h]

variable (mode : u8 p 2 ≤ 1)
include mode

theorem opMapWrite_of_no_source (h : 125 < u8 p 0) : opMapWrite c p s = refuse .outOfRange s := by
  simp [opMapWrite, long, boolEnumAt_of_le mode, fin?_of_le (Nat.succ_le_of_lt h)]

theorem opMapWrite_of_source {k : Fin 126} (hk : u8 p 0 = k.val) :
    opMapWrite c p s = if 7 < u8 p 1 ∨ u16 p 5 ≠ 0xFFFF ∧ 255 < u16 p 5 then refuse .outOfRange s
      else done { s.dev with cue := { s.dev.cue with map := put s.dev.cue.map k (mapEntryAt p (decide (u8 p 2 = 1))) } } := by
  simp only [opMapWrite, needs_of_le long, boolEnumAt_of_le mode, fin?_of_eq hk, listInRange_optU16]
  by_cases high : 7 < u8 p 1
  · rw [if_pos high, if_pos (.inl high)]
  · rw [if_neg high]
    by_cases list : u16 p 5 ≠ 0xFFFF ∧ 255 < u16 p 5
    · rw [if_pos list, if_pos (.inr list)]
    · rw [if_neg list, if_neg (not_or.mpr ⟨high, list⟩)]

end

/-- Settles O37: the stored entry is `mapEntryAt`, and the armed flag is written by `armSource`. -/
theorem eventMapEntriesAreStored : Obligations.EventMapEntriesAreStored := by
  unfold Obligations.EventMapEntriesAreStored
  refine ⟨fun s p ask long => ?write, fun via s p long => ?arm⟩
  case write =>
    intro list
    refine ⟨fun h => request_refuses rfl ask (opMapWrite_of_no_mode long h),
      fun mode h => request_refuses rfl ask (opMapWrite_of_no_source long mode h), fun k mode hk => ?_⟩
    have out := opMapWrite_of_source (c := .request) (s := begun .request s) long mode hk
    rw [begun_request_dev, mapEntryAt, bind_optU16] at out
    exact exec_ite (fun bad => request_refuses rfl ask (out.trans (if_pos bad)))
      fun good => exec_does rfl ask (out.trans (if_neg good))
  case arm =>
    intro d
    refine ⟨fun ask h => exec_refuses rfl ask (onSource_of_no_source long h),
      fun ask h => exec_refuses rfl ask (onSource_of_no_source long h), fun k hk => ?_⟩
    intro entry gives
    exact ⟨fun ask => exec_does rfl ask (onSource_of_source long hk), fun ask => exec_does rfl ask (onSource_of_source long hk)⟩

/-! ## Selection (R129, R130, R132) -/

section
variable {c : Cue}

theorem winner_of_no_pending (none_pending : ∀ k, c.pending.get k = none) : c.winner = none := by
  cases w : c.winner with
  | none => rfl
  | some k =>
    obtain ⟨-, n, ⟨⟨x, pending, -⟩, -⟩, -⟩ := winner_offers w
    rw [none_pending k] at pending
    cases pending

theorem selectN_of_no_winner (fuel : Nat) (h : c.winner = none) : c.selectN fuel = c := by
  cases fuel with
  | zero => rfl
  | succ fuel => unfold Cue.selectN; rw [h]

theorem select_of_no_pending (none_pending : ∀ k, c.pending.get k = none) : c.select = c :=
  selectN_of_no_winner 4 (winner_of_no_pending none_pending)

/-- The one candidate wins (R129). -/
theorem winner_of_only {k : Fin 126} {n : Nat} (room : c.stack.length < 4) (offer : c.offers k n)
    (only : ∀ j, j ≠ k → c.pending.get j = none) : c.winner = some k := by
  cases w : c.winner with
  | none =>
    have best := isBest_foldl (c := c) (seen := []) (sources := List.finRange 126) (best := none)
      (by simpa using List.pairwise_lt_finRange 126) (by intro j hj; cases hj)
    rw [Cue.winner, if_pos room, Option.map_eq_none_iff] at w
    rw [List.nil_append, w] at best
    exact absurd offer (best k (List.mem_finRange k) n)
  | some j =>
    obtain ⟨-, m, ⟨⟨x, pending, -⟩, -⟩, -⟩ := winner_offers w
    by_cases same : j = k
    · rw [same]
    · rw [only j same] at pending
      cases pending

end

/-- A source that offers starts at once where no other is pending (R129, R130). -/
theorem select_of_only {c : Cue} {k : Fin 126} {x : PendingEntry} (room : c.stack.length < 4) (pending : c.pending.get k = some x)
    (candidate : c.isCandidate x.level = true) (only : ∀ j, j ≠ k → c.pending.get j = none) :
    c.select = c.push k ∧ ∀ j, (c.push k).pending.get j = none := by
  have won : c.winner = some k := winner_of_only room ⟨⟨x, pending, rfl⟩, candidate⟩ only
  have cleared (j : Fin 126) : (c.push k).pending.get j = none := by
    simp only [Cue.push, pending, get_put]
    split
    · rfl
    · exact only j ‹_›
  have first : c.select = (c.push k).selectN 3 := by
    conv => lhs; unfold Cue.select Cue.selectN
    rw [won]
  exact ⟨first.trans (selectN_of_no_winner 3 (winner_of_no_pending cleared)), cleared⟩

/-- Settles O39: the winner is `winner_offers`, and the one source pending is selected by `select_of_only`. -/
theorem selectionStartsTheHighestLevel : Obligations.SelectionStartsTheHighestLevel := by
  unfold Obligations.SelectionStartsTheHighestLevel
  refine ⟨fun c k won => ?winner, fun d k detail list => ?starts⟩
  case winner =>
    obtain ⟨room, n, ⟨⟨x, pending, rfl⟩, candidate⟩, top⟩ := winner_offers won
    exact ⟨room, x, pending, candidate, fun j y hy offers => top j y.level ⟨⟨y, hy, rfl⟩, offers⟩⟩
  case starts =>
    intro e armed low high listed idle none_pending above context
    have effective : e.effective = e.level := if_pos armed
    have positive : e.effective ≠ 0 := by omega
    have raised := congrArg Device.cue (raise_of_level_pos (detail := detail) listed positive)
    rw [mark_of_not_pending _ _ _ (none_pending k)] at raised
    let x : PendingEntry := { level := e.effective, list := list, detail := detail, merge := 0 }
    let marked : Cue := { d.cue with pending := put d.cue.pending k (some x) }
    have pending : marked.pending.get k = some x := get_put_same ..
    have candidate : marked.isCandidate x.level = true := by
      have at_top : marked.engineLevel = 0 := by unfold Cue.engineLevel; rw [idle]
      simp only [Cue.isCandidate, at_top, Bool.and_eq_true, Bool.or_eq_true, decide_eq_true_eq]
      exact ⟨Nat.pos_of_ne_zero positive, by rw [show x.level = e.level from effective]; exact above⟩
    have only (j : Fin 126) (other : j ≠ k) : marked.pending.get j = none := by
      rw [get_put_of_ne _ _ other]
      exact none_pending j
    obtain ⟨pushed, cleared⟩ := select_of_only (c := marked) (by rw [idle]; decide) pending candidate only
    have cue : (d.raise k detail).cue = marked.push k := raised.trans pushed
    rw [cue]
    refine ⟨?_, cleared, ?_⟩
    · simp only [Cue.push, pending]
      rw [idle]
      simp only [contextOf, x, effective]
      rfl
    · simp only [Cue.push, pending]
      exact get_change_same ..

/-- Settles O38: each operation acts and then selects. -/
theorem thresholdAndAbortActAndSelect : Obligations.ThresholdAndAbortActAndSelect := by
  unfold Obligations.ThresholdAndAbortActAndSelect
  refine ⟨fun s p ask long => ?threshold, fun s p ask long => ?abort⟩
  case threshold =>
    intro cue
    refine ⟨?_, fun none_pending => select_of_no_pending none_pending⟩
    have out : opCueThreshold .request p (begun .request s) = if 7 < u8 p 0 then refuse .outOfRange (begun .request s)
        else done ({ (begun .request s).dev with cue := { (begun .request s).dev.cue with threshold := u8 p 0 } }).select :=
      needs_of_le long
    rw [begun_request_dev] at out
    exact exec_ite (fun bad => request_refuses rfl ask (out.trans (if_pos bad)))
      fun good => exec_does rfl ask (out.trans (if_neg good))
  case abort =>
    intro cue
    have out : opCueAbort .request p (begun .request s) = if u8 p 0 < 1 ∨ 7 < u8 p 0 then refuse .outOfRange (begun .request s)
        else done ((begun .request s).dev.abortLevel (u8 p 0)) := needs_of_le long
    rw [begun_request_dev] at out
    exact exec_ite (fun bad => request_refuses rfl ask (out.trans (if_pos bad)))
      fun good => exec_does rfl ask (out.trans (if_neg good))

/-! ## LIST_WRITE and CUE_WRITE (R136, R137) -/

theorem held_iff (c : Cue) (n : Fin 256) : c.held n = true ↔ ∃ x ∈ c.stack, x.list = n := by
  simp [Cue.held]

section
variable {c : Caller} {p : List Byte} {s : State} (long : 6 ≤ p.length)
include long

theorem opListWrite_of_no_list (h : 255 < u16 p 0) : opListWrite c p s = refuse .outOfRange s := by
  simp [opListWrite, long, fin?_of_le (Nat.succ_le_of_lt h)]

theorem opListWrite_of_list {n : Fin 256} (hn : u16 p 0 = n.val) :
    opListWrite c p s = if 2047 < u16 p 2 ∨ 64 < u16 p 4 then refuse .outOfRange s
      else if 2048 < u16 p 2 + u16 p 4 then refuse .outOfRange s
      else if ∃ x ∈ s.dev.cue.stack, x.list = n then refuse .inUse s
      else done { s.dev with cue := { s.dev.cue with
        lists := put s.dev.cue.lists n { first := u16 p 2, count := u16 p 4 } } } := by
  simp only [opListWrite, needs_of_le long, fin?_of_eq hn, held_iff]

end

theorem opCueWrite_eq (c : Caller) (p : List Byte) (s : State) :
    opCueWrite c p s =
      if p.length < 20 ∨ (p.length - 4) % 16 ≠ 0 ∨ 15 < (recordsAt p).length then refuse .badField s
      else if 2048 < u16 p 0 + (recordsAt p).length then refuse .outOfRange s
      else if ∃ r ∈ recordsAt p, r.kind ∉ actionKinds then refuse .badKind s
      else if ∃ i < (recordsAt p).length, s.dev.cue.slotHeld (u16 p 0 + i) = true then refuse .inUse s
      else done { s.dev with cue := { s.dev.cue with actions := writeRecords s.dev.cue.actions (u16 p 0) (recordsAt p) } } := by
  have kinds : ((recordsAt p).any fun x => !actionKinds.contains x.kind) = true ↔ ∃ r ∈ recordsAt p, r.kind ∉ actionKinds := by
    simp
  have slots : ((List.range (recordsAt p).length).any fun i => s.dev.cue.slotHeld (u16 p 0 + i)) = true ↔
      ∃ i < (recordsAt p).length, s.dev.cue.slotHeld (u16 p 0 + i) = true := by
    simp
  simp only [opCueWrite, kinds, slots]

/-- Records written into consecutive slots stand there, and every other slot is as before (R137). -/
theorem writeRecords_get (a : Vector ActionRecord 2048) (first : Nat) (records : List ActionRecord) (j : Fin 2048)
    (room : first + records.length ≤ 2048) :
    (writeRecords a first records).get j =
      if first ≤ j.val ∧ j.val < first + records.length then records.getD (j.val - first) ActionRecord.nop else a.get j := by
  induction records generalizing a first with
  | nil => exact (if_neg fun h => Nat.not_lt.mpr h.1 h.2).symm
  | cons x rest ih =>
    rw [List.length_cons] at room
    rw [writeRecords, ih _ _ (by omega), List.length_cons]
    have slot : (Fin.ofNat 2048 first).val = first := Nat.mod_eq_of_lt (by omega)
    by_cases here : j = Fin.ofNat 2048 first
    · have at_first : j.val = first := by rw [here, slot]
      rw [if_neg (by omega), if_pos (by omega), here, get_put_same, slot, Nat.sub_self]
      rfl
    · have off : j.val ≠ first := fun same => here (Fin.ext (same.trans slot.symm))
      rw [get_put_of_ne _ _ here]
      by_cases behind : first + 1 ≤ j.val ∧ j.val < first + 1 + rest.length
      · rw [if_pos behind, if_pos (by omega), show j.val - first = (j.val - (first + 1)) + 1 by omega, List.getD_cons_succ]
      · rw [if_neg behind, if_neg (by omega)]

/-- A request whose checks end the operation one after another: what it concludes with, check by check. -/
theorem refuses_or {op : Op} {kind : Byte} {c : Instr} {s : State} {p : List Byte} (found : operationOf c = some (.request, kind, op))
    (ask : asked .request kind s p = true) {P : Prop} [Decidable P] {r : Result} {o : OpOut} {u : Out}
    (out : op .request p (begun .request s) = if P then refuse r (begun .request s) else o)
    (next : op .request p (begun .request s) = o → exec c s = u) :
    exec c s = if P then .next (concluded .request s s.dev r []) else u := by
  split
  · rename_i bad
    exact request_refuses found ask (out.trans (if_pos bad))
  · rename_i good
    exact next (out.trans (if_neg good))

/-- Settles O40: the checks stand in the operations as the statement has them. -/
theorem listAndCueWritesStoreWhole : Obligations.ListAndCueWritesStoreWhole := by
  unfold Obligations.ListAndCueWritesStoreWhole
  intro s p cue gives
  refine ⟨fun ask long h => request_refuses rfl ask (opListWrite_of_no_list long h), fun n ask long hn => ?list,
    fun ask => ?actions, writeRecords_get⟩
  case list =>
    intro first count
    have out := opListWrite_of_list (c := .request) (s := begun .request s) long hn
    rw [begun_request_dev] at out
    exact refuses_or rfl ask out fun out => refuses_or rfl ask out fun out => refuses_or rfl ask out fun out => exec_does rfl ask out
  case actions =>
    intro first records
    have out := opCueWrite_eq .request p (begun .request s)
    rw [begun_request_dev] at out
    exact refuses_or rfl ask out fun out => refuses_or rfl ask out fun out => refuses_or rfl ask out fun out =>
      refuses_or rfl ask out fun out => exec_does rfl ask out

/-! ## Steps of a context (R133 to R145) -/

section
variable {s : State} {top : Context} {rest : List Context} (stack : s.dev.cue.stack = top :: rest)
include stack

theorem begun_action : begun .action s =
    { s with dev := { s.dev with cue := { s.dev.cue with stack := { top with index := top.index + 1 } :: rest } } } := by
  simp only [begun, stack]

theorem callerOf_action : callerOf .action s = .action top.source top.reference := by
  simp only [callerOf, stack]

theorem concluded_action_ok (d : Device) (data : List Byte) : concluded .action s d .ok data = { s with dev := d } := by
  simp only [concluded, stack, if_true]

theorem concluded_action_refused (d : Device) {r : Result} (data : List Byte) (refused : r ≠ .ok) :
    concluded .action s d r data = { s with dev := d.cueFault top.list top.index r } := by
  simp only [concluded, stack, if_neg refused]

/-- The top context of the blocks that an action finds has its index raised. -/
theorem stack_begun_action : (begun .action s).dev.cue.stack = { top with index := top.index + 1 } :: rest := by
  rw [begun_action stack]

theorem popContext_of_end (running : top.state = .running) (ended : (s.dev.cue.lists.get top.list).count ≤ top.index) :
    s.dev.popContext = ({ s.dev with cue := { s.dev.cue with stack := rest } }).select := by
  unfold Device.popContext Cue.runningTop
  simp only [stack, running, if_true]
  exact if_pos ended

end

section
variable {c : Caller} {p : List Byte} {s : State} (long : 5 ≤ p.length)
include long

theorem opWait_of_no_lane (h : 7 < u8 p 0) : opWait c p s = refuse .outOfRange s := by
  simp [opWait, long, fin?_of_le (Nat.succ_le_of_lt h)]

theorem opWait_of_lane {l : Fin 8} (hl : u8 p 0 = l.val) : opWait c p s = waitOn s l (u32 p 1) := by
  simp [opWait, long, fin?_of_eq hl]

end

theorem waitOn_of_stack {s : State} {top : Context} {rest : List Context} (stack : s.dev.cue.stack = top :: rest) (l : Fin 8) (n : Nat) :
    waitOn s l n =
      if (s.dev.lane l).state = .stopped then done (s.dev.abortContext top rest)
      else if 281474976710656 ≤ (s.dev.lane l).time + n then refuse .outOfRange s
      else done { s.dev with cue := { s.dev.cue with
        stack := { top with state := .waiting l ((s.dev.lane l).time + n), reference := some (l, (s.dev.lane l).time + n) } :: rest } } := by
  unfold waitOn
  rw [stack]
  rfl

/-- Settles O42: each action's operation on the stack as it finds it, the index of the top context raised. -/
theorem actionsStepAndWaitHoldsTheContext : Obligations.ActionsStepAndWaitHoldsTheContext := by
  unfold Obligations.ActionsStepAndWaitHoldsTheContext
  refine ⟨fun s top rest stack => ?steps, fun s p top rest ask long stack => ?wait⟩
  case steps =>
    intro d popped
    refine ⟨fun p ask => ?_, fun p ask long => ?_, fun running ended => ?_⟩
    · have done := exec_does (c := .nop) (via := .action) rfl ask rfl
      rwa [concluded_action_ok stack] at done
    · intro told
      have out : opNotice (callerOf .action s) p (begun .action s) =
          done (d.handNotice .user (u8 p 0) 0 (BitVec.ofNat 8 top.source.val)) := by
        rw [callerOf_action stack]
        exact needs_of_le long
      rw [exec_does (c := .notice) rfl ask out, concluded_action_ok stack]
      rfl
    · change Host.Outcome.next { s with dev := s.dev.popContext } = _
      rw [popContext_of_end stack running ended]
      rfl
  case wait =>
    intro d
    refine ⟨fun h => ?_, fun l hl => ?_⟩
    · rw [exec_refuses (c := .wait) rfl ask (opWait_of_no_lane long h), concluded_action_refused stack _ _ Result.noConfusion]
    · intro target waiting left d'
      have lane : (begun .action s).dev.lane l = s.dev.lane l := by rw [begun_action stack]; rfl
      have out := (opWait_of_lane (c := callerOf .action s) (s := begun .action s) long hl).trans
        (waitOn_of_stack (stack_begun_action stack) l (u32 p 1))
      rw [lane] at out
      by_cases stopped : (s.dev.lane l).state = .stopped
      · rw [if_pos stopped] at out
        rw [exec_does (c := .wait) rfl ask out, concluded_action_ok stack, show d' = _ from if_pos stopped]
        rfl
      · rw [if_neg stopped] at out
        by_cases past : 281474976710656 ≤ target
        · rw [exec_refuses (c := .wait) rfl ask (out.trans (if_pos past)), concluded_action_refused stack _ _ Result.noConfusion,
            show d' = _ from (if_neg stopped).trans (if_pos past)]
        · rw [exec_does (c := .wait) rfl ask (out.trans (if_neg past)), concluded_action_ok stack,
            show d' = _ from (if_neg stopped).trans (if_neg past)]

end Sys2Proof.Machine
end

section
/-!
SUPPORT. Triggers, markers and meters (R149 to R167).
-/
namespace Sys2Proof.Machine

/-! ## Triggers (R150 to R152) -/

section
variable {c : Caller} {p : List Byte} {s : State} (long : 5 ≤ p.length)
include long

theorem opTrigConfig_of_no_trigger (h : 3 < u8 p 0) : opTrigConfig c p s = refuse .outOfRange s := by
  simp [opTrigConfig, long, fin?_of_le (Nat.succ_le_of_lt h)]

theorem opTrigConfig_of_trigger {n : Fin 4} (hn : u8 p 0 = n.val) :
    opTrigConfig c p s = if 2 < u8 p 1 then refuse .badField s
      else if u8 p 2 < 1 ∨ 31 < u8 p 2 then refuse .outOfRange s
      else
        let x := (s.dev.triggers.get n).configure s.dev.now (u8 p 1) (u8 p 2) (flagAt p 3) (flagAt p 4)
        done { s.dev with triggers := put s.dev.triggers n x } := by
  simp only [opTrigConfig, needs_of_le long, fin?_of_eq hn]

end

/-- Settles O43: the settings are `configure`, and a tick is `tick` with its rise and its fall. -/
theorem triggersAreConfiguredAndTick : Obligations.TriggersAreConfiguredAndTick := by
  unfold Obligations.TriggersAreConfiguredAndTick
  intro period
  have periods : period = tickPeriod := funext fun
    | 0 => rfl
    | 1 => rfl
    | _ + 2 => rfl
  rw [periods]
  refine ⟨fun s p ask long => ?config, fun s n high up down hup hdown => ?tick⟩
  case config =>
    intro gives
    refine ⟨fun h => request_refuses rfl ask (opTrigConfig_of_no_trigger long h), fun n hn => ?_⟩
    have out := opTrigConfig_of_trigger (c := .request) (s := begun .request s) long hn
    rw [begun_request_dev] at out
    exact refuses_or rfl ask out fun out => refuses_or rfl ask out fun out => exec_does rfl ask out
  case tick =>
    intro x count y d gives marked risen fallen rise fall
    obtain rfl : up = srcTriggerRise n := Fin.ext hup
    obtain rfl : down = srcTriggerFall n := Fin.ext hdown
    change gives (s.dev.tick n high) = _
    have ticked : s.dev.tick n high = if x.filtered = false ∧ count = x.depth then d.rise n y
        else if x.filtered = true ∧ count = 0 then d.fall n y else { d with triggers := put d.triggers n y } := rfl
    rw [ticked, apply_ite gives, apply_ite gives]
    rfl

/-! ## Markers (R156 to R160) -/

theorem conditionAt_of_lt {p : List Byte} {i : Nat} (h : 7 < u8 p i) : conditionAt p i = none := by
  unfold conditionAt
  split
  case h_9 => rfl
  all_goals omega

theorem driveAt_of_lt {p : List Byte} {i : Nat} (h : 2 < u8 p i) : driveAt p i = none := by
  unfold driveAt
  split
  · omega
  · omega
  · omega
  · rfl

theorem frozenLevelAt_of_lt {p : List Byte} {i : Nat} (h : 2 < u8 p i) : frozenLevelAt p i = none := by
  unfold frozenLevelAt
  split
  · omega
  · omega
  · omega
  · rfl

theorem markerFrozen_iff (d : Device) (m : Marker) :
    d.markerFrozen m = true ↔ ∃ l, m.condition.lane = some l ∧ (d.lane l).state = .frozen := by
  unfold Device.markerFrozen
  cases m.condition.lane with
  | none => simp
  | some l => simp

section
variable {c : Caller} {p : List Byte} {s : State} (long : 8 ≤ p.length)
include long

theorem opMarkerConfig_of_no_code
    (h : conditionAt p 1 = none ∨ boolEnumAt p 3 = none ∨ driveAt p 4 = none ∨ frozenLevelAt p 7 = none) :
    opMarkerConfig c p s = refuse .badField s := by
  simp only [opMarkerConfig, needs_of_le long]
  split
  · rename_i condition low drive level
    rw [condition, low, drive, level] at h
    simp at h
  · rfl

variable {condition : Option Condition} {low : Bool} {drive : Drive} {level : FrozenLevel} (hc : conditionAt p 1 = some condition)
  (hl : boolEnumAt p 3 = some low) (hd : driveAt p 4 = some drive) (hf : frozenLevelAt p 7 = some level)
include hc hl hd hf

theorem opMarkerConfig_of_out_of_range (h : 5 < u8 p 0 ∨ condition = none ∨ u16 p 5 < 1 ∨ 255 < u16 p 5) :
    opMarkerConfig c p s = refuse .outOfRange s := by
  simp only [opMarkerConfig, needs_of_le long, hc, hl, hd, hf]
  split
  · rename_i n x named
    refine if_pos ((h.resolve_left fun high => ?_).resolve_left (Option.some_ne_none _))
    rw [fin?_of_le (Nat.succ_le_of_lt high)] at named
    cases named
  · rfl

theorem opMarkerConfig_of_marker {n : Fin 6} {x : Condition} (hn : u8 p 0 = n.val) (hx : condition = some x) (wide : 1 ≤ u16 p 5)
    (narrow : u16 p 5 ≤ 255) :
    opMarkerConfig c p s = done (s.dev.configureMarker n ((s.dev.markers.get n).configure x low drive (u16 p 5) level)) := by
  simp only [opMarkerConfig, needs_of_le long, hc, hl, hd, hf, fin?_of_eq hn, hx]
  exact if_neg (by omega)

end

/-- The level that a configured marker of a FROZEN lane's condition holds: the lane runs, and no pulse does (R155, R159). -/
def Condition.runs : Condition → Bool
  | .laneRunning _ => true
  | _ => false

theorem conditionLevel_configured {d : Device} {m : Marker} {c : Condition} {low : Bool} {drive : Drive} {width : Nat}
    {level : FrozenLevel} {l : Fin 8} (lane : c.lane = some l) (frozen : (d.lane l).state = .frozen) :
    d.conditionLevel false (m.configure c low drive width level) = c.runs := by
  cases c with
  | laneRunning k =>
    obtain rfl : k = l := Option.some.inj lane
    simp [Device.conditionLevel, Marker.configure, Condition.runs, frozen]
  | voiceStartPulse => rfl
  | segmentEdgePulse => rfl
  | streamUnderrun | triggerLevel | cueLevelAtLeast | linkUp | soft => cases lane

theorem configureMarker_of_hold {d : Device} (n : Fin 6) {m : Marker} {c : Condition} {low : Bool} {drive : Drive} {width : Nat}
    {l : Fin 8} (lane : c.lane = some l) (frozen : (d.lane l).state = .frozen) :
    d.configureMarker n (m.configure c low drive width .holdLast) =
      d.setMarker n { m.configure c low drive width .holdLast with frozenHold := some c.runs } := by
  have takes : d.markerFrozen (m.configure c low drive width .holdLast) = true := (markerFrozen_iff _ _).mpr ⟨l, lane, frozen⟩
  unfold Device.configureMarker
  rw [if_pos takes, conditionLevel_configured lane frozen]
  rfl

theorem configureMarker_of_other {d : Device} (n : Fin 6) {m : Marker} {c : Condition} {low : Bool} {drive : Drive} {width : Nat}
    {level : FrozenLevel} (h : (¬ ∃ l, c.lane = some l ∧ (d.lane l).state = .frozen) ∨ level ≠ .holdLast) :
    d.configureMarker n (m.configure c low drive width level) = d.setMarker n (m.configure c low drive width level) := by
  unfold Device.configureMarker
  split
  · rename_i frozen
    have given : level ≠ .holdLast := h.resolve_left (Classical.not_not.mpr ((markerFrozen_iff _ _).mp frozen))
    cases level with
    | holdLast => exact absurd rfl given
    | forceActive => rfl
    | forceInactive => rfl
  · rfl

section
variable {c : Caller} {p : List Byte} {s : State} (long : 2 ≤ p.length)
include long

theorem opMarkerSet_of_no_level (h : 1 < u8 p 1) : opMarkerSet c p s = refuse .badField s := by
  simp [opMarkerSet, long, boolEnumAt_of_lt h]

variable (level : u8 p 1 ≤ 1)
include level

theorem opMarkerSet_of_no_marker (h : 5 < u8 p 0) : opMarkerSet c p s = refuse .outOfRange s := by
  simp [opMarkerSet, long, boolEnumAt_of_le level, fin?_of_le (Nat.succ_le_of_lt h)]

theorem opMarkerSet_of_marker {n : Fin 6} (hn : u8 p 0 = n.val) :
    opMarkerSet c p s = done (s.dev.setMarker n { s.dev.markers.get n with softLevel := decide (u8 p 1 = 0) }) := by
  have active : (!decide (u8 p 1 = 1)) = decide (u8 p 1 = 0) := by
    obtain zero | one : u8 p 1 = 0 ∨ u8 p 1 = 1 := by omega
    · rw [zero]; rfl
    · rw [one]; rfl
  simp only [opMarkerSet, needs_of_le long, boolEnumAt_of_le level, fin?_of_eq hn, active]

end

section
variable {d : Device} {n : Fin 6}

theorem pulseBegin_of_none_due (h : (d.markers.get n).startsDue = []) : d.pulseBegin n = d := by
  unfold Device.pulseBegin
  dsimp only
  rw [h]

theorem pulseBegin_of_frozen (h : d.markerFrozen (d.markers.get n) = true) : d.pulseBegin n = d := by
  unfold Device.pulseBegin
  dsimp only
  split
  · rfl
  · exact if_pos h

theorem pulseBegin_of_due {first : Nat} {rest : List Nat} (due : (d.markers.get n).startsDue = first :: rest)
    (h : ¬ d.markerFrozen (d.markers.get n) = true) :
    d.pulseBegin n = (d.reach first).setMarker n
      { d.markers.get n with startsDue := rest, pulse := .running (max d.now first + (d.markers.get n).width * 30720) } := by
  unfold Device.pulseBegin
  dsimp only
  rw [due]
  exact if_neg h

theorem pulseEnd_of_running {e : Nat} (h : (d.markers.get n).pulse = .running e) :
    d.pulseEnd n = (d.reach e).setMarker n { d.markers.get n with pulse := .none } := by
  unfold Device.pulseEnd
  dsimp only
  rw [h]

theorem pulseEnd_of_not_running (h : ∀ e, (d.markers.get n).pulse ≠ .running e) : d.pulseEnd n = d := by
  unfold Device.pulseEnd
  dsimp only
  split
  · exact absurd ‹_› (h _)
  · rfl
  · rfl

end

/-- Settles O44: the configuration, the soft level, the pulses and the pin, each by its equations. -/
theorem markersAreSetAndPulsed : Obligations.MarkersAreSetAndPulsed := by
  unfold Obligations.MarkersAreSetAndPulsed
  refine ⟨fun s p ask long => ?config, fun via s p ask long => ?set, fun s n => ?pulse, fun m active => ?pin⟩
  case config =>
    intro gives
    refine ⟨fun h => request_refuses rfl ask (opMarkerConfig_of_no_code long ?_), fun condition low drive level hc hl hd hf =>
      ⟨fun h => request_refuses rfl ask (opMarkerConfig_of_out_of_range long hc hl hd hf h), fun n c hn hx wide narrow => ?_⟩⟩
    · exact h.imp conditionAt_of_lt (.imp boolEnumAt_of_lt (.imp driveAt_of_lt frozenLevelAt_of_lt))
    · intro frozen running m held
      have out := opMarkerConfig_of_marker (c := .request) (s := begun .request s) long hc hl hd hf hn hx wide narrow
      rw [begun_request_dev] at out
      refine ⟨fun ⟨l, lane, still⟩ hold => ?_, fun other => ?_⟩
      · subst hold
        rw [configureMarker_of_hold n lane still] at out
        exact exec_does rfl ask out
      · rw [configureMarker_of_other n other] at out
        exact exec_does rfl ask out
  case set =>
    exact ⟨fun h => exec_refuses rfl ask (opMarkerSet_of_no_level long h),
      fun level h => exec_refuses rfl ask (opMarkerSet_of_no_marker long level h),
      fun n level hn => exec_does rfl ask (opMarkerSet_of_marker long level hn)⟩
  case pulse =>
    intro m frozen
    have next {c : Instr} {d e : Device} (out : exec c s = .next { s with dev := d }) (same : d = e) :
        exec c s = .next { s with dev := e } := same ▸ out
    refine ⟨fun none => next (d := s.dev.pulseBegin n) rfl ?_, fun first rest due going => next (d := s.dev.pulseBegin n) rfl ?_,
      fun none => next (d := s.dev.pulseEnd n) rfl (pulseEnd_of_not_running none),
      fun e running => next (d := s.dev.pulseEnd n) rfl (pulseEnd_of_running running)⟩
    · exact none.elim pulseBegin_of_none_due fun still => pulseBegin_of_frozen ((markerFrozen_iff _ _).mpr still)
    · exact pulseBegin_of_due due fun still => going ((markerFrozen_iff _ _).mp still)
  case pin =>
    unfold Marker.pin
    cases m.activeLow <;> cases active <;> rfl

/-! ## Meters (R162, R163, R167) -/

theorem meterSourceAt_of_lt {p : List Byte} {i : Nat} (h : 2 < u8 p i) : meterSourceAt p i = none := by
  unfold meterSourceAt
  split
  · omega
  · omega
  · omega
  · rfl

theorem thresholdInRange_eq_false (x : Int) : thresholdInRange x = false ↔ x < -12000 ∨ 1000 < x := by
  simp only [thresholdInRange, Bool.and_eq_false_iff, decide_eq_false_iff_not, Int.not_le]

section
variable {c : Caller} {p : List Byte} {s : State} (long : 9 ≤ p.length)
include long

theorem opMeterConfig_of_no_code (h : meterSourceAt p 1 = none ∨ boolEnumAt p 4 = none) :
    opMeterConfig c p s = refuse .badField s := by
  simp only [opMeterConfig, needs_of_le long]
  split
  · rename_i source continuous
    rw [source, continuous] at h
    simp at h
  · rfl

variable {source : Option MeterSource} {continuous : Bool} (hs : meterSourceAt p 1 = some source)
  (hc : boolEnumAt p 4 = some continuous)
include hs hc

theorem opMeterConfig_of_no_lane (h : 7 < u8 p 0) : opMeterConfig c p s = refuse .outOfRange s := by
  simp [opMeterConfig, long, hs, hc, fin?_of_le (Nat.succ_le_of_lt h)]

variable {l : Fin 8} (hl : u8 p 0 = l.val)
include hl

theorem opMeterConfig_of_bad_window (h : 3 < u8 p 3) : opMeterConfig c p s = refuse .badField s := by
  simp [opMeterConfig, long, hs, hc, fin?_of_eq hl, h]

variable (window : u8 p 3 ≤ 3)
include window

theorem opMeterConfig_of_out_of_range
    (h : source = none ∨ s16 p 5 < -12000 ∨ 1000 < s16 p 5 ∨ s16 p 7 < -12000 ∨ 1000 < s16 p 7) :
    opMeterConfig c p s = refuse .outOfRange s := by
  simp only [opMeterConfig, needs_of_le long, hs, hc, fin?_of_eq hl, if_neg (Nat.not_lt.mpr window), thresholdInRange_eq_false]
  cases source with
  | none => rfl
  | some src => exact if_pos (by rw [or_assoc]; exact h.resolve_left (Option.some_ne_none _))

theorem opMeterConfig_of_source {src : MeterSource} (hsrc : source = some src) (high : -12000 ≤ s16 p 5 ∧ s16 p 5 ≤ 1000)
    (low : -12000 ≤ s16 p 7 ∧ s16 p 7 ≤ 1000) :
    opMeterConfig c p s = if s16 p 5 < s16 p 7 then refuse .badField s
      else done (s.dev.setMeter l ((s.dev.meter l).configure src (u8 p 3) continuous (s16 p 5) (s16 p 7))) := by
  subst hsrc
  simp only [opMeterConfig, needs_of_le long, hs, hc, fin?_of_eq hl, if_neg (Nat.not_lt.mpr window), thresholdInRange_eq_false]
  exact if_neg (by omega)

end

/-- A meter configured, by its state and by what changes (R162). -/
theorem meterConfigure_eq (x : Meter) (src : MeterSource) (window : Nat) (continuous : Bool) (high low : Int) :
    let y : Meter := { x with source := src, window := window, continuous := continuous, high := high, low := low }
    let empty : Meter := { y with acc := Val.zero, counted := 0, settlePending := false }
    x.configure src window continuous high low =
      if x.state = .idle then
        if src = .off then { y with settlePending := false }
        else if x.source = .off ∨ window ≠ x.window then { y with settlePending := true }
        else y
      else if src = .off then { empty with state := .idle }
      else if window ≠ x.window then { empty with state := .settling }
      else if src ≠ x.source then { empty with state := x.state }
      else y := by
  intro y empty
  have going (busy : x.state = .measuring ∨ x.state = .settling) :
      (if src = .off then { y.stop with settlePending := false }
        else if src = x.source ∧ window = x.window then y
        else { y.discard with settlePending := false
                              state := if window ≠ x.window ∨ x.state = .settling then .settling else .measuring }) =
      if src = .off then { empty with state := .idle }
      else if window ≠ x.window then { empty with state := .settling }
      else if src ≠ x.source then { empty with state := x.state }
      else y := by
    by_cases off : src = .off
    · rw [if_pos off, if_pos off]; rfl
    rw [if_neg off, if_neg off]
    by_cases wide : window = x.window
    · by_cases same : src = x.source
      · rw [if_pos ⟨same, wide⟩, if_neg (Classical.not_not.mpr wide), if_neg (Classical.not_not.mpr same)]
      · rw [if_neg fun h => same h.1, if_neg (Classical.not_not.mpr wide), if_pos same]
        rcases busy with state | state
        · rw [state, if_neg (not_or.mpr ⟨Classical.not_not.mpr wide, MeterState.noConfusion⟩)]; rfl
        · rw [state, if_pos (.inr rfl)]; rfl
    · rw [if_neg fun h => wide h.2, if_pos wide, if_pos (.inl wide)]; rfl
  unfold Meter.configure
  dsimp only
  split
  case h_1 idle =>
    rw [if_pos idle]
    by_cases off : src = .off
    · rw [if_pos off, if_pos off]
    rw [if_neg off, if_neg off]
    by_cases changed : x.source = .off ∨ window ≠ x.window
    · have differs : ¬ (src = x.source ∧ window = x.window) := fun ⟨same, wide⟩ =>
        changed.elim (fun was => off (same.trans was)) fun h => h wide
      have pending : (x.settlePending || decide (x.source = .off) || decide (window ≠ x.window)) = true := by
        rw [Bool.or_assoc, Bool.or_eq_true, Bool.or_eq_true, decide_eq_true_eq, decide_eq_true_eq]
        exact .inr changed
      rw [if_pos changed, if_neg differs, pending]
    · obtain ⟨was, wide⟩ := not_or.mp changed
      have pending : (x.settlePending || decide (x.source = .off) || decide (window ≠ x.window)) = x.settlePending := by
        rw [decide_eq_false was, decide_eq_false wide, Bool.or_false, Bool.or_false]
      rw [if_neg changed, pending]
      exact ite_self _
  case h_2 measuring => exact (going (.inl measuring)).trans (if_neg (measuring ▸ MeterState.noConfusion)).symm
  case h_3 settling => exact (going (.inr settling)).trans (if_neg (settling ▸ MeterState.noConfusion)).symm

/-- A METER_START of a meter, by its state (R163). -/
theorem meterStart_eq (x : Meter) :
    let empty : Meter := { x with acc := Val.zero, counted := 0 }
    x.start = if x.state = .idle then
        (if x.settlePending then { empty with state := .settling, settlePending := false } else { empty with state := .measuring })
      else x := by
  intro empty
  unfold Meter.start
  split
  · cases pending : x.settlePending with
    | true => rfl
    | false =>
      rw [if_neg Bool.false_ne_true, ← pending]
      simp only [Meter.discard, pending]
      rfl
  · rfl

section
variable {c : Caller} {p : List Byte} {s : State} (long : 1 ≤ p.length) {l : Fin 8} (hl : u8 p 0 = l.val)
include long hl

theorem opMeterStart_of_lane : opMeterStart c p s =
    if (s.dev.lane l).state = .stopped then refuse .laneStopped s
    else if (s.dev.meter l).source = .off then refuse .busy s
    else done (s.dev.setMeter l (s.dev.meter l).start) := onLane_of_lane long hl

theorem opMeterStop_of_lane : opMeterStop c p s =
    if (s.dev.meter l).state = .idle then done s.dev else done (s.dev.setMeter l (s.dev.meter l).stop) := onLane_of_lane long hl

theorem opMeterRead_of_lane : opMeterRead c p s = readMeter s l := onLane_of_lane long hl

end

theorem readMeter_of_none {s : State} {l : Fin 8} (h : (s.dev.meter l).result = none) :
    readMeter s l = { result := .notReady
                      data := pack [.one (b8 (meterStateCode (s.dev.meter l).state) ++ b32 (s.dev.meter l).counted)]
                      dev := s.dev } := by
  unfold readMeter
  dsimp only
  rw [h]

theorem readMeter_of_result {s : State} {l : Fin 8} {level : Int} {time : Nat} (h : (s.dev.meter l).result = some (level, time)) :
    let x := s.dev.meter l
    readMeter s l = { result := .ok
                      data := pack [.one (b16s level ++ b48 time ++ bFlag x.fresh ++ b8 (meterStateCode x.state)
                        ++ meterSourceBytes x.source ++ b8 x.window ++ bFlag x.continuous)]
                      dev := s.dev.setMeter l { x with fresh := false } } := by
  unfold readMeter
  dsimp only
  split
  · rename_i none
    rw [none] at h
    cases h
  · rename_i found
    rw [found] at h
    cases h
    rfl

theorem length_meterSourceBytes (x : MeterSource) : (meterSourceBytes x).length = 2 := by
  cases x <;> rfl

theorem setMeter_self (d : Device) (l : Fin 8) : d.setMeter l (d.meter l) = d := by
  unfold Device.setMeter Device.meter
  rw [put_get_self]

/-- Settles O45: the settings are `meterConfigure_eq`, a start is `meterStart_eq`, and a read answers with the result. -/
theorem metersAreConfiguredAndRun : Obligations.MetersAreConfiguredAndRun := by
  unfold Obligations.MetersAreConfiguredAndRun
  refine ⟨fun s p ask long => ?config, fun via s p long => ?run, fun s p ask long => ?read⟩
  case config =>
    intro gives
    refine ⟨fun h => request_refuses rfl ask
      (opMeterConfig_of_no_code long (h.imp meterSourceAt_of_lt boolEnumAt_of_lt)), fun source continuous hs hc =>
      ⟨fun h => request_refuses rfl ask (opMeterConfig_of_no_lane long hs hc h), fun l hl => ?_⟩⟩
    intro window high low
    refine ⟨fun h => request_refuses rfl ask (opMeterConfig_of_bad_window long hs hc hl h), fun narrow h => request_refuses rfl ask
      (opMeterConfig_of_out_of_range long hs hc hl narrow h), fun src narrow hsrc high1 high2 low1 low2 => ?_⟩
    intro x y empty m
    have out := opMeterConfig_of_source (c := .request) (s := begun .request s) long hs hc hl narrow hsrc ⟨high1, high2⟩ ⟨low1, low2⟩
    rw [begun_request_dev, meterConfigure_eq] at out
    exact refuses_or rfl ask out fun out => exec_does rfl ask out
  case run =>
    intro d
    refine ⟨fun ask h => exec_refuses rfl ask (onLane_of_no_lane long h),
      fun ask h => exec_refuses rfl ask (onLane_of_no_lane long h), fun l hl => ?_⟩
    intro x empty begins gives
    refine ⟨fun ask => ?_, fun ask => ?_⟩
    · have out := opMeterStart_of_lane (c := callerOf via s) (s := begun via s) long hl
      rw [meterStart_eq] at out
      by_cases stopped : (d.lane l).state = .stopped
      · rw [if_pos stopped]
        exact exec_refuses rfl ask (out.trans (if_pos stopped))
      rw [if_neg stopped]
      rw [if_neg stopped] at out
      by_cases off : x.source = .off
      · rw [if_pos off]
        exact exec_refuses rfl ask (out.trans (if_pos off))
      rw [if_neg off]
      rw [if_neg off] at out
      by_cases idle : x.state = .idle
      · rw [if_pos idle]
        rw [if_pos idle] at out
        exact exec_does rfl ask out
      · rw [if_neg idle]
        rw [if_neg idle, setMeter_self] at out
        exact exec_does rfl ask out
    · have out := opMeterStop_of_lane (c := callerOf via s) (s := begun via s) long hl
      split
      · exact exec_does rfl ask (out.trans (if_pos ‹_›))
      · exact exec_does rfl ask (out.trans (if_neg ‹_›))
  case read =>
    refine ⟨fun h => request_refuses rfl ask (onLane_of_no_lane long h), fun l hl => ?_⟩
    intro x read
    have out := opMeterRead_of_lane (c := .request) (s := begun .request s) long hl
    refine ⟨fun none => ?_, fun level time some => ?_⟩
    · rw [readMeter_of_none (by rw [begun_request_dev]; exact none), begun_request_dev] at out
      rw [exec_asked (c := .meterRead) rfl ask out, pack_one (by simp [b8, b32, b16])]
    · rw [readMeter_of_result (by rw [begun_request_dev]; exact some), begun_request_dev] at out
      rw [exec_asked (c := .meterRead) rfl ask out, pack_one (by simp [b8, b16s, b48, b32, b16, bFlag, length_meterSourceBytes])]
      rfl

end Sys2Proof.Machine
end

section
/-!
SUPPORT. The Notice Queue's settings, the Identity Store, and the resets (R192 to R203).
-/
namespace Sys2Proof.Machine

/-! ## NOTICE_CONFIG and STORE_PROGRAM (R199, R202, R203) -/

theorem opNoticeConfig_of_len {c : Caller} {p : List Byte} {s : State} (long : 5 ≤ p.length) :
    opNoticeConfig c p s = if u16 p 0 < 1 ∨ 32 < u16 p 0 ∨ u8 p 4 < 1 ∨ 8 < u8 p 4 then refuse .outOfRange s
      else done { s.dev with
        notices := { s.dev.notices with batch := u16 p 0, holdoff := u16 p 2, urgentLevel := u8 p 4 } } := needs_of_le long

theorem sendReady_of_holdoff {b : NoticeBox} {oldest : Notice} {rest : List Notice} {now : Nat} (queue : b.queue = oldest :: rest)
    (waited : oldest.joined + b.holdoff * 30720 ≤ now) : b.sendReady now = true := by
  unfold NoticeBox.sendReady
  rw [queue]
  simp only [Bool.or_eq_true, decide_eq_true_eq]
  exact .inl (.inr waited)

/-- The blocks with programming of a field begun (R202). -/
def Device.programming (d : Device) (field : Fin 10) (value : Int) : Device :=
  { d with store := { d.store with program := some { field := field, value := value, endsAt := d.now + programTime } } }

/-- The result of STORE_PROGRAM that is no acceptance, in the manual's terms (R202). -/
def IdentityStore.refusal (k : IdentityStore) (field : Fin 10) (value : Int) : Option Result :=
  if field = 0 ∧ (value < 0 ∨ 14 < value) then some .outOfRange
  else if field ≠ 0 ∧ field ≠ 9 ∧ (value < -60 ∨ 60 < value) then some .outOfRange
  else if field = 9 ∧ value ≠ 1 then some .badField
  else if k.lock = true then some .locked
  else if k.program ≠ none then some .busy
  else if (k.fields.get field).marked = true then some .busy
  else none

theorem storeValueCheck_eq (field : Fin 10) (value : Int) :
    storeValueCheck field value =
      if field = 0 ∧ (value < 0 ∨ 14 < value) then some .outOfRange
      else if field ≠ 0 ∧ field ≠ 9 ∧ (value < -60 ∨ 60 < value) then some .outOfRange
      else if field = 9 ∧ value ≠ 1 then some .badField
      else none := by
  have zero : field.val = 0 ↔ field = 0 := ⟨fun h => Fin.ext h, fun h => h ▸ rfl⟩
  have nine : field.val = 9 ↔ field = 9 := ⟨fun h => Fin.ext h, fun h => h ▸ rfl⟩
  unfold storeValueCheck
  simp only [zero, nine]
  by_cases first : field = 0
  · subst first
    by_cases within : 0 ≤ value ∧ value ≤ 14
    · simp [within]
    · simp only [if_true, if_neg within, true_and]
      rw [if_pos (by omega)]
  · by_cases last : field = 9
    · subst last
      by_cases one : value = 1 <;> simp [one]
    · by_cases within : -60 ≤ value ∧ value ≤ 60
      · simp [first, last, within]
      · simp only [if_neg first, if_neg last, if_neg within]
        rw [if_neg fun h => first h.1, if_pos ⟨first, last, by omega⟩]

theorem programCheck_eq (k : IdentityStore) (field : Fin 10) (value : Int) :
    k.programCheck field value = k.refusal field value := by
  unfold IdentityStore.programCheck IdentityStore.refusal
  rw [storeValueCheck_eq]
  simp only [Option.isSome_iff_ne_none]
  by_cases delay : field = 0 ∧ (value < 0 ∨ 14 < value)
  · simp only [if_pos delay]
  by_cases trim : field ≠ 0 ∧ field ≠ 9 ∧ (value < -60 ∨ 60 < value)
  · simp only [if_neg delay, if_pos trim]
  by_cases lock : field = 9 ∧ value ≠ 1
  · simp only [if_neg delay, if_neg trim, if_pos lock]
  · simp only [if_neg delay, if_neg trim, if_neg lock]

section
variable {c : Caller} {p : List Byte} {s : State} (long : 3 ≤ p.length)
include long

theorem opStoreProgram_of_no_field (h : 9 < u8 p 0) : opStoreProgram c p s = refuse .outOfRange s := by
  simp [opStoreProgram, long, fin?_of_le (Nat.succ_le_of_lt h)]

/-- STORE_PROGRAM of a field: its checks, one after another, and programming begun. -/
theorem opStoreProgram_of_field {field : Fin 10} (hf : u8 p 0 = field.val) :
    let value := s16 p 1
    opStoreProgram c p s =
      if field = 0 ∧ (value < 0 ∨ 14 < value) then refuse .outOfRange s
      else if field ≠ 0 ∧ field ≠ 9 ∧ (value < -60 ∨ 60 < value) then refuse .outOfRange s
      else if field = 9 ∧ value ≠ 1 then refuse .badField s
      else if s.dev.store.lock = true then refuse .locked s
      else if s.dev.store.program ≠ none then refuse .busy s
      else if (s.dev.store.fields.get field).marked = true then refuse .busy s
      else { result := .accepted, data := [], dev := s.dev.programming field value } := by
  dsimp only
  simp only [opStoreProgram, needs_of_le long, fin?_of_eq hf, programCheck_eq]
  unfold IdentityStore.refusal Device.programming
  generalize s16 p 1 = value
  by_cases delay : field = 0 ∧ (value < 0 ∨ 14 < value)
  · simp only [if_pos delay]
  by_cases trim : field ≠ 0 ∧ field ≠ 9 ∧ (value < -60 ∨ 60 < value)
  · simp only [if_neg delay, if_pos trim]
  by_cases lock : field = 9 ∧ value ≠ 1
  · simp only [if_neg delay, if_neg trim, if_pos lock]
  by_cases locked : s.dev.store.lock = true
  · simp only [if_neg delay, if_neg trim, if_neg lock, if_pos locked]
  by_cases busy : s.dev.store.program ≠ none
  · simp only [if_neg delay, if_neg trim, if_neg lock, if_neg locked, if_pos busy]
  by_cases marked : (s.dev.store.fields.get field).marked = true
  · simp only [if_neg delay, if_neg trim, if_neg lock, if_neg locked, if_neg busy, if_pos marked]
  · simp only [if_neg delay, if_neg trim, if_neg lock, if_neg locked, if_neg busy, if_neg marked]

end

theorem programExpires_of_none {d : Device} (h : d.store.program = none) : d.programExpires = d := by
  unfold Device.programExpires
  rw [h]

theorem programExpires_of_program {d : Device} {x : Programming} (h : d.store.program = some x) :
    d.programExpires = { d with
      now := max d.now x.endsAt
      store := { d.store with fields := put d.store.fields x.field { value := x.value, marked := true }, program := none }
      notices := takeNotice (max d.now x.endsAt) .storeDone x.field.val 0 0x00 d.notices } := by
  unfold Device.programExpires
  rw [h]
  rfl

/-- Settles O53: the settings and the checks in their order, and the two timers. -/
theorem noticesAndStoreAreProgrammed : Obligations.NoticesAndStoreAreProgrammed := by
  unfold Obligations.NoticesAndStoreAreProgrammed
  refine ⟨fun s p ask long => ?config, fun s => ⟨fun none => ?_, fun oldest rest queue => ?holdoff⟩, fun s p ask long => ?program,
    fun s => ?expiry⟩
  case config =>
    intro b
    have out := opNoticeConfig_of_len (c := .request) (s := begun .request s) long
    rw [begun_request_dev] at out
    exact exec_ite (fun bad => request_refuses rfl ask (out.trans (if_pos bad)))
      fun good => exec_does rfl ask (out.trans (if_neg good))
  · have expires : s.dev.holdoffExpires = s.dev := by unfold Device.holdoffExpires; rw [none]
    change Host.Outcome.next { s with dev := s.dev.holdoffExpires } = _
    rw [expires]
  case holdoff =>
    intro d
    have expires : s.dev.holdoffExpires = d := by unfold Device.holdoffExpires; rw [queue]; rfl
    refine ⟨?_, sendReady_of_holdoff queue (Nat.le_max_right ..)⟩
    change Host.Outcome.next { s with dev := s.dev.holdoffExpires } = _
    rw [expires]
  case program =>
    intro k value gives
    refine ⟨fun h => request_refuses rfl ask (opStoreProgram_of_no_field long h), fun field hf => ?_⟩
    have out := opStoreProgram_of_field (c := .request) (s := begun .request s) long hf
    dsimp only at out
    rw [begun_request_dev] at out
    exact refuses_or rfl ask out fun out => refuses_or rfl ask out fun out => refuses_or rfl ask out fun out =>
      refuses_or rfl ask out fun out => refuses_or rfl ask out fun out => refuses_or rfl ask out fun out => exec_asked rfl ask out
  case expiry =>
    intro k
    have next {d : Device} (same : s.dev.programExpires = d) : exec .programTimerExpiry s = .next { s with dev := d } :=
      same ▸ rfl
    exact ⟨fun none => next (programExpires_of_none none), fun x some => next (programExpires_of_program some)⟩

/-! ## The cold reset (R201) -/

theorem lane_reset (now coldResets : Nat) (trims : Vector Int 8) (store : IdentityStore) (inputs : BitVec 4) (l : Fin 8) :
    (Device.reset now coldResets trims store inputs).lane l = Lane.reset (trims.get l) := get_ofFn ..

theorem trigger_reset (now coldResets : Nat) (trims : Vector Int 8) (store : IdentityStore) (inputs : BitVec 4) (n : Fin 4) :
    (Device.reset now coldResets trims store inputs).triggers.get n = Trigger.reset now (inputs.getLsbD n.val) := get_ofFn ..

section
variable {k : IdentityStore}

theorem address_of_marked (marked : (k.fields.get 0).marked = true) (straps : BitVec 4) :
    (k.address straps).2 = .store ∧
      ∀ a : Fin 15, (k.fields.get 0).value = (a.val : Int) → (k.address straps).1 = some a := by
  unfold IdentityStore.address
  rw [if_pos marked]
  exact ⟨rfl, fun a value => fin?_of_eq (by rw [value]; rfl)⟩

variable (blank : (k.fields.get 0).marked = false)
include blank

theorem address_of_no_straps {straps : BitVec 4} (h : straps.toNat = 15) : k.address straps = (none, .none) := by
  have absent : strapAddress straps = none := fin?_of_le (Nat.le_of_eq h.symm)
  unfold IdentityStore.address
  rw [if_neg (by rw [blank]; exact Bool.false_ne_true), absent]
  rfl

theorem address_of_straps {straps : BitVec 4} {a : Fin 15} (h : straps.toNat = a.val) : k.address straps = (some a, .straps) := by
  have present : strapAddress straps = some a := fin?_of_eq h
  unfold IdentityStore.address
  rw [if_neg (by rw [blank]; exact Bool.false_ne_true), present]
  rfl

end

/-- A store that nothing was programmed to loads no trim. -/
theorem trims_blank : Vector.ofFn IdentityStore.blank.trim = Vector.replicate 8 0 := by
  refine Vector.ext fun i hi => ?_
  rw [Vector.getElem_ofFn, Vector.getElem_replicate]
  have blank (n : Fin 10) : (IdentityStore.blank.fields.get n).marked = false := congrArg StoreField.marked (get_replicate ..)
  unfold IdentityStore.trim
  dsimp only
  rw [blank]
  rfl

/-- Settles O56: every block is that of `Device.reset`, with the trims and the address that the store gives. -/
theorem coldResetLoadsAndResets : Obligations.ColdResetLoadsAndResets := by
  unfold Obligations.ColdResetLoadsAndResets
  refine ⟨fun s straps inputs => ⟨s.coldReset straps inputs, rfl, rfl, rfl, rfl, rfl, rfl, rfl, rfl, rfl, rfl, rfl, rfl, ?store,
    rfl, rfl, rfl, rfl, rfl, rfl, rfl, rfl, fun n => trigger_reset .., rfl, rfl, rfl⟩, ?reset⟩
  case store =>
    intro k field
    refine ⟨fun marked => address_of_marked marked straps, fun blank none => ?_, fun blank a some => ?_, rfl, fun l n hn => ?_⟩
    · have address := address_of_no_straps blank none
      exact ⟨congrArg Prod.fst address, congrArg Prod.snd address⟩
    · have address := address_of_straps blank some
      exact ⟨congrArg Prod.fst address, congrArg Prod.snd address⟩
    · have trim : k.trim l = if (k.fields.get n).marked then (k.fields.get n).value else 0 := by
        unfold IdentityStore.trim
        rw [show (⟨1 + l.val, by omega⟩ : Fin 10) = n from Fin.ext hn.symm]
      rw [← trim]
      exact (lane_reset ..).trans (congrArg Lane.reset (get_ofFn ..))
  case reset =>
    change Host.Outcome.next (State.reset.coldReset 0 0) = _
    unfold State.coldReset
    have address : IdentityStore.blank.address 0 = (some 0, .straps) := address_of_straps (by decide) rfl
    have store : IdentityStore.blank.coldReset = IdentityStore.blank := by decide
    change Host.Outcome.next
      { State.reset with
        dev := Device.reset 0 1 (Vector.ofFn IdentityStore.blank.trim) IdentityStore.blank.coldReset 0
        port := Port.reset (IdentityStore.blank.address 0).1 (IdentityStore.blank.address 0).2
        agent := Agent.reset } = _
    rw [trims_blank, address, store]
    rfl

/-! ## The unit reset (R192, R193, R185, R96, R120) -/

theorem unitResetStep_asked {s : State} {p : List Byte} (h : asked .request 0x72 s p = true) :
    unitResetStep s =
      { concluded .request s s.dev .ok [] with
        agent := { (concluded .request s s.dev .ok []).agent with resetWait := true, resetSent := false } } := by
  obtain ⟨ready, r, rest, requests, kind, -⟩ := asked_request h
  simp [unitResetStep, Agent.take, requests, ready, kind, concluded, Agent.reply, replyOf]

theorem clip_abortLoading (cs : List (Fin 256)) (k : ClipStore) (c : Fin 256) :
    (cs.foldl ClipStore.abortLoading k).clips.get c =
      if c ∈ cs ∧ (k.clips.get c).state = .loading then Clip.reset else k.clips.get c := by
  induction cs generalizing k with
  | nil => exact (if_neg fun h => List.not_mem_nil h.1).symm
  | cons x cs ih =>
    rw [List.foldl_cons, ih]
    by_cases here : c = x
    · subst here
      by_cases loading : (k.clips.get c).state = .loading
      · have removed : (k.abortLoading c).clips.get c = Clip.reset := by
          unfold ClipStore.abortLoading
          rw [if_pos loading]
          exact get_put_same ..
        rw [removed, if_neg fun h => ClipState.noConfusion h.2, if_pos ⟨List.mem_cons_self, loading⟩]
      · have kept : k.abortLoading c = k := if_neg loading
        rw [kept, if_neg fun h => loading h.2, if_neg fun h => loading h.2]
    · rw [abortLoading_other k here]
      simp [here]

theorem clip_unitReset (k : ClipStore) (c : Fin 256) :
    k.unitReset.clips.get c = if (k.clips.get c).state = .loading then Clip.reset else k.clips.get c := by
  have folds : k.unitReset = { (List.finRange 256).foldl ClipStore.abortLoading k with counters := ClipCounters.zero } := rfl
  have every := List.mem_finRange c
  rw [folds]
  generalize List.finRange 256 = cs at every ⊢
  simpa only [every, true_and] using clip_abortLoading cs k c

theorem intake_unitReset (k : Intake) :
    k.unitReset = { Intake.reset with
      outbox := if k.pool.hold then [{ subject := .all, tag := 0, hold := false }] else [] } := by
  unfold Intake.unitReset
  split
  · rfl
  · rfl

theorem lane_unitReset (d : Device) (inputs : BitVec 4) (l : Fin 8) : (d.unitReset inputs).lane l = Lane.reset (d.lane l).trim :=
  (lane_reset d.now d.coldResets (d.lanes.map Lane.trim) d.store inputs l).trans (congrArg Lane.reset (get_map ..))

theorem trigger_unitReset (d : Device) (inputs : BitVec 4) (n : Fin 4) :
    (d.unitReset inputs).triggers.get n = Trigger.reset d.now (inputs.getLsbD n.val) :=
  trigger_reset d.now d.coldResets (d.lanes.map Lane.trim) d.store inputs n

/-- The pages that the list covers once the extents of some clips are returned. -/
theorem covers_returnClips (k : ClipStore) (cs : List (Fin 256)) (list : List Extent) (page : Nat) :
    covers (cs.foldl (fun list c => returnAll (k.clips.get c).extents list) list) page =
      covers list page + (cs.map fun c => covers (k.clips.get c).extents page).sum := by
  induction cs generalizing list with
  | nil => rfl
  | cons c cs ih =>
    rw [List.foldl_cons, ih, covers_returnAll, List.map_cons, List.sum_cons]
    omega

theorem resetDue_iff (s : State) : s.resetDue = true ↔
    s.agent.resetWait = true ∧ (s.agent.resetSent = true ∨ s.port.bench.sending.any Sending.resetReply = true) := by
  unfold State.resetDue
  rw [Bool.and_eq_true, Bool.or_eq_true]
  cases s.port.bench.sending <;> rfl

/-- The reply's sending ended, if it was not: what of it the reset keeps. -/
theorem performUnitReset_eq {s : State} (inputs : BitVec 4)
    (due : s.agent.resetSent = true ∨ s.port.bench.sending.any Sending.resetReply = true) :
    s.performUnitReset inputs =
      { s with
        dev := s.dev.unitReset inputs
        port := { s.port.unitReset with bench := { s.port.bench with
          counters := LinkCounters.zero, sending := if s.agent.resetSent then s.port.bench.sending else none } }
        agent := s.agent.unitReset } := by
  unfold State.performUnitReset
  dsimp only
  cases sent : s.agent.resetSent with
  | true => rfl
  | false =>
    rw [if_neg Bool.false_ne_true, if_neg Bool.false_ne_true]
    have ends := due.resolve_left (by rw [sent]; exact Bool.false_ne_true)
    cases sending : s.port.bench.sending with
    | none => rw [sending] at ends; cases ends
    | some x =>
      rw [sending] at ends
      have reply : x.resetReply = true := ends
      have ended : s.cellSent .bench =
          { (s.count .bench LinkCounters.addOut).updLink .bench (fun y => { y with sending := none }) with
            agent := { s.agent with resetSent := true } } := by
        unfold State.cellSent
        rw [show (s.link .bench).sending = some x from sending]
        exact if_pos reply
      rw [ended]
      rfl

/-- Settles O54: the blocks are those of `Device.unitReset`, and the clips those of the clips' own lemmas. -/
theorem unitResetWaitsAndThenResets : Obligations.UnitResetWaitsAndThenResets := by
  unfold Obligations.UnitResetWaitsAndThenResets
  refine ⟨fun s p ask => congrArg _ (unitResetStep_asked ask), fun s inputs idle => ?idle, fun s inputs waits due => ?performed⟩
  case idle =>
    have none_due : s.resetDue = false := by unfold State.resetDue; rw [idle]; rfl
    change Host.Outcome.next (if s.resetDue = true then s.performUnitReset inputs else s) = _
    rw [none_due]
    rfl
  case performed =>
    refine ⟨s.performUnitReset inputs, ?_, ?_⟩
    · change Host.Outcome.next (if s.resetDue = true then s.performUnitReset inputs else s) = _
      rw [if_pos ((resetDue_iff s).mpr ⟨waits, due⟩)]
    rw [performUnitReset_eq inputs due]
    have intake : (s.dev.unitReset inputs).intake = _ := intake_unitReset s.dev.intake
    obtain ⟨loadSlots, freeList⟩ := clips_unitReset s.dev.clips
    refine ⟨rfl, ⟨rfl, fun l => ?_, rfl, rfl, ?_, ?_, ?_, ?_, ?_, ?_, fun c kept => ?_, fun c loading => ?_, fun j => ?_,
      ⟨freeList, fun page => ?_⟩, memory_unitReset s.dev.clips, rfl, rfl, rfl,
      fun n => trigger_unitReset s.dev inputs n, rfl, rfl, rfl, rfl, rfl⟩,
      rfl, rfl, rfl, rfl, rfl, rfl, rfl, rfl, rfl, rfl, rfl⟩
    · exact lane_unitReset s.dev inputs l
    · rw [intake]; rfl
    · rw [intake]; rfl
    · rw [intake]; rfl
    · rw [intake]; rfl
    · rw [intake]; rfl
    · rw [intake]
    · exact (clip_unitReset s.dev.clips c).trans (if_neg kept)
    · exact (clip_unitReset s.dev.clips c).trans (if_pos loading)
    · refine (loadSlots j).trans ?_
      cases s.dev.clips.loadSlots.get j with
      | none => rfl
      | some x =>
        by_cases loading : (s.dev.clips.clips.get x.clip).state = .loading
        · exact (Option.filter_some_neg (by simp [loading])).trans (if_pos loading).symm
        · exact (Option.filter_some_pos (by simp [loading])).trans (if_neg loading).symm
    · exact (congrArg (covers · page) freeList).trans (covers_returnClips ..)

/-! ## PLAYBACK_CLEAR (R194) -/

theorem mem_placeFlow {e x : FlowEntry} {box : List FlowEntry} (h : x ∈ placeFlow e box) : x = e ∨ x ∈ box := by
  unfold placeFlow at h
  split at h
  · obtain ⟨y, member, rfl⟩ := List.mem_map.mp h
    split
    · exact .inl rfl
    · exact .inr member
  · rcases List.mem_append.mp h with member | last
    · exact .inr member
    · exact .inl (List.mem_singleton.mp last)

theorem self_mem_placeFlow (e : FlowEntry) (box : List FlowEntry) : e ∈ placeFlow e box := by
  unfold placeFlow
  split
  · rename_i waiting
    obtain ⟨y, member, same⟩ := List.any_eq_true.mp waiting
    exact List.mem_map.mpr ⟨y, member, if_pos (of_decide_eq_true same)⟩
  · exact List.mem_append_right _ (List.mem_singleton.mpr rfl)

theorem outbox_clear (k : Intake) :
    k.clear.outbox = if k.pool.hold then placeFlow { subject := .all, tag := 0, hold := false } (k.outbox.map FlowEntry.clear)
      else k.outbox.map FlowEntry.clear := by
  unfold Intake.clear
  dsimp only
  split <;> rfl

/-- The Stream Intake cleared, but for its outbox. -/
theorem clear_same (k : Intake) :
    k.clear.tags = k.tags ∧ k.clear.unknownTag = k.unknownTag ∧ k.clear.closedStream = k.closedStream ∧
      k.clear.pool = { k.pool with free := 4096, hold := false } ∧ k.clear.slots = k.slots.map Slot.clear := by
  unfold Intake.clear
  dsimp only
  split <;> exact ⟨rfl, rfl, rfl, rfl, rfl⟩

theorem hold_clear {e : FlowEntry} (h : e.clear.subject ≠ .all) : e.clear.hold = false := by
  unfold FlowEntry.clear at h ⊢
  split
  · rfl
  · rename_i all
    rw [all] at h
    exact absurd all h

theorem clear_of_no_lane {m : Marker} (h : m.condition.lane = none) (frozen : Bool) : m.clear frozen = m := by
  unfold Marker.clear
  rw [h]

theorem clear_of_lane {m : Marker} {l : Fin 8} (h : m.condition.lane = some l) (frozen : Bool) :
    m.clear frozen = if frozen then { m with startsDue := [], frozenHold := none, pulse := .none } else { m with startsDue := [] } := by
  unfold Marker.clear
  rw [h]

theorem markerFrozen_of_lane {d : Device} {m : Marker} {l : Fin 8} (h : m.condition.lane = some l) :
    d.markerFrozen m = decide ((d.lane l).state = .frozen) := by
  unfold Device.markerFrozen
  rw [h]

/-- Settles O55: each block is mapped to its cleared one. -/
theorem playbackClearStopsAndKeepsTables : Obligations.PlaybackClearStopsAndKeepsTables := by
  unfold Obligations.PlaybackClearStopsAndKeepsTables
  intro s p ask
  refine ⟨s.dev.playbackClear, ?_, ?_⟩
  · have out := exec_does (c := .playbackClear) rfl ask (d := (begun .request s).dev.playbackClear) rfl
    rwa [begun_request_dev] at out
  obtain ⟨tags, unknown, closed, pool, slots⟩ := clear_same s.dev.intake
  have lane (l : Fin 8) : s.dev.playbackClear.lane l = (s.dev.lane l).clear := get_map ..
  refine ⟨⟨rfl, rfl, rfl, rfl, rfl, rfl, rfl, rfl⟩, rfl, fun l => ?_, fun n => ?_, tags, unknown, closed, pool, fun going => ?_,
    fun held => ?_, fun x member other => ?_, rfl, fun l => ?_, fun n => ⟨fun none => ?_, fun l some => ?_⟩⟩
  · dsimp only
    rw [lane]
    exact ⟨rfl, rfl, rfl, rfl, rfl, rfl, rfl, rfl, rfl, rfl, rfl, rfl, rfl, rfl, rfl, rfl, rfl, rfl, rfl, rfl⟩
  · change s.dev.intake.clear.slots.get n = _
    rw [slots]
    exact get_map ..
  · change s.dev.intake.clear.outbox.map FlowEntry.subject = _
    rw [outbox_clear, if_neg (by rw [going]; exact Bool.false_ne_true), List.map_map]
    exact List.map_congr_left fun e _ => subject_clear e
  · refine ⟨{ subject := .all, tag := 0, hold := false }, ?_, rfl, rfl⟩
    change _ ∈ s.dev.intake.clear.outbox
    rw [outbox_clear, if_pos held]
    exact self_mem_placeFlow ..
  · have cleared : x ∈ s.dev.intake.outbox.map FlowEntry.clear := by
      have placed : x ∈ s.dev.intake.clear.outbox := member
      rw [outbox_clear] at placed
      split at placed
      · exact (mem_placeFlow placed).resolve_left fun same => other (by rw [same])
      · exact placed
    obtain ⟨e, -, rfl⟩ := List.mem_map.mp cleared
    exact hold_clear other
  · exact get_map ..
  · exact (get_map ..).trans (clear_of_no_lane none _)
  · refine (get_map ..).trans ((clear_of_lane some _).trans ?_)
    rw [markerFrozen_of_lane some]
    simp only [decide_eq_true_eq]

end Sys2Proof.Machine
end

section
/-!
SUPPORT. The links: how each moves as the signal and the alignment do, and the OFFER exchange (R98, R171 to R174).
-/
namespace Sys2Proof.Machine

/-! ## Leaving OFFERING and UP (R171, R174, R180 to R182) -/

theorem setLink_link (s : State) (id : LinkId) : s.setLink id (s.link id) = s := by
  cases id <;> rfl

theorem setLink_setLink (s : State) (id : LinkId) (x y : Link) : (s.setLink id x).setLink id y = s.setLink id y := by
  cases id <;> rfl

/-- The counters of a link whose sending is cut off in UP (R174). -/
def Link.cutCounters (x : Link) : LinkCounters := if x.sending.isSome then x.counters.addAbort else x.counters

/-- The Agent as a sending is cut off: that of the UNIT_RESET reply is noted (R192). -/
def State.cutAgent (s : State) (id : LinkId) : Agent :=
  if (s.link id).sending.any Sending.resetReply then { s.agent with resetSent := true } else s.agent

theorem cutOff_eq (s : State) (id : LinkId) :
    s.cutOff id =
      { s.setLink id { s.link id with sending := none, counters := (s.link id).cutCounters } with agent := s.cutAgent id } := by
  unfold State.cutOff Link.cutCounters State.cutAgent
  cases sending : (s.link id).sending with
  | none =>
    have same : { s.link id with sending := none } = s.link id := by rw [← sending]
    change s = { s.setLink id { s.link id with sending := none } with agent := s.agent }
    rw [same]
    exact (setLink_link s id).symm
  | some x =>
    have dropped : (s.count id LinkCounters.addAbort).updLink id (fun y => { y with sending := none }) =
        s.setLink id { s.link id with sending := none, counters := (s.link id).counters.addAbort } := by
      cases id <;> rfl
    dsimp only
    rw [dropped]
    rw [Option.any_some]
    split <;> rfl

/-- A link that has left OFFERING or UP, its restart still to come. -/
def Link.left (x : Link) (counters : LinkCounters) : Link :=
  { x with receiving := none, sending := none, counters := counters.addLoss }

theorem leaves_of_offering {s : State} {id : LinkId} (h : (s.link id).state = .offering) :
    s.leaves id = s.setLink id ((s.link id).left (s.link id).counters) := by
  have assembles : (s.link id).assembles = true := assembles_of_offering h
  unfold State.leaves
  rw [h]
  dsimp only
  rw [if_pos assembles]
  cases id <;> rfl

theorem leaves_bench_of_up {s : State} (h : (s.link .bench).state = .up) :
    s.leaves .bench =
      { s with
        port := { s.port with bench := s.port.bench.left s.port.bench.cutCounters, held := false }
        agent := s.cutAgent .bench } := by
  have left : s.benchLeavesUp = { s with
      port := { s.port with
        bench := { s.port.bench with sending := none, counters := s.port.bench.cutCounters }, held := false }
      agent := s.cutAgent .bench } := by
    unfold State.benchLeavesUp
    rw [cutOff_eq]
    rfl
  have assembles : (s.benchLeavesUp.link .bench).assembles = true := by
    rw [left]
    exact assembles_of_up h
  unfold State.leaves
  rw [h]
  dsimp only
  rw [if_pos assembles, left]
  rfl

/-- The port of a chain link that has left UP: its queues flushed and counted (R180 to R182). -/
def Port.flushed (p : Port) : Port :=
  { p with
    forward := [], merge := [], holdSent := false, flowPlace := none
    counters := { p.counters with
      fwdFlush := satAdd p.counters.fwdFlush p.forward.length, mergeFlush := satAdd p.counters.mergeFlush p.merge.length } }

theorem leaves_chain_of_up {s : State} (h : (s.link .chain).state = .up) :
    s.leaves .chain =
      { s with port := { s.port.flushed with chain := s.port.chain.left s.port.chain.cutCounters }, agent := s.cutAgent .chain } := by
  have left : s.chainLeavesUp = { s with
      port := { s.port.flushed with chain := { s.port.chain with sending := none, counters := s.port.chain.cutCounters } }
      agent := s.cutAgent .chain } := by
    unfold State.chainLeavesUp
    rw [cutOff_eq]
    rfl
  have assembles : (s.chainLeavesUp.link .chain).assembles = true := by
    rw [left]
    exact assembles_of_up h
  unfold State.leaves
  rw [h]
  dsimp only
  rw [if_pos assembles, left]
  rfl

/-! ## A link that begins again (R171) -/

/-- A link that has left OFFERING or UP and begins again: what R171 states, with the sending cut off counted in UP (R174). -/
def Link.lost (x : Link) (state : LinkState) : Link :=
  { x with
    state := state, counter := 0, seen := false, rate := none, receiving := none, sending := none
    counters := { x.counters with
      lossCount := satInc x.counters.lossCount
      txAbort := if x.state = .up ∧ x.sending.isSome then satInc x.counters.txAbort else x.counters.txAbort } }

theorem restart_of_offering {x : Link} (h : x.state = .offering) (state : LinkState) :
    (x.left x.counters).restart state = x.lost state := by
  have none_cut : ¬ (x.state = .up ∧ x.sending.isSome) := fun up => LinkState.noConfusion (h.symm.trans up.1)
  unfold Link.lost
  rw [if_neg none_cut]
  rfl

theorem restart_of_up {x : Link} (h : x.state = .up) (state : LinkState) :
    (x.left x.cutCounters).restart state = x.lost state := by
  unfold Link.lost Link.cutCounters
  by_cases sending : x.sending.isSome = true
  · rw [if_pos sending, if_pos ⟨h, sending⟩]
    rfl
  · rw [if_neg sending, if_neg fun up => sending up.2]
    rfl

/-- A link leaves UP and begins again (R171, R174, R180 to R182). -/
def State.lostUp (s : State) (id : LinkId) (state : LinkState) : State :=
  match id with
  | .bench => { s with port := { s.port with bench := s.port.bench.lost state, held := false }, agent := s.cutAgent .bench }
  | .chain => { s with port := { s.port.flushed with chain := s.port.chain.lost state }, agent := s.cutAgent .chain }

theorem restart_leaves_of_up {s : State} {id : LinkId} (h : (s.link id).state = .up) (state : LinkState) :
    (s.leaves id).updLink id (·.restart state) = s.lostUp id state := by
  cases id with
  | bench =>
    rw [leaves_bench_of_up h, State.lostUp, ← restart_of_up (x := s.port.bench) h]
    rfl
  | chain =>
    rw [leaves_chain_of_up h, State.lostUp, ← restart_of_up (x := s.port.chain) h]
    rfl

theorem restart_leaves_of_offering {s : State} {id : LinkId} (h : (s.link id).state = .offering) (state : LinkState) :
    (s.leaves id).updLink id (·.restart state) = s.setLink id ((s.link id).lost state) := by
  rw [leaves_of_offering h, ← restart_of_offering h, State.updLink, link_setLink_same, setLink_setLink]

theorem leaves_of_aligning {s : State} {id : LinkId} (h : (s.link id).state = .aligning) : s.leaves id = s := by
  have idle : (s.link id).assembles ≠ true := by rw [Link.assembles, h]; decide
  unfold State.leaves
  rw [h]
  exact if_neg idle

/-- The alignment lost, by the state of the link. -/
theorem alignmentLost_of_up {s : State} {id : LinkId} (h : (s.link id).state = .up) :
    s.alignmentLost id = s.lostUp id .aligning := (if_pos (assembles_of_up h)).trans (restart_leaves_of_up h _)

theorem alignmentLost_of_offering {s : State} {id : LinkId} (h : (s.link id).state = .offering) :
    s.alignmentLost id = s.setLink id ((s.link id).lost .aligning) :=
  (if_pos (assembles_of_offering h)).trans (restart_leaves_of_offering h _)

theorem alignmentLost_of_idle {s : State} {id : LinkId} (h : (s.link id).state = .down ∨ (s.link id).state = .aligning) :
    s.alignmentLost id = s := if_neg (by rcases h with h | h <;> rw [Link.assembles, h] <;> decide)

/-- Settles O46: each command by the state of the link. -/
theorem linksFollowSignalAndAlignment : Obligations.LinksFollowSignalAndAlignment := by
  unfold Obligations.LinksFollowSignalAndAlignment
  intro s id x fresh lost agent flushed left offering
  have leftUp (state : LinkState) : s.lostUp id state = left state := by cases id <;> rfl
  refine ⟨rfl, rfl, ?alignment, ?signal⟩
  case alignment =>
    change Host.Outcome.next (s.alignmentLost id) = _
    split
    · rw [alignmentLost_of_idle (.inl ‹_›)]
    · rw [alignmentLost_of_idle (.inr ‹_›)]
    · rw [alignmentLost_of_offering ‹_›]
      rfl
    · rw [alignmentLost_of_up ‹_›, leftUp]
  case signal =>
    have going (h : x.state ≠ .down) : s.signalAbsent id = (s.leaves id).updLink id (·.restart .down) := if_neg h
    change Host.Outcome.next (s.signalAbsent id) = _
    split
    · exact congrArg _ (if_pos ‹_›)
    · rename_i aligning
      rw [going (by rw [aligning]; decide), leaves_of_aligning aligning]
      rfl
    · rename_i offering
      rw [going (by rw [offering]; decide), restart_leaves_of_offering offering]
      rfl
    · rename_i up
      rw [going (by rw [up]; decide), restart_leaves_of_up up, leftUp]

/-! ## The flow states queued as the bench link comes UP (R98) -/

/-- A stream's flow state queued, if its slot is open. -/
def Intake.announceSlot (k : Intake) (n : Fin 16) : Intake :=
  if (k.slots.get n).isOpen then k.queueSlotFlow n (k.slots.get n).hold else k

theorem mem_placeFlow_of_other {e x : FlowEntry} {box : List FlowEntry} (member : x ∈ box) (other : x.subject ≠ e.subject) :
    x ∈ placeFlow e box := by
  unfold placeFlow
  split
  · exact List.mem_map.mpr ⟨x, member, if_neg other⟩
  · exact List.mem_append_left _ member

/-- The outbox holds a slot's flow state. -/
def Intake.tells (k : Intake) (n : Fin 16) (hold : Bool) : Prop := ∃ e ∈ k.outbox, e.subject = .slot n ∧ e.hold = hold

theorem tells_queueFlow {k : Intake} {n : Fin 16} {hold : Bool} (h : k.tells n hold) {e : FlowEntry} (other : e.subject ≠ .slot n) :
    (k.queueFlow e).tells n hold := by
  obtain ⟨x, member, subject, state⟩ := h
  exact ⟨x, mem_placeFlow_of_other member (by rw [subject]; exact Ne.symm other), subject, state⟩

theorem slots_announceSlot (k : Intake) (n : Fin 16) : (k.announceSlot n).slots = k.slots := by
  unfold Intake.announceSlot
  split <;> rfl

theorem tells_announceSlot {k : Intake} {n : Fin 16} (opened : (k.slots.get n).isOpen = true) (m : Fin 16)
    (h : m = n ∨ k.tells n (k.slots.get n).hold) : (k.announceSlot m).tells n (k.slots.get n).hold := by
  by_cases here : m = n
  · subst here
    unfold Intake.announceSlot
    rw [if_pos opened]
    exact ⟨_, self_mem_placeFlow .., rfl, rfl⟩
  · have told := h.resolve_left here
    unfold Intake.announceSlot
    split
    · exact tells_queueFlow told fun same => here (FlowSubject.slot.inj same)
    · exact told

theorem tells_announceSlots (ns : List (Fin 16)) {k : Intake} {n : Fin 16} (opened : (k.slots.get n).isOpen = true)
    (h : n ∈ ns ∨ k.tells n (k.slots.get n).hold) : (ns.foldl Intake.announceSlot k).tells n (k.slots.get n).hold := by
  induction ns generalizing k with
  | nil => exact h.resolve_left List.not_mem_nil
  | cons m ns ih =>
    have slots := slots_announceSlot k m
    have told := ih (k := k.announceSlot m) (by rw [slots]; exact opened)
    rw [slots] at told
    refine told ?_
    rcases h with member | before
    · rcases List.mem_cons.mp member with rfl | later
      · exact .inr (tells_announceSlot opened n (.inl rfl))
      · exact .inl later
    · exact .inr (tells_announceSlot opened m (.inr before))

theorem tells_announce {k : Intake} {n : Fin 16} (opened : (k.slots.get n).isOpen = true) : k.announce.tells n (k.slots.get n).hold := by
  have told := tells_announceSlots (List.finRange 16) opened (.inl (List.mem_finRange n))
  unfold Intake.announce
  generalize List.finRange 16 = ns at told ⊢
  change (if (ns.foldl Intake.announceSlot k).pool.hold then (ns.foldl Intake.announceSlot k).queuePoolFlow true
    else ns.foldl Intake.announceSlot k).tells n (k.slots.get n).hold
  split
  · exact tells_queueFlow told FlowSubject.noConfusion
  · exact told

/-! ## OFFER (R172 to R174) -/

theorem offerSend_of_free {s : State} {id : LinkId} (offering : (s.link id).state = .offering) (free : (s.link id).sending = none) :
    s.offerSend id =
      { s with dev := s.dev.reach (s.link id).offerAt }.setLink id { s.link id with
        sending := some { cell := s.port.offerCell (s.link id).seen, resetReply := false }
        offerAt := max s.dev.now (s.link id).offerAt + 307200 } := if_pos ⟨offering, free⟩

/-- A link that assembles cells takes an OFFER, and counts it (R171, R177). -/
theorem receiveCell_offer {s : State} {id : LinkId} {c : Cell} (assembles : (s.link id).state = .offering ∨ (s.link id).state = .up)
    (kind : c.kind = 0x0F) (empty : c.payload = []) : s.receiveCell id c = (s.heard id).takeOffer id c := by
  have going : (s.link id).assembles = true := assembles.elim assembles_of_offering assembles_of_up
  have arrives : kindArrives id c = true := by simp [kindArrives, kind]
  have fits : lengthFits c = true := by simp [lengthFits, kind, empty]
  have fault : cellFault id (s.link id).state c = none := by simp [cellFault, arrives, fits, kind]
  rw [State.receiveCell, if_pos going, fault, ← count_addIn]
  exact if_pos kind

/-- The rate capability of an OFFER is byte 3 of its header (R208). -/
theorem rate_of_word (w : BitVec 16) : (w.extractLsb' 0 8).toNat = w.toNat % 256 := by
  simp [BitVec.extractLsb'_toNat]

theorem exec_offer (id : LinkId) (addr : Byte) (wordA : BitVec 16) (wordB : BitVec 32) (s : State) :
    exec (.offer id addr wordA wordB) s =
      .next (s.receiveCell id { kind := 0x0F, addr := addr, wordA := wordA, wordB := wordB, payload := [] }) := rfl

/-- The OFFER of role SERVER on the chain link. -/
theorem takeOffer_of_server {s : State} {c : Cell} (server : c.wordA.getLsbD 8 = true) :
    s.takeOffer .chain c = s.count .chain LinkCounters.addRoleErr := if_pos ⟨rfl, server⟩

/-- A link that knows its peer by an OFFER (R173). -/
def Link.known (x : Link) (c : Cell) : Link :=
  { x with peerServer := some (c.wordA.getLsbD 8), peerAddr := some (addressOf c.addr), seen := true }

theorem takeOffer_of_other {s : State} {id : LinkId} {c : Cell} (other : id = .bench ∨ c.wordA.getLsbD 8 = false) :
    s.takeOffer id c =
      if (s.link id).state = .offering ∧ c.wordB.getLsbD 24 = true then
        (s.setLink id ((s.link id).known c)).becomesUp id (c.wordA.extractLsb' 0 8).toNat
      else if (s.link id).state = .up ∧ c.wordB.getLsbD 24 = false then (s.setLink id ((s.link id).known c)).upAnew id
      else s.setLink id ((s.link id).known c) := by
  have taken : ¬ (id = .chain ∧ c.wordA.getLsbD 8 = true) := by
    rintro ⟨rfl, server⟩
    rcases other with wrong | peer
    · exact LinkId.noConfusion wrong
    · rw [peer] at server
      exact Bool.noConfusion server
  exact if_neg taken

theorem link_heard (s : State) (id : LinkId) :
    (s.heard id).link id =
      { s.link id with counters := { (s.link id).counters with cellsIn := satInc (s.link id).counters.cellsIn } } := by
  cases id <;> rfl

/-- Settles O47: the OFFER sent, the OFFER taken by the state of the link, and the flow states queued. -/
theorem offersAreSentAndTaken : Obligations.OffersAreSentAndTaken := by
  unfold Obligations.OffersAreSentAndTaken
  refine ⟨?sent, ?taken, fun k n opened => tells_announce opened⟩
  case sent =>
    intro s id x moment cell y
    have offered : s.port.offerCell x.seen = cell := rfl
    refine ⟨fun other => ?_, fun offering free => ?_⟩
    · have waits : ¬ (x.state = .offering ∧ x.sending = none) := fun ⟨offering, free⟩ =>
        other.elim (· offering) (· free)
      exact congrArg Host.Outcome.next (if_neg waits)
    · exact congrArg Host.Outcome.next ((offerSend_of_free offering free).trans rfl)
  case taken =>
    intro s id addr wordA wordB x server peerSeen rate heard known entered refused reported
    have toBe {t : State} (assembles : x.state = .offering ∨ x.state = .up)
        (takes : (s.heard id).takeOffer id ⟨0x0F, addr, wordA, wordB, []⟩ = t) :
        exec (.offer id addr wordA wordB) s = .next t := by
      rw [exec_offer, receiveCell_offer assembles rfl rfl, takes]
    have state : ((s.heard id).link id).state = x.state := by rw [link_heard]
    refine ⟨fun idle => ?_, fun assembles chain role => ?_, fun other => ?_⟩
    · rw [exec_offer, receiveCell_of_idle _ idle]
    · subst chain
      exact toBe assembles (takeOffer_of_server role)
    · have takes := takeOffer_of_other (s := s.heard id) (c := ⟨0x0F, addr, wordA, wordB, []⟩) other
      rw [state] at takes
      refine ⟨fun offering clear => toBe (.inl offering) ?_, fun offering set => toBe (.inl offering) ?_,
        fun up set => toBe (.inr up) ?_, fun up clear => toBe (.inr up) ?_⟩
      · rw [takes, if_neg (fun h => Bool.noConfusion (clear.symm.trans h.2)),
          if_neg (fun h => by rw [offering] at h; exact LinkState.noConfusion h.1)]
        cases id <;> rfl
      · rw [takes, if_pos ⟨offering, set⟩, rate_of_word]
        cases id <;> rfl
      · rw [takes, if_neg (fun h => by rw [up] at h; exact LinkState.noConfusion h.1),
          if_neg (fun h => Bool.noConfusion (set.symm.trans h.2))]
        cases id <;> rfl
      · rw [takes, if_neg (fun h => by rw [up] at h; exact LinkState.noConfusion h.1), if_pos ⟨up, clear⟩]
        cases id <;> rfl

end Sys2Proof.Machine
end

section
/-!
SUPPORT. Symbols, bad cells, and the bytes of a cell (R170, R175 to R177).
-/
namespace Sys2Proof.Machine

/-! ## The symbols and the counter (R170, R171, R175) -/

theorem alignStep_eq (counter : Nat) (symbol : Symbol) :
    alignStep counter symbol = if symbol = .codeError then counter - 3 else min 15 (counter + 1) := by
  cases symbol <;> rfl

theorem assemble_of_none {s : State} {id : LinkId} (h : (s.link id).receiving = none) (symbol : Symbol) :
    s.assemble id symbol = s.symbolOutside id symbol := by
  rw [State.assemble, h]

theorem assemble_of_some {s : State} {id : LinkId} {bytes : List Byte} (h : (s.link id).receiving = some bytes) (symbol : Symbol) :
    s.assemble id symbol = s.symbolInside id bytes symbol := by
  rw [State.assemble, h]

theorem decodedSymbol_of_assembles {s : State} {id : LinkId} (h : (s.link id).state = .offering ∨ (s.link id).state = .up)
    (symbol : Symbol) :
    s.decodedSymbol id symbol = s.withSymbol id symbol fun t => t.assemble id symbol := by
  unfold State.decodedSymbol
  rcases h with h | h <;> rw [h]

/-- A symbol that leaves the counter above 0 does no more than step it and act on the cells. -/
theorem decodedSymbol_of_counter {s : State} {id : LinkId} (h : (s.link id).state = .offering ∨ (s.link id).state = .up)
    {symbol : Symbol} {n : Nat} (step : alignStep (s.link id).counter symbol = n) (above : n ≠ 0) :
    s.decodedSymbol id symbol = (s.setLink id { s.link id with counter := n }).assemble id symbol := by
  rw [decodedSymbol_of_assembles h, withSymbol_eq, step]
  exact if_neg above

/-- A symbol that takes the counter to 0 loses the alignment. -/
theorem decodedSymbol_of_zero {s : State} {id : LinkId} (h : (s.link id).state = .offering ∨ (s.link id).state = .up)
    {symbol : Symbol} (step : alignStep (s.link id).counter symbol = 0) :
    s.decodedSymbol id symbol = ((s.setLink id { s.link id with counter := 0 }).assemble id symbol).alignmentLost id := by
  rw [decodedSymbol_of_assembles h, withSymbol_eq, step]
  exact if_pos rfl

theorem decodedSymbol_of_aligning {s : State} {id : LinkId} (h : (s.link id).state = .aligning) (symbol : Symbol) :
    s.decodedSymbol id symbol =
      if alignStep (s.link id).counter symbol = 15 then s.setLink id ((s.link id).enterOffering s.dev.now)
      else s.setLink id { s.link id with counter := alignStep (s.link id).counter symbol } := by
  unfold State.decodedSymbol
  rw [h]
  dsimp only
  split
  · refine (if_pos ?_).trans ?_
    · rw [State.updLink, link_setLink_same]
      exact h
    · cases id <;> rfl
  · rfl

theorem count_setLink (s : State) (id : LinkId) (x : Link) (f : LinkCounters → LinkCounters) :
    (s.setLink id x).count id f = s.setLink id { x with counters := f x.counters } := by
  cases id <;> rfl

theorem setReceiving_setLink (s : State) (id : LinkId) (x : Link) (bytes : Option (List Byte)) :
    (s.setLink id x).setReceiving id bytes = s.setLink id { x with receiving := bytes } := by
  cases id <;> rfl

theorem discard_setLink (s : State) (id : LinkId) (x : Link) (f : LinkCounters → LinkCounters) :
    (s.setLink id x).discard id f = s.setLink id { x with counters := f x.counters, receiving := none } := by
  cases id <;> rfl

/-! ## Bad cells (R175, R177) -/

theorem assembles_iff {x : Link} : x.assembles = true ↔ x.state = .offering ∨ x.state = .up := by simp [Link.assembles]

theorem badCell_of_idle {s : State} {id : LinkId} (h : ¬ ((s.link id).state = .offering ∨ (s.link id).state = .up)) (bad : BadCell) :
    s.badCell id bad = s := by
  exact if_neg fun assembles => h (assembles_iff.mp assembles)

theorem badCell_closed_of_fault {s : State} {id : LinkId} {bytes : List Byte} {f : LinkCounters → LinkCounters}
    (h : (s.link id).state = .offering ∨ (s.link id).state = .up) (fault : closedFault id (s.link id).state bytes = some f) :
    s.badCell id (.closed bytes) = s.discard id f := by
  unfold State.badCell
  rw [if_pos (assembles_iff.mpr h)]
  dsimp only
  rw [fault]

theorem badCell_closed_of_good {s : State} {id : LinkId} {bytes : List Byte}
    (h : (s.link id).state = .offering ∨ (s.link id).state = .up) (good : closedFault id (s.link id).state bytes = none) :
    s.badCell id (.closed bytes) = s := by
  unfold State.badCell
  rw [if_pos (assembles_iff.mpr h)]
  dsimp only
  rw [good]

theorem closedFault_of_short {id : LinkId} {state : LinkState} {bytes : List Byte} (short : bytes.length < 10) :
    closedFault id state bytes = some LinkCounters.addLenErr := if_pos short

theorem closedFault_of_crc {id : LinkId} {state : LinkState} {bytes : List Byte} (long : ¬ bytes.length < 10)
    (crc : crcOf bytes ≠ 0x1D0F) : closedFault id state bytes = some LinkCounters.addCrcErr :=
  (if_neg long).trans (if_pos crc)

theorem closedFault_of_good {id : LinkId} {state : LinkState} {bytes : List Byte} (long : ¬ bytes.length < 10)
    (crc : crcOf bytes = 0x1D0F) : closedFault id state bytes = cellFault id state (cellOf bytes) :=
  (if_neg long).trans (if_neg (not_not_intro crc))

/-- Settles O48: each bad cell, and each symbol by the state of the link. -/
theorem badCellsAndSymbolsAreCounted : Obligations.BadCellsAndSymbolsAreCounted := by
  unfold Obligations.BadCellsAndSymbolsAreCounted
  intro s id x assembling c counted discarded bad
  refine ⟨fun idle b => congrArg Host.Outcome.next (badCell_of_idle idle b), fun going => ?bad, fun symbol => ?symbol⟩
  case bad =>
    have cut {b : BadCell} {t : State} (takes : s.badCell id b = t) : bad b = .next t := congrArg Host.Outcome.next takes
    have opened : (s.link id).assembles = true := assembles_iff.mpr going
    refine ⟨cut ((if_pos opened).trans ?_), cut ((if_pos opened).trans (discard_eq ..)), cut ((if_pos opened).trans rfl), ?_,
      cut ((if_pos opened).trans (discard_eq ..)), fun bytes => ?_⟩
    · cases id <;> rfl
    · intro ended
      have step : s.badCell id .codeErrorInside =
          if x.counter - 3 = 0 then (s.setLink id ended).alignmentLost id else s.setLink id ended := by
        refine (if_pos opened).trans ((withSymbol_eq ..).trans ?_)
        have ends : (s.setLink id { s.link id with counter := x.counter - 3 }).symbolInside id [] .codeError = s.setLink id ended :=
          discard_setLink ..
        exact ends ▸ rfl
      rw [cut step]
      by_cases low : x.counter ≤ 3
      · rw [if_pos low, if_pos (by omega)]
        rfl
      · rw [if_neg low, if_neg (by omega)]
    · intro cell
      refine ⟨fun short => cut ?_, fun long crc => cut ?_, fun long crc => ?_⟩
      · rw [badCell_closed_of_fault going (closedFault_of_short short), discard_eq]
        rfl
      · rw [badCell_closed_of_fault going (closedFault_of_crc (by omega) crc), discard_eq]
        rfl
      · have fault := closedFault_of_good (id := id) (state := x.state) (by omega : ¬ bytes.length < 10) crc
        have counts {f : LinkCounters → LinkCounters} (h : cellFault id x.state cell = some f) :
            bad (.closed bytes) = discarded (f c) :=
          cut ((badCell_closed_of_fault going (fault.trans h)).trans (discard_eq ..))
        split
        · exact counts (if_pos ‹_›)
        · rename_i arrives
          split
          · exact counts ((if_neg arrives).trans (if_pos ‹_›))
          · rename_i fits
            split
            · exact counts ((if_neg arrives).trans ((if_neg fits).trans (if_pos ‹_›)))
            · rename_i up
              exact cut (badCell_closed_of_good going
                (fault.trans ((if_neg arrives).trans ((if_neg fits).trans (if_neg up)))))
  case symbol =>
    intro n gives y offering
    have step : alignStep x.counter symbol = n := alignStep_eq ..
    have takes {t : State} (h : s.decodedSymbol id symbol = t) : exec (.decodedSymbol id symbol) s = .next t :=
      congrArg Host.Outcome.next h
    refine ⟨fun down => takes ?_, fun aligning => ?_, fun going above => ⟨fun outside => ?_, fun bytes inside other => ?_⟩,
      fun going low => ?_⟩
    · unfold State.decodedSymbol
      rw [down]
    · rw [takes (decodedSymbol_of_aligning aligning symbol), step]
      split <;> rfl
    · have outside' : ((s.setLink id y).link id).receiving = none := by rw [link_setLink_same]; exact outside
      rw [takes ((decodedSymbol_of_counter going step above).trans (assemble_of_none outside' symbol))]
      cases symbol with
      | start => exact congrArg Host.Outcome.next (setReceiving_setLink ..)
      | stop => exact congrArg Host.Outcome.next (count_setLink ..)
      | data b => rfl
      | idle => rfl
      | codeError => rfl
    · have inside' : ((s.setLink id y).link id).receiving = some bytes := by rw [link_setLink_same]; exact inside
      rw [takes ((decodedSymbol_of_counter going step above).trans (assemble_of_some inside' symbol))]
      cases symbol with
      | start => exact congrArg Host.Outcome.next (by cases id <;> rfl)
      | stop => exact absurd rfl other
      | idle => exact congrArg Host.Outcome.next (discard_setLink ..)
      | codeError => exact congrArg Host.Outcome.next (discard_setLink ..)
      | data b =>
        dsimp only
        by_cases long : 266 ≤ bytes.length
        · rw [if_pos long]
          exact congrArg Host.Outcome.next ((if_pos long).trans (discard_setLink ..))
        · rw [if_neg long]
          exact congrArg Host.Outcome.next ((if_neg long).trans (setReceiving_setLink ..))
    · intro ended
      have zero : alignStep (s.link id).counter .codeError = 0 := Nat.sub_eq_zero_of_le low
      have ends : (s.setLink id { s.link id with counter := 0 }).assemble id .codeError = s.setLink id ended := by
        cases receiving : x.receiving with
        | none =>
          rw [assemble_of_none (by rw [link_setLink_same]; exact receiving)]
          have same : { x with counter := 0 } = ended := by
            simp only [ended, receiving]
            rfl
          exact congrArg (s.setLink id) same
        | some bytes =>
          rw [assemble_of_some (by rw [link_setLink_same]; exact receiving)]
          refine (discard_setLink ..).trans ?_
          simp [ended, receiving]
          rfl
      exact congrArg Host.Outcome.next ((decodedSymbol_of_zero going zero).trans (congrArg (·.alignmentLost id) ends))

end Sys2Proof.Machine
end

section
/-!
SUPPORT. The CRC over a cell and the END that closes it (R175 to R178).
-/
namespace Sys2Proof.Machine

/-! ## The CRC (R176) -/

/-- A bit against the register's own: the register leaves no trace of itself but the shift. -/
theorem crcBit_flip (r k : BitVec 16) : crcBit (r ^^^ k) (!r.getMsbD 0) = (r <<< 1) ^^^ crcBit k true := by
  have shift : (r ^^^ k) <<< 1 = r <<< 1 ^^^ k <<< 1 := BitVec.shiftLeft_xor_distrib ..
  have bit : ((r ^^^ k).getMsbD 0 != !r.getMsbD 0) = (k.getMsbD 0 != true) := by
    rw [BitVec.getMsbD_xor]
    cases r.getMsbD 0 <;> cases k.getMsbD 0 <;> rfl
  unfold crcBit
  rw [bit, shift]
  split
  · rw [BitVec.xor_assoc]
  · rfl

theorem crcBits_flip (x : Byte) (r k : BitVec 16) (n : Nat) (flips : ∀ i < n, x.getMsbD i = !r.getMsbD i) :
    (List.range n).foldl (fun q i => crcBit q (x.getMsbD i)) (r ^^^ k) =
      (r <<< n) ^^^ (List.range n).foldl (fun q _ => crcBit q true) k := by
  induction n with
  | zero => simp
  | succ n ih =>
    have first : (r <<< n).getMsbD 0 = r.getMsbD n := by simp [BitVec.getMsbD_shiftLeft]
    have bit : x.getMsbD n = !(r <<< n).getMsbD 0 := (flips n n.lt_succ_self).trans (congrArg _ first.symm)
    rw [List.range_succ, List.foldl_append, List.foldl_append, ih fun i low => flips i (Nat.lt_succ_of_lt low)]
    simp only [List.foldl_cons, List.foldl_nil]
    rw [bit, crcBit_flip, BitVec.shiftLeft_add]

/-- A byte that is the complement of the register's high byte. -/
theorem crcByte_flip {x : Byte} {r : BitVec 16} (k : BitVec 16) (flips : ∀ i < 8, x.getMsbD i = !r.getMsbD i) :
    crcByte (r ^^^ k) x = (r <<< 8) ^^^ (List.range 8).foldl (fun q _ => crcBit q true) k := crcBits_flip x r k 8 flips

theorem crcOf_append (xs ys : List Byte) : crcOf (xs ++ ys) = ys.foldl crcByte (crcOf xs) := List.foldl_append

/-- The complement of the remainder, sent high byte first, leaves 1D0Fh. -/
theorem crcByte_complement (r : BitVec 16) :
    crcByte (crcByte r ((~~~ r).extractLsb' 8 8)) ((~~~ r).extractLsb' 0 8) = 0x1D0F := by
  have high : ∀ i < 8, ((~~~ r).extractLsb' 8 8).getMsbD i = !r.getMsbD i := by
    intro i low
    have place : 8 + (7 - i) = 15 - i := by omega
    simp [BitVec.getMsbD, low, place, show 7 - i < 8 by omega, show 15 - i < 16 by omega,
      show i < 16 by omega]
  have low : ∀ i < 8, ((~~~ r).extractLsb' 0 8).getMsbD i = !(r <<< 8).getMsbD i := by
    intro i low
    have place : 15 - i - 8 = 7 - i := by omega
    simp [BitVec.getMsbD, low, place, show 7 - i < 8 by omega, show 7 - i < 16 by omega,
      show i < 16 by omega, show 15 - i < 16 by omega, show ¬ 15 - i < 8 by omega]
  have first := crcByte_flip 0 high
  have zero : r ^^^ 0 = r := BitVec.xor_zero
  rw [zero] at first
  rw [first, crcByte_flip _ low]
  have gone : r <<< 8 <<< 8 = 0 := by
    rw [← BitVec.shiftLeft_add]
    exact BitVec.shiftLeft_eq_zero (by decide)
  have half : (List.range 8).foldl (fun q _ => crcBit q true) 0 = 0x1EF0 := by decide
  have rest : (List.range 8).foldl (fun q _ => crcBit q true) 0x1EF0 = 0x1D0F := by decide
  rw [gone, half, rest]
  exact BitVec.zero_xor

theorem crcOf_cellBytes (c : Cell) : crcOf (cellBytes c) = 0x1D0F := by
  rw [cellBytes, crcOf_append]
  exact crcByte_complement _

/-! ## The bytes of a cell read back (R206) -/

theorem u16_pair (w : BitVec 16) :
    BitVec.ofNat 16 ((w.extractLsb' 8 8).toNat * 256 + (w.extractLsb' 0 8).toNat) = w := by
  apply BitVec.eq_of_toNat_eq
  simp [BitVec.extractLsb'_toNat, Nat.shiftRight_eq_div_pow]
  omega

theorem u32_quad (w : BitVec 32) :
    BitVec.ofNat 32 (((w.extractLsb' 24 8).toNat * 256 + (w.extractLsb' 16 8).toNat) * 65536 +
      ((w.extractLsb' 8 8).toNat * 256 + (w.extractLsb' 0 8).toNat)) = w := by
  apply BitVec.eq_of_toNat_eq
  simp [BitVec.extractLsb'_toNat, Nat.shiftRight_eq_div_pow]
  omega

theorem length_cellBytes (c : Cell) : (cellBytes c).length = c.payload.length + 10 := by
  simp [cellBytes, cellBody, bytes16, bWord]

theorem cellOf_cellBytes (c : Cell) : cellOf (cellBytes c) = c := by
  have payload : ((cellBytes c).drop 8).take ((cellBytes c).length - 10) = c.payload := by
    rw [length_cellBytes]
    exact List.take_left' rfl
  have wordA : BitVec.ofNat 16 (u16 (cellBytes c) 2) = c.wordA := u16_pair c.wordA
  have wordB : BitVec.ofNat 32 (u32 (cellBytes c) 4) = c.wordB := u32_quad c.wordB
  rw [cellOf, payload, wordA, wordB]
  rfl

/-! ## END (R175, R177, R178) -/

theorem closeCell_of_fault {s : State} {id : LinkId} {bytes : List Byte} {f : LinkCounters → LinkCounters}
    (h : (s.link id).state = .offering ∨ (s.link id).state = .up) (fault : closedFault id (s.link id).state bytes = some f) :
    s.closeCell id bytes = s.count id f := by
  unfold closedFault at fault
  unfold State.closeCell
  split at fault
  · rw [if_pos ‹_›, Option.some.inj fault]
  · rw [if_neg ‹_›]
    split at fault
    · rw [if_pos ‹_›, Option.some.inj fault]
    · rw [if_neg ‹_›, State.receiveCell, if_pos (assembles_iff.mpr h), fault]

theorem discard_of_none {s : State} {id : LinkId} (h : (s.link id).receiving = none) (f : LinkCounters → LinkCounters) :
    s.discard id f = s.count id f := by
  rw [discard_eq, ← h]
  rfl

theorem badCell_eq_closeCell {s : State} {id : LinkId} {bytes : List Byte}
    (h : (s.link id).state = .offering ∨ (s.link id).state = .up) (closed : (s.link id).receiving = none)
    {f : LinkCounters → LinkCounters} (fault : closedFault id (s.link id).state bytes = some f) :
    s.badCell id (.closed bytes) = s.closeCell id bytes := by
  rw [badCell_closed_of_fault h fault, discard_of_none closed, closeCell_of_fault h fault]

theorem closeCell_cellBytes (s : State) (id : LinkId) (c : Cell) : s.closeCell id (cellBytes c) = s.receiveCell id c := by
  have long : ¬ (cellBytes c).length < 10 := by rw [length_cellBytes]; omega
  unfold State.closeCell
  rw [if_neg long, if_neg (not_not_intro (crcOf_cellBytes c)), cellOf_cellBytes]

/-- A closed cell that fails a check has its counter. -/
theorem closedFault_of_bad {id : LinkId} (state : LinkState) {bytes : List Byte}
    (bad : bytes.length < 10 ∨ crcOf bytes ≠ 0x1D0F ∨ kindArrives id (cellOf bytes) = false ∨ lengthFits (cellOf bytes) = false) :
    ∃ f, closedFault id state bytes = some f := by
  by_cases short : bytes.length < 10
  · exact ⟨_, closedFault_of_short short⟩
  by_cases crc : crcOf bytes = 0x1D0F
  · rw [closedFault_of_good short crc]
    by_cases arrives : kindArrives id (cellOf bytes) = false
    · exact ⟨_, if_pos arrives⟩
    · have fits := ((bad.resolve_left short).resolve_left (not_not_intro crc)).resolve_left arrives
      exact ⟨_, (if_neg arrives).trans (if_pos fits)⟩
  · exact ⟨_, closedFault_of_crc short crc⟩

/-- END in a cell closes it. -/
theorem decodedSymbol_stop {s : State} {id : LinkId} {bytes : List Byte}
    (h : (s.link id).state = .offering ∨ (s.link id).state = .up) (inside : (s.link id).receiving = some bytes) :
    s.decodedSymbol id .stop =
      (s.setLink id { s.link id with counter := min 15 ((s.link id).counter + 1), receiving := none }).closeCell id bytes := by
  rw [decodedSymbol_of_counter h (n := min 15 ((s.link id).counter + 1)) rfl (by omega),
    assemble_of_some (by rw [link_setLink_same]; exact inside)]
  exact congrArg (·.closeCell id bytes) (setReceiving_setLink ..)

/-- Settles O49: the remainder of the complement, the bytes read back, and the END by what it closes. -/
theorem cellBytesPassTheCheck : Obligations.CellBytesPassTheCheck := by
  unfold Obligations.CellBytesPassTheCheck
  refine ⟨fun c => ⟨crcOf_cellBytes c, cellOf_cellBytes c⟩, ?_⟩
  intro s id x y closes going
  refine ⟨fun c inside => ?good, fun bytes inside bad => ?bad⟩
  case good =>
    have arrives {i : Instr} (takes : exec i (s.setLink id y) = .next ((s.setLink id y).receiveCell id c)) : closes i := by
      rw [← closeCell_cellBytes, ← decodedSymbol_stop going inside] at takes
      exact takes.symm
    obtain ⟨kind, addr, wordA, wordB, payload⟩ := c
    refine ⟨?_, ?_, ?_, ?_, ?_, ?_, ?_⟩
    · rintro rfl rfl
      exact arrives rfl
    · rintro rfl rfl rfl
      exact arrives rfl
    · rintro rfl rfl
      exact arrives rfl
    · rintro rfl rfl
      have tags : wordA.extractLsb' 8 8 ++ wordA.extractLsb' 0 8 = wordA := by
        rw [BitVec.extractLsb'_append_extractLsb'_eq_extractLsb' (by decide)]
        exact BitVec.extractLsb'_eq_self
      exact arrives (congrArg (fun w => Host.Outcome.next ((s.setLink .bench y).receiveCell .bench ⟨0x04, addr, w, wordB, payload⟩)) tags)
    · rintro rfl rfl rfl rfl
      exact arrives rfl
    · rintro rfl rfl
      exact arrives rfl
    · rintro rfl upstream
      exact arrives rfl
  case bad =>
    obtain ⟨f, fault⟩ := closedFault_of_bad x.state bad
    have link : (s.setLink id y).link id = y := link_setLink_same ..
    have same : (s.setLink id y).badCell id (.closed bytes) = (s.setLink id y).closeCell id bytes :=
      badCell_eq_closeCell (by rw [link]; exact going) (by rw [link]) (by rw [link]; exact fault)
    exact congrArg Host.Outcome.next ((decodedSymbol_stop going inside).trans same.symm)

end Sys2Proof.Machine
end

section
/-!
SUPPORT. Cells disposed of by their address, held and merged (R178 to R183, R188).
-/
namespace Sys2Proof.Machine

/-! ## The address (R179, R180) -/

theorem addressed_all {s : State} {c : Cell} (h : s.port.owns c.addr = false) (all : addressOf c.addr = 15) :
    s.addressed c = (s.ownCell c).forwardCell c := by
  simp [State.addressed, h, all]

theorem addressed_other {s : State} {c : Cell} (h : s.port.owns c.addr = false) (other : addressOf c.addr ≠ 15) :
    s.addressed c = s.forwardCell c := by
  simp [State.addressed, h, other]

/-- A command that is the arrival of a cell of an addressed kind on the bench link (R178). -/
structure Instr.Delivers (i : Instr) (c : Cell) : Prop where
  takes : ∀ s, exec i s = .next (s.receiveCell .bench c)
  arrives : kindArrives .bench c = true
  fits : lengthFits c = true
  addressed : c.kind ≠ 0x0F ∧ c.kind ≠ 0x0C

section
variable {i : Instr} {c : Cell} (h : Instr.Delivers i c) {s : State}
include h

theorem Instr.Delivers.exec_of_up (up : s.port.bench.state = .up) : exec i s = .next ((s.heard .bench).addressed c) := by
  rw [h.takes, receiveCell_of_up (id := .bench) up h.arrives h.fits, count_addIn, State.takeCell, if_neg h.addressed.1]
  exact congrArg Host.Outcome.next (if_neg h.addressed.2)

theorem Instr.Delivers.exec_own (up : s.port.bench.state = .up) (own : s.port.owns c.addr = true) :
    exec i s = .next ((s.heard .bench).ownCell c) := by
  rw [h.exec_of_up up, addressed_own (by rw [heard_owns]; exact own)]

theorem Instr.Delivers.exec_all (up : s.port.bench.state = .up) (other : s.port.owns c.addr = false) (all : c.addr.toNat % 16 = 15) :
    exec i s = .next (((s.heard .bench).ownCell c).forwardCell c) := by
  rw [h.exec_of_up up, addressed_all (by rw [heard_owns]; exact other) all]

theorem Instr.Delivers.exec_other (up : s.port.bench.state = .up) (other : s.port.owns c.addr = false) (one : c.addr.toNat % 16 ≠ 15) :
    exec i s = .next ((s.heard .bench).forwardCell c) := by
  rw [h.exec_of_up up, addressed_other (by rw [heard_owns]; exact other) one]

theorem Instr.Delivers.exec_idle (idle : s.port.bench.state = .down ∨ s.port.bench.state = .aligning) : exec i s = .next s := by
  rw [h.takes, receiveCell_of_idle (id := .bench) c idle]

theorem Instr.Delivers.exec_offering (offering : s.port.bench.state = .offering) :
    exec i s = .next (s.count .bench LinkCounters.addNotUp) := by
  rw [h.takes, receiveCell_of_offering (id := .bench) offering h.arrives h.fits h.addressed.1]

end

/-! ## The commands of the addressed kinds -/

section
variable (addr : Byte) (wordA : BitVec 16) (wordB : BitVec 32) {payload : List Byte}

theorem delivers_sample (long : payload.length = 256) :
    Instr.Delivers (.sample addr wordA wordB payload) ⟨0x01, addr, wordA, wordB, payload⟩ :=
  ⟨fun _ => rfl, rfl, decide_eq_true long, of_decide_eq_true rfl⟩

theorem delivers_streamEnd : Instr.Delivers (.streamEnd addr wordA wordB) ⟨0x02, addr, wordA, wordB, []⟩ :=
  ⟨fun _ => rfl, rfl, rfl, of_decide_eq_true rfl⟩

theorem delivers_clipData (long : payload.length = 256) :
    Instr.Delivers (.clipData addr wordA wordB payload) ⟨0x03, addr, wordA, wordB, payload⟩ :=
  ⟨fun _ => rfl, rfl, decide_eq_true long, of_decide_eq_true rfl⟩

theorem delivers_request (tag kind : Byte) (whole : wholeWords payload = true) :
    Instr.Delivers (.request addr tag kind wordB payload) ⟨0x04, addr, tag ++ kind, wordB, payload⟩ :=
  ⟨fun _ => rfl, rfl, whole, of_decide_eq_true rfl⟩

end

/-! ## The request queue (R188) -/

theorem tag_of_word (tag kind : Byte) : (tag ++ kind).extractLsb' 8 8 = tag := BitVec.extractLsb'_append_eq_left

theorem kind_of_word (tag kind : Byte) : (tag ++ kind).extractLsb' 0 8 = kind := BitVec.extractLsb'_append_eq_right

/-- The Agent with a request that has arrived: joined to the queue, or lost. -/
def State.joined (h : State) (r : Request) : State :=
  if h.agent.requests.length < 16 then { h with agent := { h.agent with requests := h.agent.requests ++ [r] } }
  else { h with agent := { h.agent with
    reqDropped := satInc h.agent.reqDropped, lost := true, lostCount := min (h.agent.lostCount + 1) 255 } }

theorem ownCell_request (s : State) (addr tag kind : Byte) (wordB : BitVec 32) (payload : List Byte) :
    s.ownCell ⟨0x04, addr, tag ++ kind, wordB, payload⟩ = s.joined { tag := tag, kind := kind, payload := payload } := by
  have own : s.ownCell ⟨0x04, addr, tag ++ kind, wordB, payload⟩ =
      { s with agent := s.agent.arrive ⟨(tag ++ kind).extractLsb' 8 8, (tag ++ kind).extractLsb' 0 8, payload⟩ } := rfl
  rw [own, tag_of_word, kind_of_word, Agent.arrive, State.joined]
  split <;> rfl

/-- What the cell of an addressed kind does to a unit at any address, through a unit at address 0 (R179). -/
theorem delivers_through_named {s : State} {i j : Instr} {c : Cell} (own : Instr.Delivers i { c with addr := 0 })
    (h : Instr.Delivers j c) (f : Device → Device) (takes : ∀ t : State, t.ownCell c = { t with dev := f t.dev })
    (up : s.port.bench.state = .up) :
    let t : State := { s with
      port := { (s.heard .bench).port with address := some 0 }
      dev := f s.dev }
    exec i { s with port := { s.port with address := some 0 } } = .next t ∧
      (s.port.owns c.addr = true → exec j s = .next { t with port := (s.heard .bench).port }) ∧
      (s.port.owns c.addr = false → c.addr.toNat % 16 = 15 →
        exec j s = .next (({ t with port := (s.heard .bench).port } : State).forwardCell c)) := by
  intro t
  refine ⟨?_, fun mine => ?_, fun other all => ?_⟩
  · rw [own.exec_own (s := { s with port := { s.port with address := some 0 } }) up (by rfl)]
    exact congrArg Host.Outcome.next (takes _)
  · rw [h.exec_own up mine, takes]
    rfl
  · rw [h.exec_all up other all, takes]
    rfl

/-- Settles O50: each command delivers its cell, by the address and by the state of the link. -/
theorem cellsAreDisposedOfByAddress : Obligations.CellsAreDisposedOfByAddress := by
  unfold Obligations.CellsAreDisposedOfByAddress
  intro forwarded
  refine ⟨?request, ?cells⟩
  case request =>
    intro s addr tag kind wordB payload up whole r c h a joined
    have delivers : Instr.Delivers (.request addr tag kind wordB payload) c := delivers_request addr wordB tag kind whole
    have own : h.ownCell c = joined := ownCell_request ..
    refine ⟨fun mine => ?_, fun other all => ?_, fun other one => ?_⟩
    · rw [delivers.exec_own up mine, own]
    · rw [delivers.exec_all up other all, own]
      rfl
    · rw [delivers.exec_other up other one]
      rfl
  case cells =>
    intro s addr wordA wordB payload long cell commands named port dropped
    have delivers : ∀ x ∈ commands addr, Instr.Delivers x.1 x.2 ∧ x.2.addr = addr := by
      simp only [commands, List.mem_cons, List.not_mem_nil, or_false]
      rintro x (rfl | rfl | rfl)
      · exact ⟨delivers_sample addr wordA wordB long, rfl⟩
      · exact ⟨delivers_streamEnd addr wordA wordB, rfl⟩
      · exact ⟨delivers_clipData addr wordA wordB long, rfl⟩
    refine ⟨fun i => ?through, fun x member => ?_⟩
    case through =>
      match i with
      | 0 => exact ⟨_, _, _, rfl, rfl, delivers_through_named (delivers_sample 0 wordA wordB long)
          (delivers_sample addr wordA wordB long) (·.takeSample wordA wordB (samplesOf payload)) fun _ => rfl⟩
      | 1 => exact ⟨_, _, _, rfl, rfl, delivers_through_named (delivers_streamEnd 0 wordA wordB)
          (delivers_streamEnd addr wordA wordB) (·.takeStreamEnd wordA wordB) fun _ => rfl⟩
      | 2 => exact ⟨_, _, _, rfl, rfl, delivers_through_named (delivers_clipData 0 wordA wordB long)
          (delivers_clipData addr wordA wordB long) (·.takeClipData wordA wordB.toNat payload) fun _ => rfl⟩
    obtain ⟨delivered, rfl⟩ := delivers x member
    exact ⟨delivered.exec_idle, delivered.exec_offering, fun up other one => delivered.exec_other up other one⟩

/-! ## FLOW(LINK) and the merge queue (R181 to R183) -/

theorem kind_of_upstream {c : Cell} (h : c.upstream = true) :
    kindArrives .chain c = true ∧ lengthFits c = true ∧ c.kind ≠ 0x0F := by
  by_cases flow : c.kind = 0x0C
  · simp only [Cell.upstream, flow, if_true, Bool.and_eq_true, decide_eq_true_eq, List.isEmpty_iff] at h
    obtain ⟨subject, empty⟩ := h
    simpa [kindArrives, lengthFits, flow, empty] using subject
  · by_cases reply : c.kind = 0x08
    · simp [Cell.upstream, reply, wholeWords] at h
      simp [kindArrives, lengthFits, reply, h]
    · unfold Cell.upstream at h
      dsimp only at h
      rw [if_neg flow, if_neg reply] at h
      simp only [Bool.and_eq_true, decide_eq_true_eq] at h
      obtain ⟨⟨⟨kind, low⟩, high⟩, long⟩ := h
      have counts : (1 ≤ (c.wordA.extractLsb' 8 8).toNat && (c.wordA.extractLsb' 8 8).toNat ≤ 32 &&
          c.payload.length = 8 * (c.wordA.extractLsb' 8 8).toNat : Bool) = true := by
        rw [decide_eq_true low, decide_eq_true high, decide_eq_true long]
        rfl
      unfold kindArrives lengthFits
      rw [kind]
      exact ⟨rfl, counts, by decide⟩

/-- Settles O51: the cell is taken, and the hold test follows the merge. -/
theorem flowLinkHoldsAndChainCellsMerge : Obligations.FlowLinkHoldsAndChainCellsMerge := by
  unfold Obligations.FlowLinkHoldsAndChainCellsMerge
  refine ⟨fun s addr wordB up => ?_, fun s c upstream up => ?_⟩
  · intro h
    have taken := receiveCell_of_up (s := s) (id := .bench) (c := ⟨0x0C, addr, 0, wordB, []⟩) up rfl rfl
    rw [count_addIn] at taken
    exact congrArg Host.Outcome.next taken
  · intro h merge
    obtain ⟨arrives, fits, other⟩ := kind_of_upstream upstream
    have taken := receiveCell_of_up (s := s) (id := .chain) up arrives fits
    rw [count_addIn, State.takeCell, if_neg other] at taken
    have joins : h.mergeCell c = if s.port.merge.length < 32 then { h with port := ({ h.port with merge := merge }).holdTest }
        else { h with port := { h.port with
          counters := { s.port.counters with mergeDrop := satInc s.port.counters.mergeDrop } } } := rfl
    refine (congrArg Host.Outcome.next (taken.trans joins)).trans (congrArg Host.Outcome.next ?_)
    by_cases full : 32 ≤ s.port.merge.length
    · rw [if_pos full, if_neg (Nat.not_lt.mpr full)]
    · rw [if_neg full, if_pos (Nat.lt_of_not_le full)]
      by_cases brings : s.port.holdSent = false ∧ merge.length = 24
      · rw [if_pos brings]
        exact congrArg (fun p => { h with port := p }) (if_pos brings)
      · rw [if_neg brings]
        exact congrArg (fun p => { h with port := p }) (if_neg brings)

end Sys2Proof.Machine
end

section
/-!
SUPPORT. The transmitters: what they send, and the bytes of the cells this unit originates (R180, R184, R186, R206 to R210).
-/
namespace Sys2Proof.Machine

/-! ## The chain transmitter (R180) -/

section
variable {s : State} (up : s.port.chain.state = .up) (free : s.port.chain.sending = none)
include up free

theorem chainTransmit_due (due : s.port.chain.answerDue = true) : s.chainTransmit = s.sendAnswer .chain :=
  (if_pos ⟨up, free⟩).trans (if_pos due)

variable (due : s.port.chain.answerDue = false)
include due

theorem chainTransmit_flow {hold : Bool} (place : s.port.flowPlace = some hold) :
    s.chainTransmit = ({ s with port := { s.port with flowPlace := none } }).send .chain (s.port.flowCell 0 hold) false := by
  unfold State.chainTransmit
  dsimp only
  rw [if_pos ⟨up, free⟩, if_neg (by rw [due]; decide), place]

theorem chainTransmit_forward {c : Cell} {rest : List Cell} (place : s.port.flowPlace = none) (queue : s.port.forward = c :: rest) :
    s.chainTransmit = ({ s with port := { s.port with forward := rest } }).send .chain c false := by
  unfold State.chainTransmit
  dsimp only
  rw [if_pos ⟨up, free⟩, if_neg (by rw [due]; decide), place, queue]

theorem chainTransmit_empty (place : s.port.flowPlace = none) (queue : s.port.forward = []) : s.chainTransmit = s := by
  unfold State.chainTransmit
  dsimp only
  rw [if_pos ⟨up, free⟩, if_neg (by rw [due]; decide), place, queue]

end

/-! ## The upstream arbiter (R173, R184) -/

section
variable {s : State} (up : s.port.bench.state = .up) (free : s.port.bench.sending = none)
include up free

theorem upstreamGrant_due (due : s.port.bench.answerDue = true) : s.upstreamGrant = s.sendAnswer .bench :=
  (if_pos ⟨up, free⟩).trans (if_pos due)

variable (due : s.port.bench.answerDue = false)
include due

theorem upstreamGrant_flow {e : FlowEntry} {rest : List FlowEntry} (box : s.dev.intake.outbox = e :: rest) :
    s.upstreamGrant = s.grantFlow e rest := by
  unfold State.upstreamGrant
  rw [if_pos ⟨up, free⟩, if_neg (by rw [due]; decide), box]

theorem upstreamGrant_held (box : s.dev.intake.outbox = []) (held : s.port.held = true) : s.upstreamGrant = s := by
  unfold State.upstreamGrant
  rw [if_pos ⟨up, free⟩, if_neg (by rw [due]; decide), box]
  exact if_pos held

theorem upstreamGrant_nothing (box : s.dev.intake.outbox = []) (idle : ∀ k, s.classReady k = false) : s.upstreamGrant = s := by
  have found : (ringAfter s.port.mark).find? s.classReady = none :=
    List.find?_eq_none.mpr fun k _ => by rw [idle k]; decide
  unfold State.upstreamGrant
  rw [if_pos ⟨up, free⟩, if_neg (by rw [due]; decide), box, found]
  exact ite_self _

theorem upstreamGrant_class {k : Machine.Class} {before after : List Machine.Class} (box : s.dev.intake.outbox = [])
    (held : s.port.held = false) (ring : ringAfter s.port.mark = before ++ k :: after) (ready : s.classReady k = true)
    (idle : ∀ j ∈ before, s.classReady j = false) : s.upstreamGrant = s.grant k := by
  have found : (ringAfter s.port.mark).find? s.classReady = some k :=
    List.find?_eq_some_iff_append.mpr ⟨ready, before, after, ring, fun j member => by rw [idle j member]; rfl⟩
  unfold State.upstreamGrant
  rw [if_pos ⟨up, free⟩, if_neg (by rw [due]; decide), box, found]
  exact if_neg (by rw [held]; decide)

end

theorem grant_reply {s : State} {r : Reply} {rest : List Reply} (replies : s.agent.replies = r :: rest) :
    s.grant .reply =
      ({ s with port := { s.port with mark := .reply }, agent := { s.agent with replies := rest } }).send .bench
        (s.port.replyCell r) (r.kind = 0x72) := by
  unfold State.grant
  dsimp only
  rw [replies]
  rfl

theorem grant_chain {s : State} {c : Cell} {rest : List Cell} (merge : s.port.merge = c :: rest) :
    s.grant .chain =
      ({ s with port := ({ s.port with mark := .chain, merge := rest } : Port).releaseTest }).send .bench c false := by
  unfold State.grant
  dsimp only
  rw [merge]

theorem cellSent_of_none {s : State} {id : LinkId} (h : (s.link id).sending = none) : s.cellSent id = s := by
  rw [State.cellSent, h]

theorem cellSent_of_some {s : State} {id : LinkId} {x : Sending} (h : (s.link id).sending = some x) :
    s.cellSent id =
      if x.resetReply then
        { (s.count id LinkCounters.addOut).updLink id (fun y => { y with sending := none }) with
          agent := { s.agent with resetSent := true } }
      else (s.count id LinkCounters.addOut).updLink id fun y => { y with sending := none } := by
  rw [State.cellSent, h]
  rfl

/-! ## The bytes of the cells this unit originates (R206, R208 to R210) -/

theorem bytes16_append (high low : Byte) : bytes16 (high ++ low) = [high, low] := by
  rw [bytes16, tag_of_word, kind_of_word]

theorem bWord_append (a b c d : Byte) : bWord (a ++ b ++ c ++ d) = [a, b, c, d] := by
  have first : (a ++ b ++ c ++ d).extractLsb' 24 8 = a := by
    rw [BitVec.extractLsb'_append_eq_of_le (by decide), BitVec.extractLsb'_append_eq_of_le (by decide)]
    exact BitVec.extractLsb'_append_eq_left
  have second : (a ++ b ++ c ++ d).extractLsb' 16 8 = b := by
    rw [BitVec.extractLsb'_append_eq_of_le (by decide), BitVec.extractLsb'_append_eq_of_le (by decide)]
    exact BitVec.extractLsb'_append_eq_right
  have third : (a ++ b ++ c ++ d).extractLsb' 8 8 = c := by
    rw [BitVec.extractLsb'_append_eq_of_le (by decide)]
    exact BitVec.extractLsb'_append_eq_right
  have fourth : (a ++ b ++ c ++ d).extractLsb' 0 8 = d := BitVec.extractLsb'_append_eq_right
  rw [bWord, first, second, third, fourth]

theorem bWord_flagWord (b : Bool) : bWord (flagWord b) = [if b then 1 else 0, 0, 0, 0] := by cases b <;> rfl

theorem bWord_byte (a : Byte) : bWord (a ++ (0 : BitVec 24)) = [a, 0, 0, 0] := by
  have first : (a ++ (0 : BitVec 24)).extractLsb' 24 8 = a := BitVec.extractLsb'_append_eq_left
  have rest {start : Nat} (low : start + 8 ≤ 24) : (a ++ (0 : BitVec 24)).extractLsb' start 8 = 0 := by
    rw [BitVec.extractLsb'_append_eq_of_add_le low]
    exact BitVec.extractLsb'_zero
  rw [bWord, first, rest (by decide), rest (by decide), rest (by decide)]

theorem resultCode_eq (r : Result) :
    resultCode r = BitVec.ofNat 8 ([Result.ok, .accepted, .busy, .inUse, .badKind, .badField, .outOfRange, .notReady, .laneStopped,
      .streamRunning, .full, .noSpace, .incomplete, .locked].idxOf r) := by
  cases r <;> rfl

theorem noticeKindCode_eq (k : NoticeKind) :
    noticeKindCode k = BitVec.ofNat 8 (1 + [NoticeKind.event, .cueFault, .user, .storeDone].idxOf k) := by
  cases k <;> rfl

/-- Settles O52: the transmitters by what waits, and the cells byte by byte. -/
theorem transmittersSendInOrder : Obligations.TransmittersSendInOrder := by
  unfold Obligations.TransmittersSendInOrder
  intro sending
  refine ⟨?chain, ?bench, ?sent, ?bytes⟩
  case chain =>
    intro s p x gives answered
    have out {t : State} (h : s.chainTransmit = t) : exec .chainTransmit s = .next t := congrArg Host.Outcome.next h
    refine ⟨fun busy => out (if_neg fun ⟨up, free⟩ => busy.elim (· up) (· free)), fun up free =>
      ⟨fun due => out (chainTransmit_due up free due), fun due => ⟨fun hold place => out (chainTransmit_flow up free due place),
        fun c rest place queue => out (chainTransmit_forward up free due place queue),
        fun place queue => out (chainTransmit_empty up free due place queue)⟩⟩⟩
  case bench =>
    intro s p x sent answered
    have out {t : State} (h : s.upstreamGrant = t) : exec .upstreamGrant s = .next t := congrArg Host.Outcome.next h
    refine ⟨fun busy => out (if_neg fun ⟨up, free⟩ => busy.elim (· up) (· free)), fun up free =>
      ⟨fun due => out (upstreamGrant_due up free due), fun due => ⟨fun e rest box => out (upstreamGrant_flow up free due box),
        fun box => ⟨fun idle => ?_, fun k before after held ring ready others => ?_⟩⟩⟩⟩
    · rcases idle with held | idle
      · exact out (upstreamGrant_held up free due box held)
      · exact out (upstreamGrant_nothing up free due box idle)
    · have granted := upstreamGrant_class up free due box held ring ready others
      refine ⟨?_, ?_, ?_⟩
      · rintro r rest rfl replies
        exact out (granted.trans (grant_reply replies))
      · rintro rfl
        exact out granted
      · rintro c rest rfl merge releases p'
        have turned := granted.trans (grant_chain merge)
        refine ⟨fun holds => ?_, fun goes => ?_⟩
        · rw [out turned, Port.releaseTest, if_pos holds]
          rfl
        · rw [out turned, Port.releaseTest, if_neg goes]
          rfl
  case sent =>
    intro s id x
    refine ⟨fun idle => congrArg Host.Outcome.next (cellSent_of_none idle), fun c busy => ?_⟩
    intro y s'
    have same : (s.count id LinkCounters.addOut).updLink id (fun y => { y with sending := none }) = s' := by
      cases id <;> rfl
    exact congrArg Host.Outcome.next ((cellSent_of_some busy).trans (by rw [same]))
  case bytes =>
    intro p own flag results kinds entry
    refine ⟨fun seen => ?_, fun high low hold => ?_, fun r => ?_, fun b => ?_⟩
    · have wordA : bytes16 0x0002 = [0x00, 0x02] := by decide
      rw [cellBody, Port.offerCell, bWord_flagWord]
      dsimp only
      rw [wordA]
      rfl
    · rw [cellBody, Port.flowCell, bWord_flagWord, bytes16_append]
      rfl
    · refine ⟨(4 - r.data.length % 4) % 4, by omega, by omega, ?_⟩
      rw [cellBody, Port.replyCell, bytes16_append, bWord_append, resultCode_eq]
      rfl
    · have entries : b.queue.flatMap noticeBytes = b.queue.flatMap entry := by
        refine congrArg (b.queue.flatMap ·) (funext fun n => ?_)
        rw [noticeBytes, noticeKindCode_eq]
      rw [cellBody, Port.noticeCell, bytes16_append, bWord_byte, entries]
      cases b.lost <;> rfl

end Sys2Proof.Machine
end

section
/-!
SUPPORT. A boundary that freezes its lane (R41, R47, R48, R155, R157).
-/
namespace Sys2Proof.Machine

/-! ## The boundary that freezes (R41, R47, R48) -/

theorem exec_blockBoundary (l : Fin 8) (s : State) : exec (.blockBoundary l) s = .next { s with dev := s.dev.blockBoundary l } := rfl

theorem blockBoundary_of_edges {d : Device} {l : Fin 8} (ready : (d.domain (d.lane l).domain).state = .ready)
    (going : (d.lane l).state = .running ∨ (d.lane l).state = .freezing) : d.blockBoundary l = (d.takeEdge l).boundary l :=
  if_pos ⟨decide_eq_true ready, going⟩

theorem boundary_of_finished {d : Device} {l : Fin 8} (freezing : (d.lane l).state = .freezing) (done : (d.lane l).rampLeft = 0) :
    d.boundary l = (d.setLane l (d.lane l).releaseQuiet).freezeLane l := by
  refine if_pos ?_
  rw [Device.updLane, lane_setLane_same, releaseQuiet_eq]
  exact ⟨freezing, done⟩

theorem dropHardFreeze_of_due {b : Nat} {e : Entry} {before after : List Entry} (hard : e.kind = .laneFreeze .hard) (due : e.stamp ≤ b)
    (later : ∀ y ∈ before, y.kind = .laneFreeze .hard → b < y.stamp) :
    dropHardFreeze b (before ++ e :: after) = some (before ++ after) := by
  induction before with
  | nil => exact if_pos (by simp [Entry.hardFreezeBy, hard, due])
  | cons y before ih =>
    have waits : ¬ y.hardFreezeBy b = true := by
      simp only [Entry.hardFreezeBy, Bool.and_eq_true, decide_eq_true_eq, not_and]
      intro kind
      have := later y List.mem_cons_self kind
      omega
    rw [List.cons_append, dropHardFreeze, if_neg waits, ih fun x member => later x (List.mem_cons_of_mem _ member)]
    rfl

/-- A lane as a hard freeze leaves it, its state still to change. -/
def Lane.frozenHard (x : Lane) (rest : List Entry) : Lane :=
  { x with schedule := rest, ampNow := Val.zero, ampTarget := Val.zero, rampLeft := 0, rampDue := false }

theorem boundary_of_hard {d : Device} {l : Fin 8} {rest : List Entry}
    (ramping : ¬ ((d.lane l).state = .freezing ∧ (d.lane l).rampLeft = 0))
    (found : dropHardFreeze (d.lane l).time (d.lane l).schedule = some rest) :
    d.boundary l = (d.setLane l ((d.lane l).releaseQuiet.frozenHard rest)).freezeLane l := by
  unfold Device.boundary
  dsimp only
  rw [Device.updLane, lane_setLane_same, releaseQuiet_eq]
  dsimp only
  rw [if_neg ramping, found]
  dsimp only
  rw [setLane_setLane]
  rfl

/-! ## The markers of the lane (R155, R157) -/

theorem active_eq (p : Pulse) : p.active = decide (p ≠ .none) := by cases p <;> rfl

/-- The level that a marker of a lane that plays holds as the lane freezes. -/
def Marker.levelAtFreeze (m : Marker) : Bool := match m.condition with
  | .laneRunning _ => true
  | _ => m.pulse ≠ .none

theorem conditionLevel_of_lane {d : Device} {l : Fin 8} {m : Marker} (named : m.condition.lane = some l)
    (going : (d.lane l).state = .running ∨ (d.lane l).state = .freezing) : d.conditionLevel false m = m.levelAtFreeze := by
  unfold Device.conditionLevel Marker.levelAtFreeze
  cases condition : m.condition with
  | laneRunning m =>
    rw [condition] at named
    obtain rfl := Option.some.inj named
    rcases going with h | h <;> simp [h]
  | voiceStartPulse m => exact active_eq _
  | segmentEdgePulse m => exact active_eq _
  | streamUnderrun _ | triggerLevel _ | cueLevelAtLeast _ | linkUp | soft =>
    rw [condition] at named
    cases named

/-- The markers of a lane's conditions as the lane freezes, each at a level. -/
def Device.markersAtFreeze (d : Device) (l : Fin 8) (level : Marker → Bool) : Device :=
  { d with markers := d.markers.map fun m => if m.condition.lane = some l then m.freeze d.now (level m) else m }

/-- What a freeze does to a lane just written: its state, its port and the markers of its conditions. -/
theorem freezeLane_setLane (d : Device) (l : Fin 8) (z : Lane) :
    (d.setLane l z).freezeLane l =
      (d.markersAtFreeze l ((d.setLane l z).conditionLevel false)).setLane l
        { z with state := .frozen, carried := [] } := by
  have lane : ((d.setLane l z).freezeMarkers l).lane l = z := lane_setLane_same d l z
  unfold Device.freezeLane Device.updLane
  rw [lane]
  exact setLane_setLane (d.markersAtFreeze l ((d.setLane l z).conditionLevel false)) l z _

theorem freezeLane_marker {d : Device} {l : Fin 8} {z : Lane} (going : z.state = .running ∨ z.state = .freezing) (n : Fin 6) :
    ((d.setLane l z).freezeLane l).markers.get n =
      if (d.markers.get n).condition.lane = some l then (d.markers.get n).freeze d.now (d.markers.get n).levelAtFreeze
      else d.markers.get n := by
  have marker : ((d.setLane l z).freezeLane l).markers =
      (d.markersAtFreeze l ((d.setLane l z).conditionLevel false)).markers := by
    rw [freezeLane_setLane]
    rfl
  rw [marker, Device.markersAtFreeze, get_map]
  split
  · rw [conditionLevel_of_lane ‹_› (by rw [lane_setLane_same]; exact going)]
  · rfl

theorem freeze_holdLast {m : Marker} (holds : m.frozenLevel = .holdLast) (now : Nat) (level : Bool) :
    m.freeze now level = { m with
      frozenHold := some level
      pulse := match m.pulse with
        | .running endsAt => .held (endsAt - now)
        | .none => .none
        | .held left => .held left } := by
  unfold Marker.freeze
  rw [holds]
  cases m.pulse <;> rfl

theorem freeze_force {m : Marker} (forces : m.frozenLevel ≠ .holdLast) (now : Nat) (level : Bool) :
    m.freeze now level = { m with pulse := .none } := by
  unfold Marker.freeze
  cases level : m.frozenLevel with
  | holdLast => exact absurd level forces
  | forceActive | forceInactive => rfl

/-- Settles O24: both boundaries write the lane and freeze it. -/
theorem boundaryFreezesTheLane : Obligations.BoundaryFreezesTheLane := by
  unfold Obligations.BoundaryFreezesTheLane
  intro s l x frozenAt ready
  have next : isNextEdge s.dev l (s.dev.nextEdge l) := (isNextEdge_iff ..).mpr rfl
  have edged : s.dev.takeEdge l = ({ s.dev with now := s.dev.nextEdge l } : Device).setLane l { x with lastEdge := s.dev.nextEdge l } :=
    takeEdge_eq s.dev l
  generalize s.dev.nextEdge l = edge at next edged
  have lane : (s.dev.takeEdge l).lane l = { x with lastEdge := edge } := by rw [edged, lane_setLane_same]
  have freezes {z : Lane} (going : z.state = .running ∨ z.state = .freezing) (time : z.time = x.time) (voices : z.voices = x.voices)
      (last : z.lastEdge = edge) : frozenAt edge (((s.dev.takeEdge l).setLane l z).freezeLane l) ∧
        (((s.dev.takeEdge l).setLane l z).freezeLane l).lane l = { z with state := .frozen, carried := [] } := by
    rw [edged, setLane_setLane]
    have marker := freezeLane_marker (d := { s.dev with now := edge }) (l := l) going
    have written := freezeLane_setLane { s.dev with now := edge } l z
    generalize (({ s.dev with now := edge } : Device).setLane l z).freezeLane l = e at marker written
    have lane : e.lane l = { z with state := .frozen, carried := [] } := by rw [written, lane_setLane_same]
    refine ⟨⟨by rw [lane], by rw [lane, time], by rw [lane, voices], by rw [lane], by rw [lane, last], fun m other => ?_,
      by rw [written]; rfl, by rw [written]; rfl, by rw [written]; rfl, by rw [written]; rfl,
      by rw [written]; exact ⟨rfl, rfl, rfl, rfl, rfl, rfl, rfl, rfl⟩, fun n => ?_⟩, lane⟩
    · rw [written, lane_setLane_of_ne _ _ other]
      rfl
    · intro m m' level stopped
      refine ⟨fun other => (marker n).trans (if_neg other), fun named holds => ?_, fun named forces => ?_⟩
      · exact (marker n).trans ((if_pos named).trans (freeze_holdLast holds ..))
      · exact (marker n).trans ((if_pos named).trans (freeze_force forces ..))
  have out {d : Device} (going : x.state = .running ∨ x.state = .freezing) (bounds : (s.dev.takeEdge l).boundary l = d) :
      exec (.blockBoundary l) s = .next { s with dev := d } := by
    rw [exec_blockBoundary, blockBoundary_of_edges ready going, bounds]
  refine ⟨fun freezing done => ?_, fun e before after going split hard due later => ?_⟩
  · have bounds := boundary_of_finished (d := s.dev.takeEdge l) (l := l) (by rw [lane]; exact freezing) (by rw [lane]; exact done)
    obtain ⟨frozen, left⟩ := freezes (z := ((s.dev.takeEdge l).lane l).releaseQuiet) (by rw [lane, releaseQuiet_eq]; exact .inr freezing)
      (by rw [lane, releaseQuiet_eq]) (by rw [lane, releaseQuiet_eq]) (by rw [lane, releaseQuiet_eq])
    refine ⟨edge, _, next, out (.inr freezing) bounds, frozen, ?_⟩
    rw [left, lane, releaseQuiet_eq]
  · have running : x.state = .running ∨ x.state = .freezing := going.imp_right And.left
    have ramping : ¬ (x.state = .freezing ∧ x.rampLeft = 0) := fun ⟨freezing, done⟩ =>
      going.elim (fun run => LaneState.noConfusion (run.symm.trans freezing)) fun ramp => ramp.2 done
    have found : dropHardFreeze x.time x.schedule = some (before ++ after) := by
      rw [split]
      exact dropHardFreeze_of_due hard due later
    have bounds := boundary_of_hard (d := s.dev.takeEdge l) (l := l) (rest := before ++ after) (by rw [lane]; exact ramping)
      (by rw [lane]; exact found)
    obtain ⟨frozen, left⟩ := freezes (z := ((s.dev.takeEdge l).lane l).releaseQuiet.frozenHard (before ++ after))
      (by rw [lane, releaseQuiet_eq]; exact running) (by rw [lane, releaseQuiet_eq]; rfl) (by rw [lane, releaseQuiet_eq]; rfl)
      (by rw [lane, releaseQuiet_eq]; rfl)
    exact ⟨edge, _, next, out running bounds, frozen, by rw [left]; rfl, by rw [left]; rfl, by rw [left]; rfl, by rw [left]; rfl,
      by rw [left]; rfl⟩

end Sys2Proof.Machine
end

section
/-!
SUPPORT. The state of a lane through a block, and its record as the boundary completes it (R41, R42, R47).
-/
namespace Sys2Proof.Machine

/-! ## The state of a lane through a block (R41, R47) -/

/-- From `d` to `e` no lane's state changed, but for a soft freeze of a RUNNING one. -/
structure Device.Runs (d e : Device) : Prop where
  state : ∀ m, (e.lane m).state = (d.lane m).state ∨ (d.lane m).state = .running ∧ (e.lane m).state = .freezing

theorem Device.Runs.refl (d : Device) : d.Runs d := ⟨fun _ => .inl rfl⟩

theorem Device.Runs.trans {a b c : Device} (h : a.Runs b) (g : b.Runs c) : a.Runs c := ⟨fun m => by
  rcases g.state m with same | ⟨running, freezing⟩
  · rw [same]
    exact h.state m
  · rcases h.state m with same | ⟨-, already⟩
    · exact .inr ⟨same ▸ running, freezing⟩
    · exact absurd (running.symm.trans already) LaneState.noConfusion⟩

/-- A lane that plays still plays. -/
theorem Device.Runs.going {d e : Device} (h : d.Runs e) {l : Fin 8} (going : (d.lane l).state = .running ∨ (d.lane l).state = .freezing) :
    (e.lane l).state = .running ∨ (e.lane l).state = .freezing := by
  rcases h.state l with same | ⟨-, freezing⟩
  · rwa [same]
  · exact .inr freezing

theorem runs_of_lanes {d e : Device} (h : e.lanes = d.lanes) : d.Runs e := ⟨fun m => .inl (by rw [lane_of_lanes h])⟩

theorem runs_updLane (d : Device) (l : Fin 8) (f : Lane → Lane)
    (h : ∀ x, (f x).state = x.state ∨ x.state = .running ∧ (f x).state = .freezing) : d.Runs (d.updLane l f) := ⟨fun m => by
  by_cases here : m = l
  · subst here
    rw [lane_updLane_same]
    exact h _
  · rw [lane_updLane_of_ne d f here]
    exact .inl rfl⟩

theorem runs_setVoice (d : Device) (l : Fin 8) (v : Fin 4) (x : Voice) : d.Runs (d.setVoice l v x) :=
  runs_updLane d l (fun y => { y with voices := put y.voices v x }) fun _ => .inl rfl

theorem runs_updVoice (d : Device) (l : Fin 8) (v : Fin 4) (f : Voice → Voice) : d.Runs (d.updVoice l v f) := runs_setVoice ..

/-! ### Operations of a block in progress -/

section
variable (k : Block) (l : Fin 8) (v : Fin 4)

theorem runs_endSegment (c : EndCause) : k.dev.Runs (k.endSegment l v c).dev := by
  rw [block_endSegment_dev]
  exact runs_updVoice ..

theorem runs_failSegment (g : Fin 1024) (c : EndCause) : k.dev.Runs (k.failSegment l v g c).dev := by
  rw [block_failSegment_dev]
  exact runs_updVoice ..

theorem runs_play (g : Fin 1024) (b : Option Binding) : k.dev.Runs (k.play l v g b).dev := by
  rw [block_play_dev]
  exact runs_updVoice ..

theorem runs_begin (t : Nat) (g : Fin 1024) (c : Option (Fin 16 × Nat)) : k.dev.Runs (k.begin l v t g c).dev := by
  unfold Block.begin
  have pulse : k.dev.Runs (k.dev.causePulse (.segmentEdgePulse l) (k.dev.sampleClock l t)) := runs_of_lanes rfl
  generalize k.dev.causePulse (.segmentEdgePulse l) (k.dev.sampleClock l t) = d at pulse
  refine pulse.trans ?_
  dsimp only
  split
  · exact runs_failSegment { k with dev := d } ..
  · exact runs_play { k with dev := d } ..
  · split
    · exact runs_play { k with dev := d } ..
    · exact runs_failSegment { k with dev := d } ..
  · split
    · exact runs_failSegment { k with dev := d } ..
    · rename_i n index
      have bound : d.Runs (d.bindReader n index) := runs_of_lanes rfl
      exact bound.trans (runs_play { k with dev := d.bindReader n index } ..)

theorem runs_chain (t : Nat) (g : Fin 1024) : k.dev.Runs (k.chain l v t g).dev := by
  unfold Block.chain
  dsimp only
  split
  · generalize claimed : k.dev.setSlot _ _ = d
    have slot : k.dev.Runs d := runs_of_lanes (by rw [← claimed, setSlot_lanes])
    exact slot.trans (runs_begin { k with dev := d } l v t g _)
  · exact runs_begin ..

theorem runs_finish (t : Nat) : k.dev.Runs (k.finish l v t).dev := by
  unfold Block.finish
  dsimp only
  split
  · exact runs_endSegment ..
  · exact (runs_endSegment ..).trans (runs_chain ..)

theorem runs_takeDue (t : Nat) : k.dev.Runs (k.takeDue l v t).dev := by
  unfold Block.takeDue
  split
  · exact .refl _
  · exact runs_finish ..
  · generalize cleared : k.dev.updVoice l v _ = d
    have voice : k.dev.Runs d := cleared ▸ runs_updVoice ..
    exact voice.trans (runs_chain { k with dev := d } l v t _)

theorem runs_applyStart (t : Nat) (g : Fin 1024) (c : Option (Fin 16 × Nat)) : k.dev.Runs (k.applyStart l v t g c).dev := by
  unfold Block.applyStart
  dsimp only
  have pulse : k.dev.Runs (k.dev.causePulse (.voiceStartPulse l) (k.dev.sampleClock l t)) := runs_of_lanes rfl
  generalize k.dev.causePulse (.voiceStartPulse l) (k.dev.sampleClock l t) = d at pulse
  generalize cleared : d.updVoice l v _ = e
  have started : k.dev.Runs e := pulse.trans (cleared ▸ runs_updVoice ..)
  refine started.trans ?_
  split
  · exact (runs_endSegment { k with dev := e } l v .replaced).trans (runs_begin ..)
  · exact runs_begin { k with dev := e } l v t g c

theorem runs_applyStop (m : Mode) : k.dev.Runs (k.applyStop l v m).dev := by
  unfold Block.applyStop
  dsimp only
  split
  · split
    · exact runs_endSegment ..
    · exact runs_setVoice ..
  · exact .refl _
  · exact runs_endSegment ..
  · exact runs_endSegment ..
  · exact runs_endSegment ..
  · exact .refl _
  · exact .refl _

theorem runs_applyGain (g : Int) (r : Nat) : k.dev.Runs (k.applyGain l v g r).dev := by
  unfold Block.applyGain
  dsimp only
  split
  · exact runs_setVoice ..
  · exact runs_setVoice ..
  · exact runs_setVoice ..
  · exact .refl _
  · exact .refl _

theorem runs_apply (t : Nat) (e : Entry) : k.dev.Runs (k.apply l t e).dev := by
  unfold Block.apply
  split
  · exact runs_applyStart ..
  · exact runs_applyStop ..
  · exact runs_applyGain ..
  · refine runs_updLane k.dev l Lane.softFreeze fun x => ?_
    unfold Lane.softFreeze
    split
    · exact .inr ⟨‹_›, rfl⟩
    · exact .inl rfl
  · exact .refl _

theorem runs_streamFinished : k.dev.Runs (k.streamFinished l v).dev := by
  unfold Block.streamFinished
  dsimp only
  split
  · exact runs_endSegment ..
  · have ended := runs_endSegment k l v (k.dev.voice l v).finishCause
    refine ended.trans ?_
    dsimp only
    exact runs_updVoice ..

theorem runs_readSample (f : Fixed) (c : Cursor) (x : Sample) (b : Bool) : k.dev.Runs (k.readSample l v f c x b).1.dev := by
  have emitted : k.dev.Runs (({ k with cursors := put k.cursors v (some (c.advance b)) } : Block).emit l v f x).1.dev :=
    runs_setVoice ..
  unfold Block.readSample
  dsimp only
  split
  · exact emitted.trans (runs_streamFinished ..)
  · exact emitted

theorem runs_readStream (f : Fixed) (c : Cursor) : k.dev.Runs (k.readStream l v f c).1.dev := by
  unfold Block.readStream
  dsimp only
  split
  · exact runs_readSample ..
  · exact runs_readSample ..
  · split
    · exact runs_readSample ..
    · dsimp only
      unfold Block.stall
      dsimp only
      split
      · exact runs_endSegment ..
      · exact runs_setVoice ..

end

theorem runs_voiceSample (fuel : Nat) (k : Block) (l : Fin 8) (v : Fin 4) (t : Nat) :
    k.dev.Runs (Block.voiceSample fuel k l v t).1.dev := by
  induction fuel generalizing k with
  | zero => exact .refl _
  | succ fuel ih =>
    unfold Block.voiceSample
    dsimp only
    split
    · exact .refl _
    · split
      · split
        · split
          · exact (runs_finish ..).trans (ih _)
          · exact runs_readStream ..
        · split <;> exact runs_setVoice ..
      · exact .refl _

theorem runs_sumVoices (k : Block) (l : Fin 8) (t : Nat) : k.dev.Runs (k.sumVoices l t).1.dev := by
  rw [sumVoices_eq]
  exact foldl_keeps (fun x : Block × Val × Val => k.dev.Runs x.1.dev) _
    (fun x v h => Device.Runs.trans h (runs_voiceSample 3 x.1 l v t)) _ _ (.refl _)

theorem runs_sample (l : Fin 8) (b : Nat) (es : List Entry) (k : Block) (n : Nat) : k.dev.Runs (k.sample l b es n).dev := by
  rw [sample_eq]
  have prepared : k.dev.Runs (Block.prepared l b es k n).dev :=
    foldl_keeps (fun x : Block => k.dev.Runs x.dev) _ (fun x e h => h.trans (runs_apply x l (b + n) e)) _ _
      (foldl_keeps (fun x : Block => k.dev.Runs x.dev) _ (fun x v h => h.trans (runs_takeDue x l v (b + n))) _ _ (.refl _))
  exact (prepared.trans (runs_sumVoices ..)).trans (runs_updLane _ l Lane.stepMaster fun _ => .inl rfl)

theorem runs_retry (k : Block) (l : Fin 8) (v : Fin 4) : k.dev.Runs (k.retry l v).dev := by
  unfold Block.retry
  dsimp only
  split
  · split
    · exact .refl _
    · split
      · exact runs_setVoice ..
      · split
        · exact .refl _
        · exact runs_setVoice ..
  · exact .refl _

theorem runs_computeBlock (d : Device) (l : Fin 8) (es : List Entry) : d.Runs (d.computeBlock l es).dev := by
  unfold Device.computeBlock
  dsimp only
  refine foldl_keeps (fun x : Block => d.Runs x.dev) _ (fun x n h => h.trans (runs_sample l _ es x n)) _ _ ?_
  refine foldl_keeps (fun x : Block => d.Runs x.dev) _ (fun x v h => h.trans (runs_retry x l v)) _ _ ?_
  exact Device.Runs.trans (b := d.takeHot l) (runs_updLane d l _ fun _ => .inl rfl) (runs_updLane _ l Lane.settleMaster fun _ => .inl rfl)

/-! ## The lane's record as the boundary completes (R42) -/

/-- A lane with its compare value and its overrange count as in another. -/
def Lane.countedAs (x y : Lane) : Lane := { x with compare := y.compare, overrange := y.overrange }

theorem lane_compareTest (d : Device) (l : Fin 8) (b : Nat) :
    (d.compareTest l b).lane l = (d.lane l).countedAs ((d.compareTest l b).lane l) := by
  unfold Device.compareTest
  split
  · rfl
  · split
    · rw [lane_of_lanes (raise_lanes ..), lane_updLane_same]
      rfl
    · rfl

theorem lane_overrange (d : Device) (l : Fin 8) (saturated : Bool) :
    (d.overrange l saturated).lane l = (d.lane l).countedAs ((d.overrange l saturated).lane l) := by
  unfold Device.overrange
  split
  · rw [lane_of_lanes (raise_lanes ..), lane_updLane_same]
    rfl
  · rfl

/-- The port and lane time after a block that is not the last (R42, R52). -/
def Lane.ported (x : Lane) (out : List Sample) (time : Nat) : Lane := { x with carried := if x.quiet then [] else out, time := time }

theorem complete_eq {k : Block} {l : Fin 8} {b : Nat} (within : b + 64 < 281474976710656) :
    k.complete l b =
      let d := (k.handOffReaders (k.dev.updLane l (·.ported k.out (b + 64)))).compareTest l b
      (((d.meterBlock l (k.meterPowers (d.meter l).source)).wakeContexts l (b + 64)).raiseAll k.events).overrange l k.saturated := by
  have more : decide (Config.laneTimeEnd ≤ b + 64) = false := decide_eq_false (Nat.not_le.mpr within)
  unfold Block.complete
  dsimp only
  rw [more]
  rfl

theorem lane_complete {k : Block} {l : Fin 8} {b : Nat} (within : b + 64 < 281474976710656) :
    (k.complete l b).lane l = ((k.dev.lane l).ported k.out (b + 64)).countedAs ((k.complete l b).lane l) := by
  rw [complete_eq within]
  dsimp only
  generalize hd : k.handOffReaders (k.dev.updLane l (·.ported k.out (b + 64))) = d
  have handed : d.lane l = (k.dev.lane l).ported k.out (b + 64) := by
    rw [← hd, lane_of_lanes (handOffReaders_lanes ..), lane_updLane_same]
  have tested := lane_compareTest d l b
  generalize d.compareTest l b = e at tested ⊢
  have told (powers : List Val) :
      (((e.meterBlock l powers).wakeContexts l (b + 64)).raiseAll k.events).lane l = e.lane l :=
    lane_of_lanes ((raiseAll_lanes ((e.meterBlock l powers).wakeContexts l (b + 64)) k.events).trans (meterBlock_lanes e l powers)) l
  have ranged := lane_overrange (((e.meterBlock l (k.meterPowers (e.meter l).source)).wakeContexts l (b + 64)).raiseAll k.events) l
    k.saturated
  rw [told, tested, handed] at ranged
  exact ranged

end Sys2Proof.Machine
end

section
/-!
SUPPORT. The edges of lanes that are ARMED or FROZEN, the end of a meter's window, and the level of a power (R38, R49, R164 to R166).
-/
namespace Sys2Proof.Machine

/-! ## A lane that has computed a block (R41, R42) -/

/-- What the boundary leaves of a lane whose record before the block was `y`. -/
structure Lane.Ran (x y : Lane) (k : Block) (l : Fin 8) (time : Nat) : Prop where
  time : x.time = time
  startDue : x.startDue = y.startDue
  lastEdge : x.lastEdge = y.lastEdge
  schedule : x.schedule = y.schedule
  quiet : x.quiet = y.quiet
  state : x.state = (k.dev.lane l).state
  carried : x.carried = if x.quiet then [] else k.out

theorem ran_of_counted {x y : Lane} {k : Block} {l : Fin 8} {time : Nat} (played : k.dev.lane l = y.playedAs (k.dev.lane l))
    (h : x = ((k.dev.lane l).ported k.out time).countedAs x) : x.Ran y k l time := by
  generalize hz : k.dev.lane l = z at played h
  have quiet : x.quiet = z.quiet := (congrArg Lane.quiet h).trans rfl
  have kept : z.startDue = y.startDue ∧ z.lastEdge = y.lastEdge ∧ z.schedule = y.schedule ∧ z.quiet = y.quiet := by
    rw [played]
    exact ⟨rfl, rfl, rfl, rfl⟩
  obtain ⟨due, edge, schedule, flag⟩ := kept
  exact ⟨congrArg Lane.time h, (congrArg Lane.startDue h).trans due, (congrArg Lane.lastEdge h).trans edge,
    (congrArg Lane.schedule h).trans schedule, quiet.trans flag, by rw [hz]; exact (congrArg Lane.state h).trans rfl, by rw [quiet]; exact congrArg Lane.carried h⟩

theorem lane_ran (d : Device) (l : Fin 8) (y : Lane) (es : List Entry) {b : Nat} (within : b + 64 < 281474976710656) :
    ((((d.setLane l y).computeBlock l es).complete l b).lane l).Ran y ((d.setLane l y).computeBlock l es) l (b + 64) := by
  have played := (sounds_computeBlock (d.setLane l y) l es).1.lane l
  rw [lane_setLane_same] at played
  exact ran_of_counted played (lane_complete within)

theorem Lane.Ran.length_carried {x y : Lane} {k : Block} {l : Fin 8} {time : Nat} (h : x.Ran y k l time) (long : k.out.length = 64) :
    x.carried.length = if x.quiet then 0 else 64 := by
  rw [h.carried]
  split
  · rfl
  · exact long

/-! ## The first block of a lane (R38, R41) -/

theorem exec_laneStartsAtEdge (l : Fin 8) (s : State) :
    exec (.laneStartsAtEdge l) s = .next { s with dev := s.dev.startAtEdge l } := rfl

theorem exec_frozenEdge (l : Fin 8) (s : State) : exec (.frozenEdge l) s = .next { s with dev := s.dev.frozenEdge l } := rfl

theorem startAtEdge_eq {d : Device} {l : Fin 8} (ready : (d.domain (d.lane l).domain).state = .ready)
    (armed : (d.lane l).state = .armed) (due : (d.lane l).startDue = true) :
    d.startAtEdge l = ((d.takeEdge l).updLane l Lane.start).boundary l := if_pos ⟨decide_eq_true ready, armed, due⟩

theorem startAtEdge_steadies (d : Device) (l : Fin 8) :
    ({ d with now := d.nextEdge l } : Device).Steadies (((d.takeEdge l).updLane l Lane.start).boundary l) :=
  steadies_of_plays (((plays_takeEdge d l).trans (plays_updLane ..)).trans (plays_boundary ..))

/-- The record of a lane after its first block. -/
theorem lane_startAtEdge {d : Device} {l : Fin 8}
    (later : ∀ e ∈ (d.lane l).schedule, e.kind = .laneFreeze .hard → 0 < e.stamp) :
    let e := ((d.takeEdge l).updLane l Lane.start).boundary l
    ((e.lane l).state = .running ∨ (e.lane l).state = .freezing) ∧ (e.lane l).time = 64 ∧ (e.lane l).startDue = false ∧
      (e.lane l).carried.length = (if (e.lane l).quiet then 0 else 64) ∧ (e.lane l).lastEdge = d.nextEdge l := by
  have lane : ((d.takeEdge l).updLane l Lane.start).lane l = Lane.start { d.lane l with lastEdge := d.nextEdge l } := by
    rw [lane_updLane_same, takeEdge_eq, lane_setLane_same]
  generalize (d.takeEdge l).updLane l Lane.start = c at lane ⊢
  intro e
  have bounds := boundary_runs c l (by rw [lane]; exact fun h => LaneState.noConfusion h) (by rw [lane]; exact later)
  have time : (c.lane l).time = 0 := by rw [lane]; rfl
  rw [time] at bounds
  generalize hy : ({ (c.lane l).releaseQuiet with schedule := (c.lane l).schedule.dropWhile (·.takenBy 0) } : Lane) = y at bounds
  generalize (c.lane l).schedule.takeWhile (·.takenBy 0) = es at bounds
  have within : 0 + 64 < 281474976710656 := by decide
  have ran := lane_ran c l y es within
  have runs := (runs_computeBlock (c.setLane l y) l es).going (l := l) (by
    rw [lane_setLane_same, ← hy, releaseQuiet_eq, lane]
    exact .inl rfl)
  have long := (sounds_computeBlock (c.setLane l y) l es).2
  have record : y.startDue = false ∧ y.lastEdge = d.nextEdge l := by
    rw [← hy, releaseQuiet_eq, lane]
    exact ⟨rfl, rfl⟩
  rw [← bounds] at ran
  generalize (c.setLane l y).computeBlock l es = k at ran runs long
  rw [← ran.state] at runs
  exact ⟨runs, ran.time, ran.startDue.trans record.1, ran.length_carried long, ran.lastEdge.trans record.2⟩

/-! ## The end of a window (R164 to R166) -/

section
variable {d : Device} {l : Fin 8} (powers : List Val)

/-- A meter with a block's powers added up and its samples counted. -/
def Meter.counting (m : Meter) (powers : List Val) : Meter := { m with acc := powers.foldl addVal m.acc, counted := m.counted + 64 }

theorem meterBlock_of_idle (idle : (d.meter l).state = .idle) : d.meterBlock l powers = d := if_pos idle

theorem meterBlock_of_open (going : (d.meter l).state ≠ .idle) (room : (d.meter l).counted + 64 < 256 * 4 ^ (d.meter l).window) :
    d.meterBlock l powers = d.setMeter l ((d.meter l).counting powers) :=
  (if_neg going).trans (if_neg (Nat.not_le.mpr room))

theorem meterBlock_of_full (going : (d.meter l).state ≠ .idle) (full : 256 * 4 ^ (d.meter l).window ≤ (d.meter l).counted + 64) :
    d.meterBlock l powers = d.windowEnd l ((d.meter l).counting powers) :=
  (if_neg going).trans (if_pos full)

end

/-- A meter that has stored a level (R165). -/
def Meter.measured (m : Meter) (level : Int) (time : Nat) : Meter :=
  { m with
    acc := Val.zero, counted := 0, result := some (level, time), fresh := true
    state := if m.continuous then .measuring else .idle }

theorem windowEnd_of_measuring {d : Device} {l : Fin 8} {x : Meter} (h : x.state = .measuring) :
    d.windowEnd l x =
      (d.setMeter l (x.measured (levelOf x.acc (windowSize x.window)) (d.lane l).time)).raiseAll
        (meterEvents l x (levelOf x.acc (windowSize x.window))) := by
  unfold Device.windowEnd
  rw [h]
  rfl

theorem windowEnd_of_settling {d : Device} {l : Fin 8} {x : Meter} (h : x.state = .settling) :
    d.windowEnd l x = d.setMeter l { x with acc := Val.zero, counted := 0, state := .measuring } := by
  unfold Device.windowEnd
  rw [h]
  rfl

theorem raiseAll_meterEvents (d : Device) (l : Fin 8) (x : Meter) (level : Int) :
    d.raiseAll (meterEvents l x level) =
      if x.high < level ∧ x.result.any (fun r => x.high < r.1) = false then d.raise (srcMeterHigh l) 0
      else if level < x.low ∧ x.result.any (fun r => r.1 < x.low) = false then d.raise (srcMeterLow l) 0
      else d := by
  unfold meterEvents
  rcases x.result with _ | ⟨last, time⟩
  all_goals
    simp only [Option.any_none, Option.any_some, decide_eq_true_eq]
    split
    · rfl
    · split <;> rfl

/-! ## The level of a power (R165) -/

theorem pow_le_scaled {a b c : Nat} (pos : 0 < c) (m u v : Nat) :
    (a * c) ^ m * u ≤ (b * c) ^ m * v ↔ a ^ m * u ≤ b ^ m * v := by
  rw [Nat.mul_pow, Nat.mul_pow, Nat.mul_right_comm, Nat.mul_right_comm (b ^ m)]
  exact Nat.mul_le_mul_right_iff (Nat.pow_pos pos)

/-- A ratio reaches a level: a half hundredth below it or more. -/
def Reaches (n d : Nat) (k : Int) : Prop := d ^ 2000 * 10 ^ (2 * k - 1).toNat ≤ n ^ 2000 * 10 ^ (1 - 2 * k).toNat

theorem levelAtLeast_iff (n d : Nat) (k : Int) : levelAtLeast n d k = true ↔ Reaches n d k := by
  unfold levelAtLeast Reaches
  split
  · rw [show (2 * k - 1).toNat = 0 by omega, Nat.pow_zero, Nat.mul_one, decide_eq_true_eq]
  · rw [show (1 - 2 * k).toNat = 0 by omega, Nat.pow_zero, Nat.mul_one, decide_eq_true_eq]

theorem reaches_scaled {n d c : Nat} (pos : 0 < c) (k : Int) : Reaches (n * c) (d * c) k ↔ Reaches n d k := pow_le_scaled pos ..

theorem reaches_antitone {n d : Nat} {k m : Int} (h : Reaches n d k) (le : m ≤ k) : Reaches n d m := by
  unfold Reaches at *
  generalize 2000 = p at *
  generalize d ^ p = a at *
  generalize n ^ p = b at *
  rcases Int.lt_or_le (2 * k - 1) 0 with low | high
  · rw [show (2 * k - 1).toNat = 0 by omega, Nat.pow_zero, Nat.mul_one] at h
    rw [show (2 * m - 1).toNat = 0 by omega, Nat.pow_zero, Nat.mul_one]
    exact Nat.le_trans h (Nat.mul_le_mul_left _ (Nat.pow_le_pow_right (by decide) (by omega)))
  · rw [show (1 - 2 * k).toNat = 0 by omega, Nat.pow_zero, Nat.mul_one] at h
    calc a * 10 ^ (2 * m - 1).toNat ≤ a * 10 ^ (2 * k - 1).toNat :=
          Nat.mul_le_mul_left _ (Nat.pow_le_pow_right (by decide) (by omega))
      _ ≤ b := h
      _ ≤ b * 10 ^ (1 - 2 * m).toNat := Nat.le_mul_of_pos_right _ (Nat.pow_pos (by decide))

/-- What the search finds: the greatest level of its range that is reached, or the lowest of all. -/
theorem levelSearch_spec (n d : Nat) (b : Nat) (low : Int) :
    low ≤ levelSearch n d b low ∧ levelSearch n d b low < low + 2 ^ b ∧
      (levelSearch n d b low = low ∨ Reaches n d (levelSearch n d b low)) ∧
      ∀ higher, levelSearch n d b low < higher → higher < low + 2 ^ b → ¬ Reaches n d higher := by
  induction b generalizing low with
  | zero =>
    rw [Int.pow_zero]
    refine ⟨Int.le_refl low, Int.lt_add_of_pos_right low (by decide), .inl rfl, fun higher above below => ?_⟩
    have above : low < higher := above
    omega
  | succ b ih =>
    have half : (2 : Int) ^ (b + 1) = 2 ^ b + 2 ^ b := by rw [Int.pow_succ]; omega
    have pos : (0 : Int) < 2 ^ b := Int.pow_pos (by decide)
    unfold levelSearch
    by_cases reached : levelAtLeast n d (low + 2 ^ b) = true
    · rw [if_pos reached]
      obtain ⟨least, most, found, rest⟩ := ih (low + 2 ^ b)
      refine ⟨by omega, by omega, .inr ?_, fun higher above below => rest higher above (by omega)⟩
      rcases found with same | reaches
      · rw [same]
        exact (levelAtLeast_iff ..).mp reached
      · exact reaches
    · rw [if_neg reached]
      obtain ⟨least, most, found, rest⟩ := ih low
      refine ⟨least, by omega, found, fun higher above below => ?_⟩
      by_cases near : higher < low + 2 ^ b
      · exact rest higher above near
      · exact fun reaches => reached ((levelAtLeast_iff ..).mpr (reaches_antitone reaches (by omega)))

theorem levelOfRat_eq {n d : Nat} (pos : 0 < n) : levelOfRat n d = levelSearch (n / n.gcd d) (d / n.gcd d) 14 (-12000) :=
  if_neg (by omega)

/-- A level of a power is that of the ratio in lowest terms. -/
theorem levelOfRat_spec {n d : Nat} (pos : 0 < n) :
    -12000 ≤ levelOfRat n d ∧ levelOfRat n d ≤ 4383 ∧ (levelOfRat n d = -12000 ∨ Reaches n d (levelOfRat n d)) ∧
      ∀ higher, levelOfRat n d < higher → higher ≤ 4383 → ¬ Reaches n d higher := by
  have common : 0 < n.gcd d := Nat.gcd_pos_of_pos_left d pos
  have lowest (k : Int) : Reaches (n / n.gcd d) (d / n.gcd d) k ↔ Reaches n d k := by
    rw [← reaches_scaled common k, Nat.div_mul_cancel (Nat.gcd_dvd_left n d), Nat.div_mul_cancel (Nat.gcd_dvd_right n d)]
  obtain ⟨least, most, found, rest⟩ := levelSearch_spec (n / n.gcd d) (d / n.gcd d) 14 (-12000)
  rw [levelOfRat_eq pos]
  have range : (-12000 : Int) + 2 ^ 14 = 4384 := by decide
  rw [range] at most rest
  refine ⟨least, by omega, found.imp_right (lowest _).mp, fun higher above below reaches => ?_⟩
  exact rest higher above (by omega) ((lowest _).mpr reaches)

/-- The enclosure of a power without roots is the power. -/
theorem valBounds_of_whole (bits den : Nat) (n : Int) :
    valBounds bits { den := den, terms := [{ root := 0, angle := 0, num := n }] } =
      (n * (2 ^ bits * 2 ^ bits : Nat), n * (2 ^ bits * 2 ^ bits : Nat)) := by
  have bounds : termBounds bits { root := 0, angle := 0, num := n } = (2 ^ bits * 2 ^ bits, 2 ^ bits * 2 ^ bits) := rfl
  unfold valBounds
  rw [List.foldl_cons, List.foldl_nil, bounds]
  simp only [Int.zero_add, ite_self]

theorem levelOf_of_whole (n den window : Nat) :
    levelOf { den := den, terms := [{ root := 0, angle := 0, num := n }] } window =
      levelOfRat (n * (2 ^ 64 * 2 ^ 64)) (den * 2 ^ (2 * 64) * (window * 32767 ^ 2)) := by
  unfold levelOf
  dsimp only
  unfold refinements
  rw [Nat.add_comm 64]
  unfold levelFrom
  rw [valBounds_of_whole]
  dsimp only
  rw [if_pos rfl, ← Int.natCast_mul, Int.toNat_natCast]

/-- Settles O25: the first block, the edge of a FROZEN lane, the window and the search for the level. -/
theorem edgesOfArmedAndFrozenLanes : Obligations.EdgesOfArmedAndFrozenLanes := by
  unfold Obligations.EdgesOfArmedAndFrozenLanes
  refine ⟨?armed, ?frozen, ?window, fun den window => rfl, ?level⟩
  case armed =>
    intro s l x ready armed due later
    have out : exec (.laneStartsAtEdge l) s = .next { s with dev := ((s.dev.takeEdge l).updLane l Lane.start).boundary l } := by
      rw [exec_laneStartsAtEdge, startAtEdge_eq ready armed due]
    obtain ⟨state, time, started, carried, edge⟩ := lane_startAtEdge later
    exact ⟨_, _, (isNextEdge_iff ..).mpr rfl, out, state, time, started, carried, edge, startAtEdge_steadies s.dev l⟩
  case frozen =>
    intro s l x
    have out {d : Device} (h : s.dev.frozenEdge l = d) : exec (.frozenEdge l) s = .next { s with dev := d } := by
      rw [exec_frozenEdge, h]
    refine ⟨fun _ clear => out (if_neg fun edge => ?_), fun edge ready frozen meters next => out ?_⟩
    · exact Bool.noConfusion (clear.symm.trans edge.2.2)
    · rw [(isNextEdge_iff ..).mp next, ← takeEdge_eq_atEdge]
      exact if_pos ⟨decide_eq_true ready, frozen, meters⟩
  case window =>
    intro d l powers m stores window acc empty counting settled level measured wasHigh wasLow
    refine ⟨meterBlock_of_idle powers, meterBlock_of_open powers, fun settling full => ?_, fun measuring full => ?_⟩
    · have going : m.state ≠ .idle := by rw [settling]; decide
      exact (meterBlock_of_full powers going full).trans (windowEnd_of_settling settling)
    · have going : m.state ≠ .idle := by rw [measuring]; decide
      have counted : (m.counting powers).state = .measuring := measuring
      rw [meterBlock_of_full powers going full, windowEnd_of_measuring counted, raiseAll_meterEvents]
      rfl
  case level =>
    intro n den window some_power den_pos window_pos full reached level
    have pos : 0 < 2 ^ 64 * 2 ^ 64 := by decide
    obtain ⟨least, most, found, rest⟩ := levelOfRat_spec (n := n * (2 ^ 64 * 2 ^ 64)) (d := den * 2 ^ (2 * 64) * (window * 32767 ^ 2))
      (Nat.mul_pos some_power pos)
    rw [← levelOf_of_whole] at least most found rest
    have ratio : den * 2 ^ (2 * 64) * (window * 32767 ^ 2) = full * (2 ^ 64 * 2 ^ 64) := by
      rw [show (2 : Nat) ^ (2 * 64) = 2 ^ 64 * 2 ^ 64 by decide]
      exact Nat.mul_right_comm ..
    have same (k : Int) : Reaches (n * (2 ^ 64 * 2 ^ 64)) (den * 2 ^ (2 * 64) * (window * 32767 ^ 2)) k ↔ reached k := by
      rw [ratio]
      exact reaches_scaled pos k
    exact ⟨most, least, found.imp_right (same _).mp, fun higher above below reaches => rest higher above below ((same _).mpr reaches)⟩

end Sys2Proof.Machine
end

section
/-!
SUPPORT. A boundary that computes a block: its parts, and what it leaves of its lane (R31, R32, R41 to R44, R52, R53).
-/
namespace Sys2Proof.Machine

/-! ## The hand-offs that complete a boundary (R42, R44, R53) -/

theorem complete_eq_last {k : Block} {l : Fin 8} {b : Nat} (last : 281474976710656 ≤ b + 64) :
    k.complete l b =
      let d := (k.handOffReaders (k.dev.updLane l fun x => x.ported k.out x.time)).compareTest l b
      ((((d.meterBlock l (k.meterPowers (d.meter l).source))).raiseAll k.events).overrange l k.saturated).stopLane l := by
  have ends : decide (Config.laneTimeEnd ≤ b + 64) = true := decide_eq_true last
  unfold Block.complete
  dsimp only
  rw [ends]
  simp only [if_true]
  rfl

/-- After the last block the lane is STOPPED (R32, R45). -/
theorem lane_complete_last {k : Block} {l : Fin 8} {b : Nat} (last : 281474976710656 ≤ b + 64) :
    ((k.complete l b).lane l).state = .stopped ∧ ((k.complete l b).lane l).time = 0 ∧ ((k.complete l b).lane l).schedule = [] ∧
      ((k.complete l b).lane l).carried = [] ∧ ((k.complete l b).lane l).lastEdge = (k.dev.lane l).lastEdge := by
  rw [complete_eq_last last]
  dsimp only
  generalize hd : k.handOffReaders (k.dev.updLane l fun x => x.ported k.out x.time) = d
  have handed : (d.lane l).lastEdge = (k.dev.lane l).lastEdge := by
    rw [← hd, lane_of_lanes (handOffReaders_lanes ..), lane_updLane_same]
    rfl
  have tested := congrArg Lane.lastEdge (lane_compareTest d l b)
  generalize d.compareTest l b = e at tested ⊢
  have told := lane_of_lanes ((raiseAll_lanes (e.meterBlock l (k.meterPowers (e.meter l).source)) k.events).trans
    (meterBlock_lanes e l _)) l
  generalize (e.meterBlock l (k.meterPowers (e.meter l).source)).raiseAll k.events = f at told ⊢
  have ranged := congrArg Lane.lastEdge (lane_overrange f l k.saturated)
  generalize f.overrange l k.saturated = g at ranged ⊢
  have stopped : ((g.stopVoices l).lane l).lastEdge = (g.lane l).lastEdge := by rw [lane_stopVoices_same]
  rw [lane_stopLane_same]
  generalize (g.stopVoices l).lane l = z at stopped ⊢
  refine ⟨rfl, rfl, rfl, rfl, ?_⟩
  calc z.stopped.lastEdge = (g.lane l).lastEdge := stopped
    _ = (f.lane l).lastEdge := ranged
    _ = (d.lane l).lastEdge := (congrArg Lane.lastEdge told).trans tested
    _ = (k.dev.lane l).lastEdge := handed

theorem compareTest_of_none {d : Device} {l : Fin 8} (h : (d.lane l).compare = none) (b : Nat) : d.compareTest l b = d := by
  rw [Device.compareTest, h]

theorem compareTest_of_some {d : Device} {l : Fin 8} {c : Nat} (h : (d.lane l).compare = some c) (b : Nat) :
    d.compareTest l b = if c ≤ b + 63 then (d.setLane l { d.lane l with compare := none }).raise (srcLaneCompare l) 0 else d := by
  rw [Device.compareTest, h]
  rfl

/-! ## The output of a sample (R43) -/

theorem saturate_eq (n : Int) : saturate n = (max (-32768) (min 32767 n), !(decide (-32768 ≤ n) && decide (n ≤ 32767))) := by
  unfold saturate
  split
  · exact Prod.ext (by dsimp only; omega) (by simp; omega)
  · split
    · exact Prod.ext (by dsimp only; omega) (by simp; omega)
    · exact Prod.ext (by dsimp only; omega) (by simp; omega)

theorem roundRat_scaled (n : Int) (d : Nat) {c : Nat} (pos : 0 < c) : roundRat (n * c) (d * c) = roundRat n d := by
  have quotient : (2 * (n * (c : Int)).natAbs + d * c) / (2 * (d * c)) = (2 * n.natAbs + d) / (2 * d) := by
    rw [Int.natAbs_mul, Int.natAbs_natCast, ← Nat.mul_assoc, ← Nat.mul_assoc, ← Nat.add_mul, Nat.mul_div_mul_right _ _ pos]
  have sign : n * (c : Int) < 0 ↔ n < 0 := by
    have positive : (0 : Int) < c := by omega
    exact ⟨fun h => Int.neg_of_mul_neg_left h positive, fun h => Int.mul_neg_of_neg_of_pos h positive⟩
  unfold roundRat
  rw [quotient]
  simp only [sign]

/-- A value without roots rounds as its ratio does. -/
theorem roundVal_of_whole (n : Int) (d : Nat) :
    roundVal { den := d, terms := [{ root := 0, angle := 0, num := n }] } = roundRat n d := by
  have power : (2 : Nat) ^ (2 * 64) = 2 ^ 64 * 2 ^ 64 := Nat.pow_add 2 64 64
  have unit : 0 < 2 ^ 64 * 2 ^ 64 := by decide
  unfold roundVal refinements
  dsimp only
  rw [Nat.add_comm 64]
  unfold roundFrom
  rw [valBounds_of_whole]
  dsimp only
  rw [if_pos rfl, power, roundRat_scaled n d unit]

/-! ## One sample of the lane (R41, R43) -/

theorem entriesAt_eq (es : List Entry) (b n : Nat) :
    entriesAt es b (b + n) = es.filter fun e => decide (e.stamp = b + n) || decide (n = 0) && decide (e.stamp < b) := by
  have first : (b + n = b) ↔ n = 0 := by omega
  unfold entriesAt
  simp only [first]

theorem prepared_eq (l : Fin 8) (b : Nat) (es : List Entry) (k : Block) (n : Nat) :
    Block.prepared l b es k n =
      (es.filter fun e => decide (e.stamp = b + n) || decide (n = 0) && decide (e.stamp < b)).foldl (fun k e => k.apply l (b + n) e)
        ((List.finRange 4).foldl (fun k v => k.takeDue l v (b + n)) k) := by
  rw [← entriesAt_eq]
  rfl

/-! ## A lane without sound (R43) -/

/-- A voice that has nothing to play. -/
def Voice.Rests (x : Voice) : Prop := x.state = .idle ∧ x.current = none ∧ x.due = .none

/-- A lane of which no voice has anything to play, with zeros put out so far. -/
structure Block.Rests (l : Fin 8) (n : Nat) (k : Block) : Prop where
  voices : ∀ v, (k.dev.voice l v).Rests
  out : k.out = List.replicate n { i := 0, q := 0 }

theorem takeDue_of_none {k : Block} {l : Fin 8} {v : Fin 4} (h : (k.dev.voice l v).due = .none) (t : Nat) : k.takeDue l v t = k := by
  rw [Block.takeDue, h]

theorem takeDues_of_none {k : Block} {l : Fin 8} (h : ∀ v, (k.dev.voice l v).due = .none) (t : Nat) (vs : List (Fin 4)) :
    vs.foldl (fun k v => k.takeDue l v t) k = k := by
  induction vs with
  | nil => rfl
  | cons v vs ih => rw [List.foldl_cons, takeDue_of_none (h v), ih]

theorem voiceSample_of_none {k : Block} {l : Fin 8} {v : Fin 4} (h : (k.dev.voice l v).current = none) (t : Nat) :
    Block.voiceSample 3 k l v t = (k, Contribution.zero) := by
  unfold Block.voiceSample
  dsimp only
  rw [h]

theorem terms_mulVal_of_nil {a : Val} (h : a.terms = []) (b : Val) : (mulVal a b).terms = [] := by
  unfold mulVal reduce
  rw [h]
  dsimp only [List.flatMap_nil, List.foldr_nil, List.foldl_nil]
  split <;> rfl

theorem output_zero (x : Lane) : x.output Val.zero Val.zero = ({ i := 0, q := 0 }, false) := by
  have rounds : roundVal (mulVal (mulVal Val.zero x.ampNow) (gainAmplitude x.trim)) = 0 := by
    unfold roundVal
    rw [terms_mulVal_of_nil (terms_mulVal_of_nil rfl _)]
  unfold Lane.output
  dsimp only
  rw [rounds]
  rfl

/-- Voices that rest add nothing. -/
theorem sumVoices_of_rests {k : Block} {l : Fin 8} (h : ∀ v, (k.dev.voice l v).Rests) (t : Nat) :
    ∃ powers, k.sumVoices l t = ({ k with powers := powers }, Val.zero, Val.zero) := by
  rw [sumVoices_eq]
  generalize List.finRange 4 = vs
  suffices ∀ p, ∃ powers, vs.foldl (Block.addVoice l t) ({ k with powers := p }, Val.zero, Val.zero) =
      ({ k with powers := powers }, Val.zero, Val.zero) from this k.powers
  induction vs with
  | nil => exact fun p => ⟨p, rfl⟩
  | cons v vs ih =>
    intro p
    have silent : Block.voiceSample 3 { k with powers := p } l v t = ({ k with powers := p }, Contribution.zero) :=
      voiceSample_of_none (k := { k with powers := p }) (h v).2.1 t
    rw [List.foldl_cons]
    unfold Block.addVoice at ih ⊢
    dsimp only at ih ⊢
    rw [silent]
    exact ih _

theorem rests_sample {l : Fin 8} {n : Nat} {k : Block} (h : k.Rests l n) (b m : Nat) : (k.sample l b [] m).Rests l (n + 1) := by
  have prepared : Block.prepared l b [] k m = k := by
    unfold Block.prepared
    rw [takeDues_of_none fun v => (h.voices v).2.2]
    rfl
  obtain ⟨powers, sum⟩ := sumVoices_of_rests h.voices (b + m)
  rw [sample_eq, prepared, sum]
  dsimp only
  rw [output_zero]
  refine ⟨fun v => ?_, ?_⟩
  · have voice : (k.dev.updLane l Lane.stepMaster).voice l v = k.dev.voice l v := by
      rw [Device.voice, lane_updLane_same]
      rfl
    rw [voice]
    exact h.voices v
  · rw [h.out, List.replicate_succ']

theorem rests_samples {l : Fin 8} (ns : List Nat) {n : Nat} {k : Block} (h : k.Rests l n) (b : Nat) :
    (ns.foldl (Block.sample l b []) k).Rests l (n + ns.length) := by
  induction ns generalizing n k with
  | nil => exact h
  | cons m ns ih =>
    rw [List.foldl_cons, List.length_cons, Nat.add_comm ns.length, ← Nat.add_assoc]
    exact ih (rests_sample h b m)

theorem retry_of_state {k : Block} {l : Fin 8} {v : Fin 4} (h : (k.dev.voice l v).state ≠ .stalled) : k.retry l v = k := if_neg h

theorem retries_of_state {k : Block} {l : Fin 8} (h : ∀ v, (k.dev.voice l v).state ≠ .stalled) (vs : List (Fin 4)) :
    vs.foldl (fun k v => k.retry l v) k = k := by
  induction vs with
  | nil => rfl
  | cons v vs ih => rw [List.foldl_cons, retry_of_state (h v), ih]

/-- The voices of a lane as the block takes the hot fields. -/
theorem voice_takeHot_of_none {d : Device} {l : Fin 8} {v : Fin 4} (h : (d.voice l v).current = none) :
    (d.takeHot l).voice l v = d.voice l v := by
  unfold Device.takeHot
  rw [Device.voice, lane_updLane_same, get_map]
  change (match (d.voice l v).current with
    | none => d.voice l v
    | some g => (d.voice l v).takeHot (d.segment g)) = _
  rw [h]

theorem voice_settleMaster (d : Device) (l : Fin 8) (v : Fin 4) : (d.updLane l Lane.settleMaster).voice l v = d.voice l v := by
  rw [Device.voice, lane_updLane_same]
  rfl

/-- A block in its parts: the hot fields and the master's ramp, the STALLED voices, and 64 samples. -/
theorem computeBlock_eq (d : Device) (l : Fin 8) (es : List Entry) :
    d.computeBlock l es = (List.range 64).foldl (Block.sample l (d.lane l).time es)
      ((List.finRange 4).foldl (fun k v => k.retry l v) (Block.start ((d.takeHot l).updLane l Lane.settleMaster) l)) := rfl

theorem computeBlock_of_rests {d : Device} {l : Fin 8} (h : ∀ v, (d.voice l v).Rests) :
    (d.computeBlock l []).out = List.replicate 64 { i := 0, q := 0 } := by
  have voices (v : Fin 4) : (((d.takeHot l).updLane l Lane.settleMaster).voice l v).Rests := by
    rw [voice_settleMaster, voice_takeHot_of_none (h v).2.1]
    exact h v
  generalize hs : (d.takeHot l).updLane l Lane.settleMaster = e at voices
  have tried : (List.finRange 4).foldl (fun k v => k.retry l v) (Block.start e l) = Block.start e l :=
    retries_of_state (fun v => by
      have idle : ((Block.start e l).dev.voice l v).state = .idle := (voices v).1
      rw [idle]
      decide) _
  have start : (Block.start e l).Rests l 0 := ⟨voices, rfl⟩
  rw [computeBlock_eq, hs, tried]
  have length := List.length_range (n := 64)
  generalize List.range 64 = ns at length
  have done := (rests_samples ns start (d.lane l).time).out
  rwa [length, Nat.zero_add] at done

end Sys2Proof.Machine
end

section
/-!
SUPPORT. The boundary that computes a block, settled (R31 to R33, R41 to R44, R51 to R53, R144, R164).
-/
namespace Sys2Proof.Machine

/-- The lane that goes on at its boundary: RUNNING, or FREEZING with its ramp still to run. -/
def Lane.playsOn (x : Lane) : Prop := x.state = .running ∨ x.state = .freezing ∧ x.rampLeft ≠ 0

theorem Lane.playsOn.going {x : Lane} (h : x.playsOn) : x.state = .running ∨ x.state = .freezing := h.imp_right And.left

theorem Lane.playsOn.ramping {x : Lane} (h : x.playsOn) (freezing : x.state = .freezing) : x.rampLeft ≠ 0 :=
  h.elim (fun running => absurd (running.symm.trans freezing) LaneState.noConfusion) And.right

/-- A lane's record as its boundary begins a block: quiet released, and the entries of the block taken. -/
def Lane.begun (x : Lane) (edge : Nat) : Lane :=
  { x.releaseQuiet with schedule := x.schedule.dropWhile (·.takenBy x.time), lastEdge := edge }

/-- A boundary with no hard freeze due: a block of the entries taken, at the lane's next edge. -/
theorem blockBoundary_runs {d : Device} {l : Fin 8} (ready : (d.domain (d.lane l).domain).state = .ready) (plays : (d.lane l).playsOn)
    (later : ∀ e ∈ (d.lane l).schedule, e.kind = .laneFreeze .hard → (d.lane l).time < e.stamp) :
    d.blockBoundary l =
      ((({ d with now := d.nextEdge l } : Device).setLane l ((d.lane l).begun (d.nextEdge l))).computeBlock l
        ((d.lane l).schedule.takeWhile (·.takenBy (d.lane l).time))).complete l (d.lane l).time := by
  have lane : (d.takeEdge l).lane l = { d.lane l with lastEdge := d.nextEdge l } := by rw [takeEdge_eq, lane_setLane_same]
  have released : ({ d.lane l with lastEdge := d.nextEdge l } : Lane).releaseQuiet =
      { (d.lane l).releaseQuiet with lastEdge := d.nextEdge l } := by
    unfold Lane.releaseQuiet
    split <;> rfl
  rw [blockBoundary_of_edges ready plays.going,
    boundary_runs _ l (by rw [lane]; exact plays.ramping) (by rw [lane]; exact later), lane, released, takeEdge_eq, setLane_setLane]
  rfl

theorem blockBoundary_steadies {d : Device} {l : Fin 8} (ready : (d.domain (d.lane l).domain).state = .ready)
    (going : (d.lane l).state = .running ∨ (d.lane l).state = .freezing) :
    ({ d with now := d.nextEdge l } : Device).Steadies (d.blockBoundary l) := by
  rw [blockBoundary_of_edges ready going]
  exact steadies_of_plays ((plays_takeEdge d l).trans (plays_boundary ..))

theorem takenBy_eq (b : Nat) : (fun e : Entry => e.takenBy b) = fun e => decide (e.stamp < b + 64) && decide (e.kind ≠ .laneFreeze .hard) := by
  funext e
  rfl

/-- Quiet is released where its release waits and no voice sounds. -/
theorem releaseQuiet_iff (x : Lane) :
    x.quietPendingOff = true ∧ x.voices.toList.all (fun v => !v.sounds) = true ↔
      x.quietPendingOff = true ∧ ∀ v, (x.voices.get v).state ≠ .playing ∧ (x.voices.get v).state ≠ .stalled ∧
        (x.voices.get v).state ≠ .fading := by
  refine and_congr_right fun _ => ?_
  have four : x.voices.toList = [x.voices.get 0, x.voices.get 1, x.voices.get 2, x.voices.get 3] := toList_four x.voices
  rw [four, Fin.forall_fin_succ, Fin.forall_fin_succ, Fin.forall_fin_succ, Fin.forall_fin_succ]
  simp [Voice.sounds, and_assoc]

/-- The power of the voice that the meter measures, voice by voice. -/
theorem sumVoices_four (k : Block) (l : Fin 8) (t : Nat) :
    k.sumVoices l t = Block.addVoice l t (Block.addVoice l t (Block.addVoice l t (Block.addVoice l t (k, Val.zero, Val.zero) 0) 1) 2) 3 := by
  have four : List.finRange 4 = [0, 1, 2, 3] := by decide
  rw [sumVoices_eq, four]
  simp only [List.foldl_cons, List.foldl_nil]

/-- The output of one component, rounded and saturated. -/
theorem output_eq (x : Lane) (i q : Val) :
    let component (a : Val) : Int := roundVal (mulVal (mulVal a x.ampNow) (gainAmplitude x.trim))
    let within (n : Int) : Bool := decide (-32768 ≤ n) && decide (n ≤ 32767)
    x.output i q =
      ({ i := max (-32768) (min 32767 (component i)), q := max (-32768) (min 32767 (component q)) },
        !(within (component i) && within (component q))) := by
  intro component within
  unfold Lane.output
  dsimp only
  rw [saturate_eq, saturate_eq]
  exact congrArg (Prod.mk _) (Bool.not_and ..).symm

theorem roundRat_eq (n : Int) (d : Nat) :
    roundRat n d = if n < 0 then -(((2 * n.natAbs + d) / (2 * d) : Nat) : Int) else (((2 * n.natAbs + d) / (2 * d) : Nat) : Int) := rfl

/-- Settles O22: the block at the boundary, its samples, their sum and rounding, and the hand-offs. -/
theorem boundaryComputesABlock : Obligations.BoundaryComputesABlock := by
  unfold Obligations.BoundaryComputesABlock
  refine ⟨?record, ?silence, ?block, ?sample, ?sum, fun k v => ⟨rfl, rfl, rfl⟩, ?output, ?rounding, ?completed, ?tests⟩
  case record =>
    intro s l x ready plays later
    have bounds := blockBoundary_runs ready plays later
    have steadies := blockBoundary_steadies ready (Lane.playsOn.going plays)
    have next : isNextEdge s.dev l (s.dev.nextEdge l) := (isNextEdge_iff ..).mpr rfl
    refine ⟨_, _, next, exec_blockBoundary l s, steadies, ?_⟩
    generalize s.dev.nextEdge l = edge at bounds
    generalize ({ s.dev with now := edge } : Device) = d at bounds
    have written : (x.begun edge).schedule = x.schedule.dropWhile (·.takenBy x.time) ∧ (x.begun edge).lastEdge = edge := ⟨rfl, rfl⟩
    change s.dev.blockBoundary l = ((d.setLane l (x.begun edge)).computeBlock l (x.schedule.takeWhile (·.takenBy x.time))).complete l x.time
      at bounds
    rw [bounds]
    rw [takenBy_eq] at written
    generalize x.begun edge = y at written
    generalize x.schedule.takeWhile (·.takenBy x.time) = es
    by_cases within : x.time + 64 < 281474976710656
    · have ran := lane_ran d l y es within
      have long := (sounds_computeBlock (d.setLane l y) l es).2
      generalize (d.setLane l y).computeBlock l es = k at ran long
      exact ⟨ran.lastEdge.trans written.2, fun _ => ⟨ran.time, ran.schedule.trans written.1, ran.length_carried long⟩,
        fun last => absurd last (Nat.not_le.mpr within)⟩
    · have last := Nat.not_lt.mp within
      have played := (sounds_computeBlock (d.setLane l y) l es).1.lane l
      rw [lane_setLane_same] at played
      generalize (d.setLane l y).computeBlock l es = k at played
      obtain ⟨state, time, schedule, carried, taken⟩ := lane_complete_last (k := k) (l := l) last
      have kept : (k.dev.lane l).lastEdge = y.lastEdge := by rw [played]; rfl
      exact ⟨taken.trans (kept.trans written.2), fun now => absurd now within, fun _ => ⟨state, time, schedule, carried⟩⟩
  case silence =>
    intro s l x ready running within empty quiet rests
    have bounds := blockBoundary_runs (d := s.dev) (l := l) ready (.inl running) (by
      intro e member
      rw [show (s.dev.lane l).schedule = [] from empty] at member
      exact absurd member List.not_mem_nil)
    refine ⟨_, exec_blockBoundary l s, ?_⟩
    generalize s.dev.nextEdge l = edge at bounds
    generalize hd : ({ s.dev with now := edge } : Device) = d at bounds
    change s.dev.blockBoundary l = ((d.setLane l (x.begun edge)).computeBlock l (x.schedule.takeWhile (·.takenBy x.time))).complete l x.time
      at bounds
    rw [empty, List.takeWhile_nil] at bounds
    have voices : (x.begun edge).voices = x.voices := by rw [Lane.begun, releaseQuiet_eq]
    have silent : (x.begun edge).quiet = false := by
      unfold Lane.begun Lane.releaseQuiet
      dsimp only
      split
      · rfl
      · exact quiet
    have still (v : Fin 4) : ((d.setLane l (x.begun edge)).voice l v).Rests := by
      rw [Device.voice, lane_setLane_same, voices]
      exact ⟨(rests v).1, (rests v).2.1, (rests v).2.2.2⟩
    have ran := lane_ran d l (x.begun edge) [] within
    have zeros := computeBlock_of_rests still
    rw [← bounds] at ran
    rw [ran.carried, ran.quiet, silent, zeros]
    rfl
  case block =>
    intro s l edge x ready plays later next now released y
    have bounds := blockBoundary_runs ready plays later
    rw [← (isNextEdge_iff ..).mp next] at bounds
    have begins : x.begun edge = { y with lastEdge := edge } := by
      have iff := releaseQuiet_iff x
      unfold Lane.begun Lane.releaseQuiet
      by_cases h : released
      · rw [if_pos (iff.mpr h)]
        simp only [y, if_pos h]
        rfl
      · rw [if_neg fun all => h (iff.mp all)]
        simp only [y, if_neg h]
        rfl
    rw [exec_blockBoundary, bounds]
    change Host.Outcome.next { s with dev := ((({ s.dev with now := edge } : Device).setLane l (x.begun edge)).computeBlock l _).complete l _ } = _
    rw [begins]
    rfl
  case sample =>
    intro k l b n taken t here ready summed output x stepped
    have works := (works_prepared l b taken k n).trans (works_sumVoices (Block.prepared l b taken k n) l (b + n))
    have prepared : Block.prepared l b taken k n = (taken.filter here).foldl (fun k e => k.apply l t e) ready := prepared_eq ..
    have sums : (Block.prepared l b taken k n).sumVoices l (b + n) = summed := by rw [prepared]
    have sampled := sample_eq l b taken k n
    rw [sums] at works sampled
    clear_value summed
    have steps : (summed.1.dev.lane l).stepMaster = stepped := stepMaster_eq _
    rw [sampled]
    exact ⟨rfl, works.out, rfl, works.saturated, rfl, rfl, rfl, rfl, rfl, congrArg (summed.1.dev.setLane l) steps⟩
  case sum =>
    intro k l t voice
    have same (a : Block × Val × Val) (v : Fin 4) : Block.addVoice l t a v = voice a v := rfl
    rw [sumVoices_four, same, same, same, same]
  case output =>
    intro x i q component within
    rw [output_eq]
    exact ⟨rfl, rfl⟩
  case rounding =>
    intro n d some_value pos nearest
    rw [roundVal_of_whole, roundRat_eq]
    simp only [nearest]
    push_cast
    rfl
  case completed =>
    intro k l b ported tested told
    exact ⟨complete_eq, complete_eq_last⟩
  case tests =>
    intro d l b x matched counted
    refine ⟨fun absent => compareTest_of_none absent b, fun c present => compareTest_of_some present b, rfl, rfl, ?_⟩
    refine congrArg (fun wake : Context → Context => { d with cue := { d.cue with stack := d.cue.stack.map wake } }) (funext fun c => ?_)
    unfold Context.wake
    cases c.state <;> rfl

end Sys2Proof.Machine
end

section
/-!
SUPPORT. The voices of a block: the hot fields, one sample of a voice without a reader, and what is due (R7, R18 to R22, R24, R27).
-/
namespace Sys2Proof.Machine

/-! ## The hot fields (R7) -/

theorem voice_takeHot_of_some {d : Device} {l : Fin 8} {v : Fin 4} {g : Fin 1024} (h : (d.voice l v).current = some g) :
    (d.takeHot l).voice l v = (d.voice l v).takeHot (d.segment g) := by
  unfold Device.takeHot
  rw [Device.voice, lane_updLane_same, get_map]
  change (match (d.voice l v).current with
    | none => d.voice l v
    | some g => (d.voice l v).takeHot (d.segment g)) = _
  rw [h]

theorem takeHot_of_none {x : Voice} (h : x.hot = none) (seg : Segment) : x.takeHot seg = x := by
  rw [Voice.takeHot, h]

/-- The new hot copy of a voice, with the step of its shift. -/
def Voice.copies (x : Voice) (old new : Hot) : Voice :=
  { x with hot := some new, step := if old.shift = new.shift then x.step else new.shift }

theorem takeHot_of_turned {x : Voice} {old : Hot} {seg : Segment} (h : x.hot = some old)
    (turned : old.gain ≠ seg.hot.gain ∧ x.gainOverride = false) :
    x.takeHot seg = (x.rampTo (gainAmplitude seg.hot.gain) seg.fixed.ramp).copies old seg.hot := by
  have keeps : ¬ (old.gain = seg.hot.gain ∨ x.gainOverride = true) := by
    rintro (same | own)
    · exact turned.1 same
    · exact Bool.noConfusion (turned.2.symm.trans own)
  rw [Voice.takeHot, h]
  dsimp only
  rw [if_neg keeps]
  rfl

theorem takeHot_of_kept {x : Voice} {old : Hot} {seg : Segment} (h : x.hot = some old)
    (kept : ¬ (old.gain ≠ seg.hot.gain ∧ x.gainOverride = false)) : x.takeHot seg = x.copies old seg.hot := by
  have keeps : old.gain = seg.hot.gain ∨ x.gainOverride = true := by
    by_cases same : old.gain = seg.hot.gain
    · exact .inl same
    · exact .inr (Bool.not_eq_false _ ▸ fun own => kept ⟨same, own⟩)
  rw [Voice.takeHot, h]
  dsimp only
  rw [if_pos keeps]
  rfl

/-! ## One sample of a voice without a reader (R10, R18) -/

section
variable {k : Block} {l : Fin 8} {v : Fin 4}

theorem advances_iff {x : Voice} : x.advances = true ↔ x.state = .playing ∨ x.state = .fading := by
  simp [Voice.advances]

theorem voiceSample_of_still (playing : (k.dev.voice l v).state ≠ .playing) (fading : (k.dev.voice l v).state ≠ .fading) (t : Nat) :
    Block.voiceSample 3 k l v t = (k, Contribution.zero) := by
  have still : ¬ (k.dev.voice l v).advances = true := fun advances => (advances_iff.mp advances).elim playing fading
  unfold Block.voiceSample
  dsimp only
  split
  · rfl
  · exact if_neg still

variable {g : Fin 1024} (current : (k.dev.voice l v).current = some g)
  (plays : (k.dev.voice l v).state = .playing ∨ (k.dev.voice l v).state = .fading)
include current plays

theorem voiceSample_of_clip (free : k.cursors.get v = none) {c : Fin 256} (bound : (k.dev.voice l v).binding = some (.clip c))
    (fuel t : Nat) :
    Block.voiceSample (fuel + 1) k l v t = k.emit l v (k.dev.segment g).fixed
      (clipSample k.dev.coldResets k.dev.clips.memory (k.dev.clip c).extents
        ((k.dev.segment g).fixed.startOffset + (k.dev.voice l v).position)) := by
  unfold Block.voiceSample
  dsimp only
  rw [current]
  dsimp only
  rw [if_pos (advances_iff.mpr plays), free]
  dsimp only
  rw [bound]

theorem voiceSample_of_silence (free : k.cursors.get v = none) (bound : ∀ c, (k.dev.voice l v).binding ≠ some (.clip c)) (fuel t : Nat) :
    Block.voiceSample (fuel + 1) k l v t = k.emit l v (k.dev.segment g).fixed { i := 0, q := 0 } := by
  unfold Block.voiceSample
  dsimp only
  rw [current]
  dsimp only
  rw [if_pos (advances_iff.mpr plays), free]
  dsimp only
  split
  · rename_i c clip
    exact absurd clip (bound c)
  · rfl

theorem voiceSample_of_reader {c : Cursor} (reader : k.cursors.get v = some c) (fuel t : Nat) :
    Block.voiceSample (fuel + 1) k l v t =
      if (k.dev.slot c.slot).atEnd c.cell then Block.voiceSample fuel (k.finish l v t) l v t
      else k.readStream l v (k.dev.segment g).fixed c := by
  conv => lhs; unfold Block.voiceSample
  dsimp only
  rw [current]
  dsimp only
  rw [if_pos (advances_iff.mpr plays), reader]

end

/-! ## The envelope and the step of a sample (R18 to R20, R24) -/

section
variable {x : Voice} {f : Fixed}

theorem edgeFade_of_samples {n : Nat} (h : f.length = .samples n) :
    x.edgeFade f =
      if x.position < min f.ramp (n / 2) ∧ (f.fadeEach = true ∨ x.firstRepeat = true) then (x.position, min f.ramp (n / 2))
      else if 0 < min f.ramp (n / 2) ∧ n ≤ x.position + min f.ramp (n / 2) ∧ (f.fadeEach = true ∨ x.repeats = .left 1) then
        (n - 1 - x.position, min f.ramp (n / 2))
      else (1, 1) := by
  unfold Voice.edgeFade effectiveRamp Voice.fadesOut
  rw [h]
  simp only [Bool.or_eq_true, decide_eq_true_eq]

theorem edgeFade_of_untilEnd (h : f.length = .untilEnd) :
    x.edgeFade f =
      if x.position < f.ramp ∧ (f.fadeEach = true ∨ x.firstRepeat = true) then (x.position, f.ramp) else (1, 1) := by
  unfold Voice.edgeFade effectiveRamp
  rw [h]

theorem rampStep_eq (now target : Val) (left : Nat) :
    rampStep now target left = ((rampStep now target left).1, left - 1) := by
  unfold rampStep
  rcases left with _ | _ | n <;> rfl

/-- A voice with its phase and its ramp stepped. -/
def Voice.ramped (x : Voice) : Voice :=
  { x with phase := x.phase + x.step, ampNow := (rampStep x.ampNow x.ampTarget x.rampLeft).1, rampLeft := x.rampLeft - 1 }

theorem stepSample_eq : x.stepSample f = (x.ramped.advance f).fade := by
  unfold Voice.stepSample Voice.ramped
  rw [rampStep_eq]

theorem advance_of_untilEnd (h : f.length = .untilEnd) : x.advance f = { x with position := x.position + 1 } := by
  rw [Voice.advance, h]

theorem advance_of_within {n : Nat} (h : f.length = .samples n) (within : x.position + 1 < n) :
    x.advance f = { x with position := x.position + 1 } := by
  rw [Voice.advance, h]
  exact if_pos within

theorem advance_of_endless {n : Nat} (h : f.length = .samples n) (finished : ¬ x.position + 1 < n) (endless : x.repeats = .endless) :
    x.advance f = { x with position := 0, firstRepeat := false } := by
  rw [Voice.advance, h]
  refine (if_neg finished).trans ?_
  rw [endless]

theorem advance_of_repeat {n r : Nat} (h : f.length = .samples n) (finished : ¬ x.position + 1 < n) (left : x.repeats = .left r)
    (more : 1 < r) : x.advance f = { x with position := 0, repeats := .left (r - 1), firstRepeat := false } := by
  rw [Voice.advance, h]
  refine (if_neg finished).trans ?_
  rw [left]
  exact if_pos more

theorem advance_of_last {n r : Nat} (h : f.length = .samples n) (finished : ¬ x.position + 1 < n) (left : x.repeats = .left r)
    (last : ¬ 1 < r) : x.advance f = { x with due := .ended } := by
  rw [Voice.advance, h]
  refine (if_neg finished).trans ?_
  rw [left]
  exact if_neg last

theorem fade_eq (x : Voice) :
    x.fade = { x with
      stopFade := x.stopFade.map fun left => left - 1
      due := if x.stopFade.any (fun left => left ≤ 1) = true then .ended else x.due } := by
  obtain ⟨⟩ := x
  unfold Voice.fade
  rename_i stopFade _ _ _ _ _ _ _
  cases stopFade with
  | none => rfl
  | some left =>
    simp only [Option.any_some, decide_eq_true_eq, Option.map_some]

end

/-! ## What is due at a sample (R21, R22, R27) -/

theorem finishCause_eq (x : Voice) : x.finishCause = if x.state = .fading then .stopped else .complete := rfl

theorem chainsTo_eq (x : Voice) : x.chainsTo = if x.state = .fading then none else x.hot.bind Hot.next := by
  unfold Voice.chainsTo
  split
  · rfl
  · cases x.hot <;> rfl

section
variable {k : Block} {l : Fin 8} {v : Fin 4} {t : Nat}

theorem takeDue_of_ended (due : (k.dev.voice l v).due = .ended) : k.takeDue l v t = k.finish l v t := by
  rw [Block.takeDue, due]

theorem takeDue_of_chain {g : Fin 1024} (due : (k.dev.voice l v).due = .chain g) :
    k.takeDue l v t = ({ k with dev := k.dev.updVoice l v fun x => { x with due := .none } } : Block).chain l v t g := by
  rw [Block.takeDue, due]

theorem finish_of_none (none_next : (k.dev.voice l v).chainsTo = none) :
    k.finish l v t = k.endSegment l v (k.dev.voice l v).finishCause := by
  unfold Block.finish
  dsimp only
  rw [none_next]

theorem finish_of_some {g : Fin 1024} (next : (k.dev.voice l v).chainsTo = some g) :
    k.finish l v t = (k.endSegment l v (k.dev.voice l v).finishCause).chain l v t g := by
  unfold Block.finish
  dsimp only
  rw [next]

end

/-! ### A chain and its reader (R22, R81, R82) -/

/-- A chain to a STREAM segment gets a reader: its slot is FILLING or PRIMED and has one free. -/
def Device.grants (d : Device) (f : Fixed) : Prop :=
  f.kind = .stream ∧ ((d.slot f.slot).state = .filling ∨ (d.slot f.slot).state = .primed) ∧ (d.slot f.slot).readers.length < 8

/-- The claim that a chain makes. -/
def Device.Claims (d : Device) (f : Fixed) (claim : Option (Fin 16 × Nat)) : Prop :=
  d.grants f ∧ claim = some (f.slot, (d.slot f.slot).freeIndex) ∨ ¬ d.grants f ∧ claim = none

theorem grants_iff {d : Device} {f : Fixed} : d.grants f ↔ f.kind = .stream ∧ (d.slot f.slot).claimResult = .ok := by
  refine and_congr_right fun _ => ⟨fun ⟨state, room⟩ => claimResult_of_room state room, fun ok => ⟨?_, room_of_claimResult ok⟩⟩
  unfold Slot.claimResult at ok
  cases state : (d.slot f.slot).state with
  | filling => exact .inl rfl
  | primed => exact .inr rfl
  | closed | running | draining | ended | broken =>
    rw [state] at ok
    cases ok

section
variable {k : Block} {l : Fin 8} {v : Fin 4} {t : Nat} {g : Fin 1024}

theorem chain_of_granted (granted : k.dev.grants (k.dev.segment g).fixed) :
    k.chain l v t g =
      ({ k with dev := k.dev.setSlot (k.dev.segment g).fixed.slot ((k.dev.slot (k.dev.segment g).fixed.slot).claim l v false) } :
        Block).begin l v t g (some ((k.dev.segment g).fixed.slot, (k.dev.slot (k.dev.segment g).fixed.slot).freeIndex)) :=
  if_pos (grants_iff.mp granted)

theorem chain_of_refused (refused : ¬ k.dev.grants (k.dev.segment g).fixed) : k.chain l v t g = k.begin l v t g none :=
  if_neg fun ok => refused (grants_iff.mpr ok)

/-- A segment that begins on a voice: it plays with its binding, or ends with its cause. -/
theorem begin_ok {claim : Option (Fin 16 × Nat)} {b : Option Binding}
    (bound : k.dev.bindingOf (k.dev.segment g).fixed claim = .ok b) :
    (k.begin l v t g claim).dev.voice l v = (k.dev.voice l v).begins g (k.dev.segment g) b ∧
      (k.begin l v t g claim).events = k.events := by
  rw [block_begin_voice, block_begin_events, bound]
  exact ⟨rfl, rfl⟩

theorem begin_error {claim : Option (Fin 16 × Nat)} {e : EndCause}
    (failed : k.dev.bindingOf (k.dev.segment g).fixed claim = .error e) :
    (k.begin l v t g claim).dev.voice l v = (k.dev.voice l v).ended e ∧
      (k.begin l v t g claim).events =
        if (k.dev.segment g).hot.endEvent then k.events ++ [voiceEndEvent l v e] else k.events := by
  rw [block_begin_voice, block_begin_events, failed]
  exact ⟨rfl, rfl⟩

/-- A chain is the begin of its segment, with a claim where it gets a reader. -/
theorem chain_ok {claim : Option (Fin 16 × Nat)} {b : Option Binding} (claims : k.dev.Claims (k.dev.segment g).fixed claim)
    (bound : k.dev.bindingOf (k.dev.segment g).fixed claim = .ok b) :
    (k.chain l v t g).dev.voice l v = (k.dev.voice l v).begins g (k.dev.segment g) b ∧ (k.chain l v t g).events = k.events := by
  rcases claims with ⟨granted, rfl⟩ | ⟨refused, rfl⟩
  · rw [chain_of_granted granted]
    exact begin_ok bound
  · rw [chain_of_refused refused]
    exact begin_ok bound

theorem chain_error {claim : Option (Fin 16 × Nat)} {e : EndCause} (claims : k.dev.Claims (k.dev.segment g).fixed claim)
    (failed : k.dev.bindingOf (k.dev.segment g).fixed claim = .error e) :
    (k.chain l v t g).dev.voice l v = (k.dev.voice l v).ended e ∧
      (k.chain l v t g).events =
        if (k.dev.segment g).hot.endEvent then k.events ++ [voiceEndEvent l v e] else k.events := by
  rcases claims with ⟨granted, rfl⟩ | ⟨refused, rfl⟩
  · rw [chain_of_granted granted]
    exact begin_error failed
  · rw [chain_of_refused refused]
    exact begin_error failed

theorem slot_begin_of_stream {n : Fin 16} {index : Nat} (stream : (k.dev.segment g).fixed.kind = .stream) :
    (k.begin l v t g (some (n, index))).dev.slot n = (k.dev.slot n).rehold index false := by
  unfold Block.begin
  simp only [segment_causePulse]
  rw [stream]
  exact slot_setSlot_same ..

/-- The reader that a chain gets. -/
theorem chain_reader (granted : k.dev.grants (k.dev.segment g).fixed) :
    ∃ r ∈ ((k.chain l v t g).dev.slot (k.dev.segment g).fixed.slot).readers,
      r.index = (k.dev.slot (k.dev.segment g).fixed.slot).freeIndex ∧ r.lane = l ∧ r.voice = v ∧ r.pending = false ∧
        r.cell = (k.dev.slot (k.dev.segment g).fixed.slot).h ∧ r.offset = 0 := by
  have began := slot_begin_of_stream (k := { k with
    dev := k.dev.setSlot (k.dev.segment g).fixed.slot ((k.dev.slot (k.dev.segment g).fixed.slot).claim l v false) })
    (l := l) (v := v) (t := t) (g := g) (n := (k.dev.segment g).fixed.slot)
    (index := (k.dev.slot (k.dev.segment g).fixed.slot).freeIndex) granted.1
  rw [chain_of_granted granted, began]
  dsimp only
  rw [slot_setSlot_same]
  generalize k.dev.slot (k.dev.segment g).fixed.slot = x
  refine ⟨⟨x.freeIndex, l, v, false, x.h, 0, false⟩, ?_, rfl, rfl, rfl, rfl, rfl, rfl⟩
  refine List.mem_map.mpr ⟨⟨x.freeIndex, l, v, false, x.h, 0, false⟩, List.mem_append_right _ List.mem_cons_self, if_pos rfl⟩

end

end Sys2Proof.Machine
end

section
/-!
SUPPORT. What is due at a sample, and the voices that read a stream (R21, R22, R27, R84, R87, R88, R91).
-/
namespace Sys2Proof.Machine

/-! ## A voice that ends, and one that chains (R21, R22, R27) -/

theorem ended_eq (x : Voice) (cause : EndCause) : x.ended cause = x.stoppedBy cause := rfl

/-- The events of a segment that ends in its block. -/
def Voice.endEvents (x : Voice) (l : Fin 8) (v : Fin 4) (cause : EndCause) : List (Fin 126 × Byte) :=
  if x.hot.any Hot.endEvent = true then [(srcVoiceEnd l v, BitVec.ofNat 8 (endCauseCode cause))] else []

section
variable (k : Block) (l : Fin 8) (v : Fin 4)

theorem endSegment_voice (cause : EndCause) : (k.endSegment l v cause).dev.voice l v = (k.dev.voice l v).stoppedBy cause := by
  rw [block_endSegment_dev, voice_updVoice_same]
  rfl

theorem endSegment_events (cause : EndCause) :
    (k.endSegment l v cause).events = k.events ++ (k.dev.voice l v).endEvents l v cause := by
  rw [block_endSegment_events, endEvent_eq, Voice.endEvents]
  split
  · rfl
  · rw [List.append_nil]

/-- The end of a segment inside a block leaves the segments, the clips and the slots. -/
theorem endSegment_intake (cause : EndCause) :
    (k.endSegment l v cause).dev.intake = k.dev.intake ∧ (k.endSegment l v cause).dev.segments = k.dev.segments ∧
      (k.endSegment l v cause).dev.clips = k.dev.clips := by
  rw [block_endSegment_dev]
  exact ⟨rfl, rfl, rfl⟩

end

section
variable {k : Block} {l : Fin 8} {v : Fin 4} {t : Nat}

/-- The block at the begin of a chain, and the voice on it: the segment before has ended, or the chain was due. -/
structure Block.ChainsFrom (k : Block) (l : Fin 8) (v : Fin 4) (t : Nat) (g : Fin 1024) (m : Block) : Prop where
  chains : k.takeDue l v t = m.chain l v t g
  intake : m.dev.intake = k.dev.intake
  segments : m.dev.segments = k.dev.segments
  clips : m.dev.clips = k.dev.clips

theorem chainsFrom_ended {g : Fin 1024} (due : (k.dev.voice l v).due = .ended) (next : (k.dev.voice l v).chainsTo = some g) :
    k.ChainsFrom l v t g (k.endSegment l v (k.dev.voice l v).finishCause) := by
  obtain ⟨intake, segments, clips⟩ := endSegment_intake k l v (k.dev.voice l v).finishCause
  exact ⟨(takeDue_of_ended due).trans (finish_of_some next), intake, segments, clips⟩

theorem chainsFrom_chain {g : Fin 1024} (due : (k.dev.voice l v).due = .chain g) :
    k.ChainsFrom l v t g { k with dev := k.dev.updVoice l v fun x => { x with due := .none } } :=
  ⟨takeDue_of_chain due, rfl, rfl, rfl⟩

section
variable {g : Fin 1024} {m : Block} (from_ : k.ChainsFrom l v t g m)
include from_

theorem Block.ChainsFrom.segment (h : Fin 1024) : m.dev.segment h = k.dev.segment h := by
  unfold Device.segment
  rw [from_.segments]

theorem Block.ChainsFrom.slot (n : Fin 16) : m.dev.slot n = k.dev.slot n := by
  unfold Device.slot
  rw [from_.intake]

theorem Block.ChainsFrom.grants (f : Fixed) : m.dev.grants f ↔ k.dev.grants f := by
  unfold Device.grants
  rw [from_.slot]

theorem Block.ChainsFrom.claims {f : Fixed} {claim : Option (Fin 16 × Nat)} (h : k.dev.Claims f claim) : m.dev.Claims f claim := by
  unfold Device.Claims at *
  rwa [from_.grants, from_.slot]

theorem Block.ChainsFrom.ok {claim : Option (Fin 16 × Nat)} {b : Option Binding} (claims : k.dev.Claims (k.dev.segment g).fixed claim)
    (bound : k.dev.bindingOf (k.dev.segment g).fixed claim = .ok b) :
    (k.takeDue l v t).dev.voice l v = (m.dev.voice l v).begins g (k.dev.segment g) b ∧ (k.takeDue l v t).events = m.events := by
  have segment := from_.segment g
  have began := chain_ok (k := m) (l := l) (v := v) (t := t) (g := g) (claim := claim) (b := b)
    (by rw [segment]; exact from_.claims claims) (by rw [segment, bindingOf_of_clips from_.clips]; exact bound)
  rwa [segment, ← from_.chains] at began

theorem Block.ChainsFrom.error {claim : Option (Fin 16 × Nat)} {e : EndCause} (claims : k.dev.Claims (k.dev.segment g).fixed claim)
    (failed : k.dev.bindingOf (k.dev.segment g).fixed claim = .error e) :
    (k.takeDue l v t).dev.voice l v = (m.dev.voice l v).stoppedBy e ∧
      (k.takeDue l v t).events =
        m.events ++ if (k.dev.segment g).hot.endEvent then [(srcVoiceEnd l v, BitVec.ofNat 8 (endCauseCode e))] else [] := by
  have segment := from_.segment g
  obtain ⟨voice, events⟩ := chain_error (k := m) (l := l) (v := v) (t := t) (g := g) (claim := claim) (e := e)
    (by rw [segment]; exact from_.claims claims) (by rw [segment, bindingOf_of_clips from_.clips]; exact failed)
  rw [← from_.chains] at voice events
  rw [segment] at events
  refine ⟨voice, events.trans ?_⟩
  split
  · rfl
  · rw [List.append_nil]

theorem Block.ChainsFrom.reader (granted : k.dev.grants (k.dev.segment g).fixed) :
    ∃ r ∈ ((k.takeDue l v t).dev.slot (k.dev.segment g).fixed.slot).readers,
      r.index = (k.dev.slot (k.dev.segment g).fixed.slot).freeIndex ∧ r.lane = l ∧ r.voice = v ∧ r.pending = false ∧
        r.cell = (k.dev.slot (k.dev.segment g).fixed.slot).h ∧ r.offset = 0 := by
  have segment := from_.segment g
  have reader := chain_reader (k := m) (l := l) (v := v) (t := t) (g := g) (by rw [segment]; exact (from_.grants _).mpr granted)
  rw [segment, from_.slot, ← from_.chains] at reader
  exact reader

end
end

/-! ## One sample of a reader (R84, R87, R88, R91) -/

theorem state_stepSample (x : Voice) (f : Fixed) : (x.stepSample f).state = x.state ∧ (x.stepSample f).hot = x.hot := by
  rw [stepSample_eq, fade_eq]
  dsimp only
  have ramped : x.ramped.state = x.state ∧ x.ramped.hot = x.hot := ⟨rfl, rfl⟩
  generalize x.ramped = y at ramped ⊢
  unfold Voice.advance
  split
  · exact ramped
  · split
    · exact ramped
    · split
      · exact ramped
      · split <;> exact ramped

theorem atEnd_iff {x : Slot} {cell : Seq} :
    x.atEnd cell = true ↔ x.state = .draining ∧ x.final.any (fun final => atOrAfter cell final) = true := by
  unfold Slot.atEnd
  cases x.final <;> simp

theorem cameToEnd_advance_iff {x : Slot} {c : Cursor} {lacking : Bool} :
    x.cameToEnd (c.advance lacking) = true ↔ x.state = .draining ∧ 63 ≤ c.offset ∧ x.final = some (c.cell + 1) := by
  unfold Slot.cameToEnd Cursor.advance
  by_cases within : c.offset < 63
  · have short : ¬ 63 ≤ c.offset := Nat.not_le_of_lt within
    simp [within, short]
  · have past : 63 ≤ c.offset := Nat.le_of_not_lt within
    simp [within, past]

section
variable {k : Block} {l : Fin 8} {v : Fin 4}

/-- The block after a sample of a reader: its cursor moved and its voice stepped. -/
def Block.moved (k : Block) (l : Fin 8) (v : Fin 4) (f : Fixed) (c : Cursor) (lacking : Bool) : Block :=
  { k with cursors := put k.cursors v (some (c.advance lacking)), dev := k.dev.setVoice l v ((k.dev.voice l v).stepSample f) }

theorem readSample_contribution (f : Fixed) (c : Cursor) (x : Sample) (lacking : Bool) :
    (k.readSample l v f c x lacking).2 = contribution ((k.dev.voice l v).amplitude f) x (k.dev.voice l v).phase := rfl

theorem readSample_block (f : Fixed) (c : Cursor) (x : Sample) (lacking : Bool) :
    (k.readSample l v f c x lacking).1 =
      if (k.dev.slot c.slot).cameToEnd (c.advance lacking) then (k.moved l v f c lacking).streamFinished l v
      else k.moved l v f c lacking := rfl

/-- What a read that comes to the end of its stream leaves. -/
theorem streamFinished_moved (f : Fixed) (c : Cursor) (lacking : Bool) :
    let m := (k.moved l v f c lacking).streamFinished l v
    let y := (k.dev.voice l v).stepSample f
    m.reports = k.reports ++ [c.advance lacking] ∧ m.released = k.released ++ [(c.slot, c.index)] ∧
      ((k.dev.voice l v).chainsTo = none → m.dev.voice l v = y.stoppedBy (k.dev.voice l v).finishCause) ∧
      ∀ h, (k.dev.voice l v).chainsTo = some h →
        m.dev.voice l v = { y.stoppedBy (k.dev.voice l v).finishCause with state := .playing, due := .chain h } := by
  intro m y
  obtain ⟨state, hot⟩ := state_stepSample (k.dev.voice l v) f
  have voice : (k.moved l v f c lacking).dev.voice l v = y := voice_setVoice_same ..
  have cause : y.finishCause = (k.dev.voice l v).finishCause := by rw [finishCause_eq, finishCause_eq, state]
  have chains : y.chainsTo = (k.dev.voice l v).chainsTo := by rw [chainsTo_eq, chainsTo_eq, state, hot]
  have reader : (k.moved l v f c lacking).cursors.get v = some (c.advance lacking) := get_put_same ..
  have ended := endSegment_voice (k.moved l v f c lacking) l v y.finishCause
  have reports : ((k.moved l v f c lacking).endSegment l v y.finishCause).reports = k.reports ++ [c.advance lacking] := by
    unfold Block.endSegment
    dsimp only
    rw [reader]
    rfl
  have released : ((k.moved l v f c lacking).endSegment l v y.finishCause).released = k.released ++ [(c.slot, c.index)] := by
    rw [block_endSegment_released, reader]
    rfl
  rw [voice, cause] at ended
  rw [cause] at reports released
  have finished : m = (k.moved l v f c lacking).streamFinished l v := rfl
  unfold Block.streamFinished at finished
  dsimp only at finished
  rw [voice, cause, chains] at finished
  cases next : (k.dev.voice l v).chainsTo with
  | none =>
    rw [next] at finished
    rw [finished]
    exact ⟨reports, released, fun _ => ended, fun h other => absurd other (Option.some_ne_none h).symm⟩
  | some g =>
    rw [next] at finished
    rw [finished]
    refine ⟨reports, released, fun other => absurd other (Option.some_ne_none g), fun h same => ?_⟩
    rw [← Option.some.inj same]
    dsimp only
    rw [voice_updVoice_same, ended]

theorem readStream_of_data {c : Cursor} {samples : List Sample} (f : Fixed)
    (held : lookAt c.cell (k.dev.slot c.slot).queue = .data samples) :
    k.readStream l v f c = k.readSample l v f c (samples.getD c.offset { i := 0, q := 0 }) false := by
  unfold Block.readStream
  dsimp only
  rw [held]

theorem readStream_of_void {c : Cursor} (f : Fixed) (held : lookAt c.cell (k.dev.slot c.slot).queue = .void) :
    k.readStream l v f c = k.readSample l v f c { i := 0, q := 0 } false := by
  unfold Block.readStream
  dsimp only
  rw [held]

theorem readStream_of_zeroFill {c : Cursor} (f : Fixed) (held : lookAt c.cell (k.dev.slot c.slot).queue = .absent)
    (policy : (k.dev.slot c.slot).config.policy = .zeroFill) :
    k.readStream l v f c = k.readSample l v f c { i := 0, q := 0 } true := by
  unfold Block.readStream
  dsimp only
  rw [held]
  dsimp only
  rw [policy]

theorem readStream_of_stall {c : Cursor} (f : Fixed) (held : lookAt c.cell (k.dev.slot c.slot).queue = .absent)
    (policy : (k.dev.slot c.slot).config.policy = .stall) :
    k.readStream l v f c = (k.stall l v c, Contribution.zero) := by
  unfold Block.readStream
  dsimp only
  rw [held]
  dsimp only
  rw [policy]

/-- A voice written, then updated: the update alone, where it does not see what was written. -/
theorem updVoice_setVoice (d : Device) (l : Fin 8) (v : Fin 4) {y : Voice} {f : Voice → Voice} (same : f y = f (d.voice l v)) :
    (d.setVoice l v y).updVoice l v f = d.updVoice l v f := by
  unfold Device.updVoice
  rw [voice_setVoice_same, same]
  unfold Device.setVoice Device.updLane
  rw [lane_setLane_same, setLane_setLane]
  dsimp only
  rw [put_put]

/-- A segment due to end that is finished is the segment finished. -/
theorem takeDue_of_setDue (k : Block) (l : Fin 8) (v : Fin 4) (t : Nat) :
    ({ k with dev := k.dev.setVoice l v { k.dev.voice l v with due := .ended } } : Block).takeDue l v t = k.finish l v t := by
  generalize hm : ({ k with dev := k.dev.setVoice l v { k.dev.voice l v with due := .ended } } : Block) = m
  have voice : m.dev.voice l v = { k.dev.voice l v with due := .ended } := by rw [← hm]; exact voice_setVoice_same ..
  have ended (cause : EndCause) : m.endSegment l v cause = k.endSegment l v cause := by
    have updated := updVoice_setVoice k.dev l v (y := { k.dev.voice l v with due := .ended }) (f := (·.ended cause)) rfl
    unfold Block.endSegment
    dsimp only
    rw [voice, ← hm]
    cases k.cursors.get v with
    | none =>
      dsimp only
      rw [updated]
      rfl
    | some c =>
      dsimp only
      rw [updated]
      rfl
  rw [takeDue_of_ended (by rw [voice])]
  have cause : (m.dev.voice l v).finishCause = (k.dev.voice l v).finishCause := by rw [voice]; rfl
  have chains : (m.dev.voice l v).chainsTo = (k.dev.voice l v).chainsTo := by rw [voice]; rfl
  unfold Block.finish
  dsimp only
  rw [chains, cause, ended]

end

end Sys2Proof.Machine
end

section
/-!
SUPPORT. A clip played alone at 0 dB: the exact arithmetic of a whole number, and the samples of such a block (R17 to R19, R43, R118).
-/
namespace Sys2Proof.Machine

/-! ## Whole numbers (R43) -/

/-- A whole number as an exact value. -/
def wholeVal (n : Int) : Val := if n = 0 then Val.zero else { den := 1, terms := [{ root := 0, angle := 0, num := n }] }

theorem addVal_zero_left (b : Val) : addVal Val.zero b = b := rfl

theorem addVal_zero_right (n : Int) : addVal (wholeVal n) Val.zero = wholeVal n := by
  unfold wholeVal
  split <;> rfl

theorem gcd_one_fold (terms : List Term) : terms.foldl (fun g t => Nat.gcd g t.num.natAbs) 1 = 1 := by
  induction terms with
  | nil => rfl
  | cons t terms ih => rw [List.foldl_cons, Nat.gcd_one_left, ih]

theorem reduce_of_one (terms : List Term) : reduce { den := 1, terms := terms } = { den := 1, terms := terms } := by
  unfold reduce
  dsimp only
  rw [gcd_one_fold]
  exact if_pos (Nat.le_refl 1)

theorem mulVal_one (n : Int) : mulVal (wholeVal n) Val.one = wholeVal n := by
  unfold wholeVal
  split
  · rfl
  · rename_i other
    have product : ([mulTerm { root := 0, angle := 0, num := n } { root := 0, angle := 0, num := 1 }] : List Term).foldr insertTerm [] =
        [{ root := 0, angle := 0, num := n }] := by
      simp [mulTerm, insertTerm, other]
    change reduce { den := 1, terms := List.foldr insertTerm [] [mulTerm { root := 0, angle := 0, num := n }
      { root := 0, angle := 0, num := 1 }] } = _
    rw [product, reduce_of_one]

theorem roundVal_wholeVal (n : Int) : roundVal (wholeVal n) = n := by
  unfold wholeVal
  split
  · rename_i zero
    rw [zero]
    rfl
  · rw [roundVal_of_whole, roundRat_eq]
    split <;> omega

theorem gainAmplitude_zero : gainAmplitude 0 = Val.one := rfl

/-- A sample at 0 dB without rotation is the sample. -/
theorem turnVal_one (c : Int) : turnVal Val.one c 0 = wholeVal c := by
  have turned : turnVal Val.one c 0 = if c * 1 = 0 then Val.zero else
      scaleVal (c * 1) 1 { den := 1, terms := [{ root := 0, angle := 0, num := 1 }] } := rfl
  rw [turned, Int.mul_one, wholeVal]
  split
  · rfl
  · rename_i other
    have scaled : scaleVal c 1 { den := 1, terms := [{ root := 0, angle := 0, num := 1 }] } =
        reduce { den := 1, terms := [{ root := 0, angle := 0, num := 1 * c }] } := if_neg other
    rw [scaled, reduce_of_one, Int.one_mul]

theorem turnVal_quarter (c : Int) : turnVal Val.one c (0 - 0x40000000) = Val.zero := by
  have key : cosKey (0 - 0x40000000) = (0, 0) := by decide
  unfold turnVal
  rw [key]
  exact if_pos (Int.mul_zero c)

theorem contribution_one (x : Sample) :
    (contribution Val.one x 0).i = wholeVal x.i ∧ (contribution Val.one x 0).q = wholeVal x.q := by
  have turned : rotate Val.one x 0 = (addVal (turnVal Val.one x.i 0) (turnVal Val.one (-x.q) (0 - 0x40000000)),
      addVal (turnVal Val.one x.i (0 - 0x40000000)) (turnVal Val.one x.q 0)) := rfl
  rw [turnVal_one, turnVal_one, turnVal_quarter, turnVal_quarter, addVal_zero_right, addVal_zero_left] at turned
  unfold contribution
  rw [turned]
  exact ⟨rfl, rfl⟩

/-- The samples of clip memory lie in the range of the port (R118). -/
theorem clipSample_range (coldResets : Nat) (m : List Host.Cell) (extents : List Extent) (q : Nat) :
    let x := clipSample coldResets m extents q
    (-32768 ≤ x.i ∧ x.i ≤ 32767) ∧ -32768 ≤ x.q ∧ x.q ≤ 32767 := by
  have range (p : List Byte) (i : Nat) : -32768 ≤ s16 p i ∧ s16 p i ≤ 32767 := by
    have low := BitVec.le_toInt (BitVec.ofNat 16 (u16 p i))
    have high := BitVec.toInt_lt (x := BitVec.ofNat 16 (u16 p i))
    unfold s16
    omega
  exact ⟨range _ 0, range _ 2⟩

theorem saturate_of_range {n : Int} (h : -32768 ≤ n ∧ n ≤ 32767) : saturate n = (n, false) := by
  unfold saturate
  rw [if_neg (by omega), if_neg (by omega)]

/-- A lane at 0 dB puts out a sum that is a sample. -/
theorem output_whole {x : Lane} (amp : x.ampNow = Val.one) (trim : x.trim = 0) {y : Sample}
    (range : (-32768 ≤ y.i ∧ y.i ≤ 32767) ∧ -32768 ≤ y.q ∧ y.q ≤ 32767) :
    x.output (wholeVal y.i) (wholeVal y.q) = (y, false) := by
  unfold Lane.output
  dsimp only
  rw [amp, trim, gainAmplitude_zero, mulVal_one, mulVal_one, mulVal_one, mulVal_one, roundVal_wholeVal, roundVal_wholeVal,
    saturate_of_range range.1, saturate_of_range range.2]
  rfl

end Sys2Proof.Machine
end

section
/-!
SUPPORT. The block of a clip played alone at 0 dB, sample by sample (R17 to R19, R31, R43, R118).
-/
namespace Sys2Proof.Machine

/-! ## The sum of one voice -/

theorem finRange_split (v : Fin 4) : ∃ before after, List.finRange 4 = before ++ v :: after ∧ v ∉ before ∧ v ∉ after := by
  obtain ⟨before, after, split⟩ := List.append_of_mem (List.mem_finRange v)
  have nodup : (before ++ v :: after).Nodup := split ▸ List.nodup_finRange 4
  rw [List.nodup_append] at nodup
  obtain ⟨-, last, apart⟩ := nodup
  exact ⟨before, after, split, fun member => apart v member v List.mem_cons_self rfl, (List.nodup_cons.mp last).1⟩

/-- Voices without a segment leave the sum as it is. -/
theorem sum_of_none {k : Block} {l : Fin 8} {t : Nat} {i q : Val} (keeps : addVal i Val.zero = i ∧ addVal q Val.zero = q)
    (vs : List (Fin 4)) (rests : ∀ w ∈ vs, (k.dev.voice l w).current = none) :
    ∃ powers, vs.foldl (Block.addVoice l t) (k, i, q) = ({ k with powers := powers }, i, q) := by
  suffices ∀ p, ∃ powers, vs.foldl (Block.addVoice l t) ({ k with powers := p }, i, q) = ({ k with powers := powers }, i, q) from
    this k.powers
  induction vs with
  | nil => exact fun p => ⟨p, rfl⟩
  | cons w vs ih =>
    intro p
    have silent : Block.voiceSample 3 { k with powers := p } l w t = ({ k with powers := p }, Contribution.zero) :=
      voiceSample_of_none (k := { k with powers := p }) (rests w List.mem_cons_self) t
    obtain ⟨keepsI, keepsQ⟩ := keeps
    have same (c : Contribution) (zero : c = Contribution.zero) : addVal i c.i = i ∧ addVal q c.q = q := by
      rw [zero]
      exact ⟨keepsI, keepsQ⟩
    have added : Block.addVoice l t ({ k with powers := p }, i, q) w =
        ({ k with powers := if (k.dev.meter l).source = .voice w then p ++ [Contribution.zero.power] else p }, i, q) := by
      unfold Block.addVoice
      dsimp only
      rw [silent]
      dsimp only
      rw [(same _ rfl).1, (same _ rfl).2]
    rw [List.foldl_cons, added]
    exact ih (fun w member => rests w (List.mem_cons_of_mem _ member)) _

/-! ## A clip alone on its lane -/

/-- A clip that its lane alone has to play, with lane and voice at 0 dB and no ramp, fade or shift. -/
structure Device.AtUnity (d : Device) (l : Fin 8) (v : Fin 4) (g : Fin 1024) (c : Fin 256) (n : Nat) : Prop where
  target : (d.lane l).ampTarget = Val.one
  ramp : (d.lane l).rampLeft = 0
  trim : (d.lane l).trim = 0
  others : ∀ w, w ≠ v → (d.voice l w).Rests
  state : (d.voice l v).state = .playing
  current : (d.voice l v).current = some g
  binding : (d.voice l v).binding = some (.clip c)
  voiceAmp : (d.voice l v).ampNow = Val.one
  voiceRamp : (d.voice l v).rampLeft = 0
  stopFade : (d.voice l v).stopFade = none
  phase : (d.voice l v).phase = 0
  step : (d.voice l v).step = 0
  due : (d.voice l v).due = .none
  noRamp : (d.segment g).fixed.ramp = 0
  length : (d.segment g).fixed.length = .samples n

/-- Such a clip with the lane's amplitude at 0 dB: it reaches the port as it is. -/
structure Device.PlaysAlone (d : Device) (l : Fin 8) (v : Fin 4) (g : Fin 1024) (c : Fin 256) (n : Nat) : Prop
    extends d.AtUnity l v g c n where
  amp : (d.lane l).ampNow = Val.one

/-- The voice as it stands after `m` samples. -/
def Voice.movedBy (x : Voice) (m : Nat) : Voice := { x with position := x.position + m }

section
variable {d : Device} {l : Fin 8} {v : Fin 4} {g : Fin 1024} {c : Fin 256} {n : Nat} (alone : d.PlaysAlone l v g c n)
include alone

/-- The clip sample that the voice plays after `m` samples. -/
def Device.aloneSample (d : Device) (l : Fin 8) (v : Fin 4) (g : Fin 1024) (c : Fin 256) (m : Nat) : Sample :=
  clipSample d.coldResets d.clips.memory (d.clip c).extents
    ((d.segment g).fixed.startOffset + ((d.voice l v).position + m))

/-- The block after `m` samples of the clip. -/
structure Block.Alone (k : Block) (d : Device) (l : Fin 8) (v : Fin 4) (g : Fin 1024) (c : Fin 256) (m : Nat) : Prop where
  dev : k.dev = d.setVoice l v ((d.voice l v).movedBy m)
  free : k.cursors.get v = none
  out : k.out = (List.range m).map (d.aloneSample l v g c)

omit alone in
theorem setVoice_self (d : Device) (l : Fin 8) (v : Fin 4) : d.setVoice l v (d.voice l v) = d := by
  have same : { d.lane l with voices := put (d.lane l).voices v ((d.lane l).voices.get v) } = d.lane l := by rw [put_get_self]
  calc d.setVoice l v (d.voice l v) = d.setLane l { d.lane l with voices := put (d.lane l).voices v ((d.lane l).voices.get v) } := rfl
    _ = d := by rw [same, setLane_self]

theorem amplitude_alone (m : Nat) : ((d.voice l v).movedBy m).amplitude (d.segment g).fixed = Val.one := by
  have edge : ((d.voice l v).movedBy m).edgeFade (d.segment g).fixed = (1, 1) := by
    rw [edgeFade_of_samples alone.length, alone.noRamp, Nat.zero_min, if_neg (fun h => Nat.not_lt_zero _ h.1),
      if_neg (fun h => Nat.lt_irrefl 0 h.1)]
  have stop : ((d.voice l v).movedBy m).stopFactor (d.segment g).fixed = (1, 1) := by
    have none_left : ((d.voice l v).movedBy m).stopFade = none := alone.stopFade
    rw [Voice.stopFactor, none_left]
  have amp : ((d.voice l v).movedBy m).ampNow = Val.one := alone.voiceAmp
  rw [Voice.amplitude, edge, stop, amp]
  rfl

theorem stepSample_alone {m : Nat} (within : (d.voice l v).position + m + 1 < n) :
    ((d.voice l v).movedBy m).stepSample (d.segment g).fixed = (d.voice l v).movedBy (m + 1) := by
  have ramped : ((d.voice l v).movedBy m).ramped = (d.voice l v).movedBy m := by
    have step := alone.step
    have ramp := alone.voiceRamp
    generalize d.voice l v = x at step ramp
    have phase : x.phase + x.step = x.phase := by rw [step]; exact BitVec.add_zero x.phase
    unfold Voice.ramped Voice.movedBy
    dsimp only
    rw [phase, ramp]
    obtain ⟨⟩ := x
    cases ramp
    rfl
  have fade := alone.stopFade
  rw [stepSample_eq, ramped, advance_of_within alone.length within, fade_eq]
  generalize d.voice l v = x at fade
  unfold Voice.movedBy
  dsimp only
  rw [fade]
  obtain ⟨⟩ := x
  cases fade
  rfl

theorem Block.Alone.sample {k : Block} {m : Nat} (h : k.Alone d l v g c m) (within : (d.voice l v).position + m + 1 < n) (b j : Nat) :
    (k.sample l b [] j).Alone d l v g c (m + 1) := by
  have voice : k.dev.voice l v = (d.voice l v).movedBy m := by rw [h.dev, voice_setVoice_same]
  have others (w : Fin 4) (other : w ≠ v) : (k.dev.voice l w).Rests := by
    rw [h.dev, voice_setVoice_of_ne d l _ other]
    exact alone.others w other
  have due (w : Fin 4) : (k.dev.voice l w).due = .none := by
    by_cases here : w = v
    · rw [here, voice]
      exact alone.due
    · exact (others w here).2.2
  have prepared : Block.prepared l b [] k j = k := by
    unfold Block.prepared
    rw [takeDues_of_none due]
    rfl
  have segment : k.dev.segment g = d.segment g := by rw [h.dev]; rfl
  have clips : k.dev.clips = d.clips := by rw [h.dev]; rfl
  have resets : k.dev.coldResets = d.coldResets := by rw [h.dev]; rfl
  have plays (p : List Val) : Block.voiceSample 3 { k with powers := p } l v (b + j) =
      ({ k with powers := p, dev := d.setVoice l v ((d.voice l v).movedBy (m + 1)) },
        contribution Val.one (d.aloneSample l v g c m) 0) := by
    have emitted := voiceSample_of_clip (k := { k with powers := p }) (l := l) (v := v) (g := g) (c := c)
      (by rw [voice]; exact alone.current) (by rw [voice]; exact .inl alone.state) h.free (by rw [voice]; exact alone.binding) 2 (b + j)
    rw [emitted]
    unfold Block.emit Device.clip
    dsimp only
    rw [segment, voice, clips, resets, amplitude_alone alone, stepSample_alone alone within, h.dev, setVoice_setVoice]
    have phase : ((d.voice l v).movedBy m).phase = 0 := alone.phase
    rw [phase]
    rfl
  obtain ⟨before, after, split, notBefore, notAfter⟩ := finRange_split v
  obtain ⟨powers, sum⟩ : ∃ powers, k.sumVoices l (b + j) =
      ({ k with powers := powers, dev := d.setVoice l v ((d.voice l v).movedBy (m + 1)) },
        wholeVal (d.aloneSample l v g c m).i, wholeVal (d.aloneSample l v g c m).q) := by
    obtain ⟨p, first⟩ := sum_of_none (k := k) (l := l) (t := b + j) (i := Val.zero) (q := Val.zero) ⟨rfl, rfl⟩ before
      fun w member => (others w fun same => notBefore (same ▸ member)).2.1
    have added : ∃ p', Block.addVoice l (b + j) ({ k with powers := p }, Val.zero, Val.zero) v =
        ({ k with powers := p', dev := d.setVoice l v ((d.voice l v).movedBy (m + 1)) },
          wholeVal (d.aloneSample l v g c m).i, wholeVal (d.aloneSample l v g c m).q) := by
      unfold Block.addVoice
      dsimp only
      rw [plays p]
      dsimp only
      rw [(contribution_one _).1, (contribution_one _).2, addVal_zero_left, addVal_zero_left]
      exact ⟨_, rfl⟩
    obtain ⟨p', added⟩ := added
    obtain ⟨p'', last⟩ := sum_of_none
      (k := { k with powers := p', dev := d.setVoice l v ((d.voice l v).movedBy (m + 1)) }) (l := l) (t := b + j)
      (i := wholeVal (d.aloneSample l v g c m).i) (q := wholeVal (d.aloneSample l v g c m).q)
      ⟨addVal_zero_right _, addVal_zero_right _⟩ after fun w member => by
        have other : w ≠ v := fun same => notAfter (same ▸ member)
        dsimp only
        rw [voice_setVoice_of_ne d l _ other]
        exact (alone.others w other).2.1
    refine ⟨p'', ?_⟩
    rw [sumVoices_eq, split, List.foldl_append, first, List.foldl_cons, added, last]
  rw [sample_eq, prepared, sum]
  dsimp only
  have lane : (d.setVoice l v ((d.voice l v).movedBy (m + 1))).lane l =
      { d.lane l with voices := put (d.lane l).voices v ((d.voice l v).movedBy (m + 1)) } := lane_setVoice_same ..
  have output : ((d.setVoice l v ((d.voice l v).movedBy (m + 1))).lane l).output (wholeVal (d.aloneSample l v g c m).i)
      (wholeVal (d.aloneSample l v g c m).q) = (d.aloneSample l v g c m, false) := by
    rw [lane]
    exact output_whole (by exact alone.amp) (by exact alone.trim) (clipSample_range ..)
  have steady : (d.setVoice l v ((d.voice l v).movedBy (m + 1))).updLane l Lane.stepMaster =
      d.setVoice l v ((d.voice l v).movedBy (m + 1)) := by
    have same : ((d.setVoice l v ((d.voice l v).movedBy (m + 1))).lane l).stepMaster =
        (d.setVoice l v ((d.voice l v).movedBy (m + 1))).lane l := by
      have ramp := alone.ramp
      rw [lane, stepMaster_eq]
      generalize d.lane l = y at ramp
      dsimp only
      rw [ramp]
    rw [Device.updLane, same, setLane_self]
  rw [output, steady]
  exact ⟨rfl, h.free, by dsimp only; rw [h.out, List.range_succ, List.map_append]; rfl⟩

theorem Block.Alone.samples (ns : List Nat) {k : Block} {m : Nat} (h : k.Alone d l v g c m)
    (within : (d.voice l v).position + m + ns.length < n) (b : Nat) :
    (ns.foldl (Block.sample l b []) k).Alone d l v g c (m + ns.length) := by
  induction ns generalizing k m with
  | nil => exact h
  | cons j ns ih =>
    rw [List.length_cons] at within
    rw [List.foldl_cons, List.length_cons, Nat.add_comm ns.length, ← Nat.add_assoc]
    exact ih (h.sample alone (by omega) b j) (by omega)

end

end Sys2Proof.Machine
end

section
/-!
SUPPORT. The block computed of a clip alone at 0 dB (R7, R17 to R19, R43, R118).
-/
namespace Sys2Proof.Machine

/-! ## A clip alone at 0 dB, from the boundary to the port -/

theorem voice_complete {k : Block} {l : Fin 8} {b : Nat} (within : b + 64 < 281474976710656) (v : Fin 4) :
    (k.complete l b).voice l v = k.dev.voice l v :=
  (congrArg (fun x : Lane => x.voices.get v) (lane_complete within)).trans rfl

/-- The voices as the boundary begins a block, and the block's first look at its lane. -/
def Device.settled (d : Device) (l : Fin 8) : Device := (d.takeHot l).updLane l Lane.settleMaster

theorem lane_settled (d : Device) (l : Fin 8) :
    (d.settled l).lane l = { (d.lane l).settleMaster with voices := ((d.settled l).lane l).voices } := by
  unfold Device.settled Device.takeHot
  rw [lane_updLane_same, lane_updLane_same]
  rfl

theorem voice_settled (d : Device) (l : Fin 8) (v : Fin 4) : (d.settled l).voice l v = (d.takeHot l).voice l v := voice_settleMaster ..

/-- A voice whose hot copy is that of its segment keeps it. -/
theorem takeHot_of_same {x : Voice} {seg : Segment} (h : x.hot = some seg.hot) : x.takeHot seg = x := by
  rw [takeHot_of_kept h (fun turned => turned.1 rfl), Voice.copies, if_pos rfl, ← h]

/-- The block computed of a clip alone at 0 dB: its output, and the voice on it. -/
theorem computeBlock_alone {d : Device} {l : Fin 8} {v : Fin 4} {g : Fin 1024} {c : Fin 256} {n : Nat}
    (alone : (d.settled l).PlaysAlone l v g c n) (within : ((d.settled l).voice l v).position + 64 < n) :
    (d.computeBlock l []).Alone (d.settled l) l v g c 64 := by
  have tried : (List.finRange 4).foldl (fun k w => k.retry l w) (Block.start (d.settled l) l) = Block.start (d.settled l) l :=
    retries_of_state (fun w => by
      change ((d.settled l).voice l w).state ≠ .stalled
      by_cases here : w = v
      · rw [here, alone.state]
        decide
      · rw [(alone.others w here).1]
        decide) _
  have free : (Block.start (d.settled l) l).cursors.get v = none := by
    change (((d.settled l).lane l).voices.map (d.settled l).cursorOf).get v = none
    rw [get_map]
    change (d.settled l).cursorOf ((d.settled l).voice l v) = none
    rw [Device.cursorOf, alone.binding]
  have start : (Block.start (d.settled l) l).Alone (d.settled l) l v g c 0 := ⟨(setVoice_self ..).symm, free, rfl⟩
  have block := computeBlock_eq d l []
  change d.computeBlock l [] = (List.range 64).foldl (Block.sample l (d.lane l).time [])
    ((List.finRange 4).foldl (fun k w => k.retry l w) (Block.start (d.settled l) l)) at block
  rw [tried] at block
  have length := List.length_range (n := 64)
  rw [block]
  generalize List.range 64 = ns at length
  have done := start.samples alone ns (by rw [length]; exact within) (d.lane l).time
  rwa [length, Nat.zero_add] at done

end Sys2Proof.Machine
end

section
/-!
SUPPORT. A clip alone at 0 dB at the block's first sample, and reads of a stream at its end and under STALL (R7, R36, R84, R88, R91).
-/
namespace Sys2Proof.Machine

/-! ## The lane and the voice at the block's first sample -/

/-- The voices that a boundary leaves to its block are those of the lane. -/
theorem voice_begun (d : Device) (l : Fin 8) (edge : Nat) (v : Fin 4) :
    (d.setLane l ((d.lane l).begun edge)).voice l v = d.voice l v := by
  rw [Device.voice, lane_setLane_same, Lane.begun, releaseQuiet_eq]
  rfl

/-- The settled lane of a clip alone at 0 dB. -/
theorem playsAlone_settled {d : Device} {l : Fin 8} {v : Fin 4} {g : Fin 1024} {c : Fin 256} {n : Nat}
    (unity : d.AtUnity l v g c n) (hot : (d.voice l v).hot = some (d.segment g).hot) :
    (d.settled l).PlaysAlone l v g c n ∧ (d.settled l).voice l v = d.voice l v := by
  have same : (d.settled l).voice l v = d.voice l v := by
    rw [voice_settled, voice_takeHot_of_some unity.current, takeHot_of_same hot]
  have lane := lane_settled d l
  have others (w : Fin 4) (other : w ≠ v) : ((d.settled l).voice l w).Rests := by
    rw [voice_settled, voice_takeHot_of_none (unity.others w other).2.1]
    exact unity.others w other
  have target : ((d.settled l).lane l).ampTarget = Val.one := by rw [lane]; exact unity.target
  have ramp : ((d.settled l).lane l).rampLeft = 0 := by rw [lane]; exact unity.ramp
  have trim : ((d.settled l).lane l).trim = 0 := by rw [lane]; exact unity.trim
  have amp : ((d.settled l).lane l).ampNow = Val.one := by rw [lane]; exact (if_pos unity.ramp).trans unity.target
  refine ⟨{ unity with
           target, ramp, trim, others, amp, state := ?_, current := ?_, binding := ?_,
           voiceAmp := ?_, voiceRamp := ?_, stopFade := ?_, phase := ?_, step := ?_, due := ?_ }, same⟩
  all_goals rw [same]
  · exact unity.state
  · exact unity.current
  · exact unity.binding
  · exact unity.voiceAmp
  · exact unity.voiceRamp
  · exact unity.stopFade
  · exact unity.phase
  · exact unity.step
  · exact unity.due

/-! ## A read under STALL (R88) -/

section
variable {k : Block} {l : Fin 8} {v : Fin 4}

theorem stall_of_playing (playing : (k.dev.voice l v).state = .playing) (c : Cursor) :
    k.stall l v c =
      { k with
        cursors := put k.cursors v (some { c with lacking := true, touched := true })
        dev := k.dev.setVoice l v { k.dev.voice l v with state := .stalled } } :=
  if_neg fun fading => VoiceState.noConfusion (playing.symm.trans fading)

theorem stall_of_fading (fading : (k.dev.voice l v).state = .fading) (c : Cursor) :
    k.stall l v c = k.endSegment l v .stopped := if_pos fading

/-- What a sample of a reader leaves: before the end of its stream, and as it comes to it (R84, R91). -/
theorem readSample_spec (f : Fixed) (c : Cursor) (s : Sample) (lacking : Bool) :
    let x := k.dev.voice l v
    let r := k.readSample l v f c s lacking
    let ends : Prop := (k.dev.slot c.slot).state = .draining ∧ 63 ≤ c.offset ∧ (k.dev.slot c.slot).final = some (c.cell + 1)
    (¬ ends → r.1 = k.moved l v f c lacking) ∧
      (ends → r.1.reports = k.reports ++ [c.advance lacking] ∧ r.1.released = k.released ++ [(c.slot, c.index)] ∧
        (x.chainsTo = none → r.1.dev.voice l v = (x.stepSample f).stoppedBy x.finishCause) ∧
        ∀ h, x.chainsTo = some h →
          r.1.dev.voice l v = { (x.stepSample f).stoppedBy x.finishCause with state := .playing, due := .chain h }) := by
  intro x r ends
  have block := readSample_block (k := k) (l := l) (v := v) f c s lacking
  refine ⟨fun before => ?_, fun comes => ?_⟩
  · exact block.trans (if_neg fun came => before (cameToEnd_advance_iff.mp came))
  · have finished : r.1 = (k.moved l v f c lacking).streamFinished l v := block.trans (if_pos (cameToEnd_advance_iff.mpr comes))
    rw [finished]
    exact streamFinished_moved f c lacking

/-! ## A reader found at the end of its stream (R91) -/

/-- A segment that ends and does not chain puts out nothing more. -/
theorem voiceSample_finish (none_next : (k.dev.voice l v).chainsTo = none) (fuel t : Nat) :
    (Block.voiceSample (fuel + 1) (k.finish l v t) l v t).2 = Contribution.zero ∧
      (Block.voiceSample (fuel + 1) (k.finish l v t) l v t).1.dev.voice l v =
        (k.dev.voice l v).stoppedBy (k.dev.voice l v).finishCause := by
  rw [finish_of_none none_next]
  have voice := endSegment_voice k l v (k.dev.voice l v).finishCause
  generalize k.endSegment l v (k.dev.voice l v).finishCause = m at voice
  have silent : Block.voiceSample (fuel + 1) m l v t = (m, Contribution.zero) := by
    unfold Block.voiceSample
    dsimp only
    rw [voice]
    rfl
  rw [silent]
  exact ⟨rfl, voice⟩

end

/-! ## A STALLED voice at the boundary (R88) -/

section
variable {k : Block} {l : Fin 8} {v : Fin 4} {c : Cursor} (stalled : (k.dev.voice l v).state = .stalled)
  (reader : k.cursors.get v = some c)
include stalled reader

theorem retry_eq :
    k.retry l v =
      if (k.dev.slot c.slot).atEnd c.cell then { k with dev := k.dev.setVoice l v { k.dev.voice l v with due := .ended } }
      else if lookAt c.cell (k.dev.slot c.slot).queue = .absent then
        { k with cursors := put k.cursors v (some { c with lacking := true, touched := true }) }
      else { k with dev := k.dev.setVoice l v { k.dev.voice l v with state := .playing } } := by
  refine (if_pos stalled).trans ?_
  rw [reader]

end

end Sys2Proof.Machine
end

section
/-!
SUPPORT. A clip at unity reaches the port, and what a block does with its voices (R7, R17 to R24, R27, R84 to R91, R118).
-/
namespace Sys2Proof.Machine

/-- Settles O23: the boundary's block of a clip alone at 0 dB, and the equations of the block's parts. -/
theorem clipAtUnityReachesThePort : Obligations.ClipAtUnityReachesThePort := by
  unfold Obligations.ClipAtUnityReachesThePort
  refine ⟨?unity, ?block, ?hot, ?sample, ?step, ?due, ?reader, ?contribution, ?retry⟩
  case unity =>
    intro s l v g c n d x y f ready running within empty loud target ramp trim others state current hot binding voiceAmp voiceTarget
      voiceRamp stopFade phase step shift due noRamp length near
    have bounds := blockBoundary_runs (d := s.dev) (l := l) ready (.inl running) (by
      intro e member
      rw [show (s.dev.lane l).schedule = [] from empty] at member
      exact absurd member List.not_mem_nil)
    refine ⟨s.dev.nextEdge l, _, (isNextEdge_iff ..).mpr rfl, exec_blockBoundary l s, ?_⟩
    have steadies := blockBoundary_steadies (d := s.dev) (l := l) ready (.inl running)
    generalize s.dev.nextEdge l = edge at bounds steadies
    have voices (w : Fin 4) : ((({ d with now := edge } : Device).setLane l (x.begun edge))).voice l w = d.voice l w :=
      voice_begun { d with now := edge } l edge w
    have record : (x.begun edge).quiet = false ∧ (x.begun edge).ampTarget = Val.one ∧ (x.begun edge).rampLeft = 0 ∧
        (x.begun edge).trim = 0 := by
      unfold Lane.begun Lane.releaseQuiet
      dsimp only
      split
      · exact ⟨rfl, target, ramp, trim⟩
      · exact ⟨loud, target, ramp, trim⟩
    obtain ⟨silent, target, ramp, trim⟩ := record
    have lane : (({ d with now := edge } : Device).setLane l (x.begun edge)).lane l = x.begun edge := lane_setLane_same ..
    have ran := lane_ran { d with now := edge } l (x.begun edge) [] within
    change s.dev.blockBoundary l =
      ((({ d with now := edge } : Device).setLane l (x.begun edge)).computeBlock l (x.schedule.takeWhile (·.takenBy x.time))).complete l x.time
      at bounds
    rw [empty, List.takeWhile_nil] at bounds
    have source : (({ d with now := edge } : Device).setLane l (x.begun edge)).segment g = d.segment g ∧
        (({ d with now := edge } : Device).setLane l (x.begun edge)).coldResets = d.coldResets ∧
        (({ d with now := edge } : Device).setLane l (x.begun edge)).clips = d.clips := ⟨rfl, rfl, rfl⟩
    generalize ({ d with now := edge } : Device).setLane l (x.begun edge) = e0 at *
    have unity : e0.AtUnity l v g c n := by
      refine ⟨by rw [lane]; exact target, by rw [lane]; exact ramp, by rw [lane]; exact trim, fun w other => ?_, ?_, ?_, ?_, ?_, ?_, ?_,
        ?_, ?_, ?_, by rw [source.1]; exact noRamp, by rw [source.1]; exact length⟩
      · rw [voices]
        exact ⟨(others w other).1, (others w other).2.1, (others w other).2.2.2⟩
      all_goals rw [voices]
      · exact state
      · exact current
      · exact binding
      · exact voiceAmp
      · exact voiceRamp
      · exact stopFade
      · exact phase
      · exact step
      · exact due
    obtain ⟨alone, same⟩ := playsAlone_settled unity (by rw [voices, source.1]; exact hot)
    have played := computeBlock_alone alone (by rw [same, voices]; exact near)
    rw [← bounds] at ran
    have voice : (s.dev.blockBoundary l).voice l v = (d.voice l v).movedBy 64 := by
      rw [bounds, voice_complete within, played.dev, voice_setVoice_same, same, voices]
    refine ⟨?_, by rw [voice]; rfl, by rw [voice]; exact state, by rw [voice]; exact current, steadies⟩
    rw [ran.carried, ran.quiet, silent, played.out]
    refine List.map_congr_left fun m _ => ?_
    unfold Device.aloneSample Device.clip
    rw [same, voices]
    have kept : (e0.settled l).segment g = d.segment g ∧ (e0.settled l).coldResets = d.coldResets ∧
        (e0.settled l).clips = d.clips := source
    rw [kept.1, kept.2.1, kept.2.2]
  case block =>
    intro d l taken settled
    exact computeBlock_eq d l taken
  case hot =>
    intro d l v x
    refine ⟨fun rests => ?_, ?_⟩
    · rcases rests with none_current | none_hot
      · exact voice_takeHot_of_none none_current
      · cases current : x.current with
        | none => exact voice_takeHot_of_none current
        | some g => exact (voice_takeHot_of_some current).trans (takeHot_of_none none_hot _)
    · intro g old current hot seg turned target
      rw [voice_takeHot_of_some current]
      by_cases turns : turned
      · rw [takeHot_of_turned hot turns]
        simp only [target, if_pos turns, turns, true_and]
        rfl
      · rw [takeHot_of_kept hot turns]
        simp only [target, if_neg turns, turns, false_and, if_false]
        rfl
  case sample =>
    intro k l v t g x f sample
    refine ⟨fun playing fading => voiceSample_of_still playing fading t, fun current plays free => ?_⟩
    cases bound : x.binding with
    | none =>
      simp only [sample, bound]
      exact voiceSample_of_silence current plays free (by rw [bound]; exact fun c => (Option.some_ne_none _).symm) 2 t
    | some b =>
      cases b with
      | clip c =>
        simp only [sample, bound]
        exact voiceSample_of_clip current plays free bound 2 t
      | stream n index =>
        simp only [sample, bound]
        exact voiceSample_of_silence current plays free (by rw [bound]; exact fun c h => Binding.noConfusion (Option.some.inj h)) 2 t
  case step =>
    intro x f e edge stop finished last
    have amp : (rampStep x.ampNow x.ampTarget x.rampLeft).1 =
        (match x.rampLeft with
          | 0 => x.ampNow
          | 1 => x.ampTarget
          | n + 2 => addVal (scaleVal (n + 1) (n + 2) x.ampNow) (scaleVal 1 (n + 2) x.ampTarget)) := by
      unfold rampStep
      rcases x.rampLeft with _ | _ | n <;> rfl
    refine ⟨?_, ?_⟩
    · have edges : x.edgeFade f = edge := by
        cases length : f.length with
        | samples n =>
          rw [edgeFade_of_samples length]
          simp only [edge, e, length]
        | untilEnd =>
          rw [edgeFade_of_untilEnd length]
          simp only [edge, e, length]
      have stops : x.stopFactor f = stop := rfl
      rw [Voice.amplitude, edges, stops]
    · rw [stepSample_eq, fade_eq]
      cases length : f.length with
      | untilEnd =>
        rw [advance_of_untilEnd (x := x.ramped) length]
        simp [finished, last, length, Voice.ramped]
        exact ⟨amp, by congr⟩
      | samples n =>
        by_cases within : x.position + 1 < n
        · rw [advance_of_within (x := x.ramped) length within]
          simp [finished, last, length, Voice.ramped, Nat.not_le.mpr within]
          exact ⟨amp, by congr⟩
        · have done := Nat.not_lt.mp within
          cases left : x.repeats with
          | endless =>
            rw [advance_of_endless (x := x.ramped) length within left]
            simp [finished, last, length, Voice.ramped, done, left]
            exact amp
          | left r =>
            by_cases more : 1 < r
            · rw [advance_of_repeat (x := x.ramped) length within left more]
              simp [finished, last, length, Voice.ramped, done, left, Nat.not_le.mpr more]
              exact amp
            · rw [advance_of_last (x := x.ramped) length within left more]
              simp [finished, last, length, Voice.ramped, done, left, Nat.not_lt.mp more]
              exact amp
  case due =>
    intro k l v t x after cause code next ended
    have events (due : x.due = .ended) : ended = x.endEvents l v x.finishCause := by
      simp only [ended, due, true_and, Voice.endEvents, finishCause_eq, code]
      split
      · split <;> rfl
      · rfl
    refine ⟨fun clear => takeDue_of_none clear t, fun due none_next => ?_, ?_⟩
    · have done : after = k.endSegment l v x.finishCause :=
        (takeDue_of_ended due).trans (finish_of_none ((chainsTo_eq x).trans none_next))
      rw [done, events due]
      exact ⟨endSegment_voice k l v _, endSegment_events k l v _⟩
    · intro g chains seg n slot granted claim
      have claims : k.dev.Claims seg.fixed claim := by
        by_cases grants : granted
        · exact .inl ⟨grants, if_pos grants⟩
        · exact .inr ⟨grants, if_neg grants⟩
      obtain ⟨m, from_, plays, told, stops⟩ : ∃ m, k.ChainsFrom l v t g m ∧
          (∀ b, (m.dev.voice l v).begins g seg b = x.playingOn g seg b (if x.due = .ended then some .complete else x.lastCause)) ∧
          m.events = k.events ++ ended ∧ ∀ e, (m.dev.voice l v).stoppedBy e = x.stoppedBy e := by
        rcases chains with ⟨due, some_next⟩ | due
        · have going : x.state ≠ .fading := fun fading => Option.some_ne_none g (some_next.symm.trans (if_pos fading))
          have complete : x.finishCause = .complete := if_neg going
          refine ⟨_, chainsFrom_ended due ((chainsTo_eq x).trans some_next), fun b => ?_, ?_, fun e => ?_⟩
          · rw [endSegment_voice, if_pos due]
            change (x.stoppedBy x.finishCause).begins g seg b = _
            rw [complete]
            rfl
          · rw [events due]
            exact endSegment_events k l v _
          · rw [endSegment_voice]
            rfl
        · have going : x.due ≠ .ended := by
            rw [due]
            exact Due.noConfusion
          refine ⟨_, chainsFrom_chain due, fun b => ?_, ?_, fun e => ?_⟩
          · rw [voice_updVoice_same, if_neg going]
            rfl
          · have nothing : ended = [] := if_neg fun h => going h.1
            rw [nothing, List.append_nil]
          · rw [voice_updVoice_same]
            rfl
      refine ⟨fun b bound => ?_, fun e failed => ?_, fun grants => from_.reader grants⟩
      · obtain ⟨voice, raised⟩ := from_.ok claims bound
        exact ⟨voice.trans (plays b), raised.trans told⟩
      · obtain ⟨voice, raised⟩ := from_.error claims failed
        refine ⟨voice.trans (stops e), raised.trans ?_⟩
        rw [told]
  case reader =>
    intro k l v t g c x f slot cause next atEnd comesToEnd held r y moved reads current plays reader
    have sampled : r = if slot.atEnd c.cell then Block.voiceSample 2 (k.finish l v t) l v t else k.readStream l v f c :=
      voiceSample_of_reader current plays reader 2 t
    have chains : x.chainsTo = next := chainsTo_eq x
    have reading (before : ¬ atEnd) : r = k.readStream l v f c := sampled.trans (if_neg fun ends => before (atEnd_iff.mp ends))
    have ended (ends : atEnd) : r = Block.voiceSample 2 (k.finish l v t) l v t := sampled.trans (if_pos (atEnd_iff.mpr ends))
    have reads_of (s : Sample) (lacking : Bool) (h : r = k.readSample l v f c s lacking) : reads s lacking := by
      obtain ⟨going, comes⟩ := readSample_spec (k := k) (l := l) (v := v) f c s lacking
      rw [← h] at going comes
      refine ⟨by rw [h]; exact readSample_contribution f c s lacking, going, fun ends => ?_⟩
      obtain ⟨reports, released, alone, chained⟩ := comes ends
      refine ⟨reports, released, ?_⟩
      cases following : x.chainsTo with
      | none =>
        rw [chains.symm.trans following]
        exact alone following
      | some h =>
        rw [chains.symm.trans following]
        exact chained h following
    refine ⟨fun before => ⟨fun samples data => ?_, fun void => ?_, fun absent fills => ?_, fun absent stalls => ?_⟩,
      fun ends none_next => ?_, fun ends _ => ?_⟩
    · exact reads_of _ _ ((reading before).trans (readStream_of_data f data))
    · exact reads_of _ _ ((reading before).trans (readStream_of_void f void))
    · exact reads_of _ _ ((reading before).trans (readStream_of_zeroFill f absent fills))
    · rw [reading before, readStream_of_stall f absent stalls]
      refine ⟨rfl, fun playing => stall_of_playing playing c, fun fading => ?_⟩
      rw [stall_of_fading fading]
      exact endSegment_voice k l v .stopped
    · rw [ended ends]
      exact voiceSample_finish (chains.trans none_next) 1 t
    · rw [ended ends]
      exact congrArg (fun m => Block.voiceSample 2 m l v t) (takeDue_of_setDue k l v t).symm
  case contribution =>
    intro amp x phase sine
    rfl
  case retry =>
    intro k l v x
    refine ⟨retry_of_state, ?_⟩
    intro c stalled reader slot atEnd
    have tried := retry_eq stalled reader
    refine ⟨fun ends => tried.trans (if_pos (atEnd_iff.mpr ends)), fun before absent => ?_, fun before held => ?_⟩
    · exact tried.trans ((if_neg fun ends => before (atEnd_iff.mp ends)).trans (if_pos absent))
    · exact tried.trans ((if_neg fun ends => before (atEnd_iff.mp ends)).trans (if_neg held))

end Sys2Proof.Machine
end

section
/-!
SUPPORT. What a lane stop leaves of the notices, the contexts that wait, the meters and the readers (R27, R28, R45, R83, R122, R145, R196).
-/
namespace Sys2Proof.Machine

/-! ## A notice in the queue (R196) -/

/-- The queue is full, or holds a notice of this kind and source with such an `aux` and `detail`. -/
def NoticeBox.tells (b : NoticeBox) (kind : NoticeKind) (source : Nat) (P : Byte → Byte → Prop) : Prop :=
  32 ≤ b.queue.length ∨ ∃ n ∈ b.queue, n.kind = kind ∧ n.source = source ∧ P n.aux n.detail

section
variable {now : Nat} {kind : NoticeKind} {source : Nat} {aux detail : Byte} {b : NoticeBox} {P : Byte → Byte → Prop}

theorem matches_iff {n : Notice} : n.matches kind source = true ↔ n.kind = kind ∧ n.source = source := by
  simp [Notice.matches]

/-- The queue after a notice: the entry of its kind and source written again, the notice joined, or the queue as it was. -/
theorem takeNotice_queue :
    (takeNotice now kind source aux detail b).queue =
      if b.queue.any (·.matches kind source) then
        b.queue.map fun n => if n.matches kind source then n.again aux detail else n
      else if b.queue.length < 32 then
        b.queue ++ [{ kind := kind, source := source, count := 1, aux := aux, detail := detail, joined := now }]
      else b.queue := by
  unfold takeNotice queueNotice
  dsimp only
  split
  · rfl
  · split <;> rfl

/-- A notice taken stands in the queue, unless the queue is full. -/
theorem tells_takeNotice_new (holds : P aux detail) : (takeNotice now kind source aux detail b).tells kind source P := by
  unfold NoticeBox.tells
  rw [takeNotice_queue]
  by_cases present : b.queue.any (·.matches kind source) = true
  · rw [if_pos present]
    obtain ⟨n, member, same⟩ := List.any_eq_true.mp present
    obtain ⟨kinds, sources⟩ := matches_iff.mp same
    exact .inr ⟨n.again aux detail, List.mem_map.mpr ⟨n, member, if_pos same⟩, kinds, sources, holds⟩
  · rw [if_neg present]
    by_cases room : b.queue.length < 32
    · rw [if_pos room]
      exact .inr ⟨_, List.mem_append_right _ List.mem_cons_self, rfl, rfl, holds⟩
    · rw [if_neg room]
      exact .inl (Nat.not_lt.mp room)

/-- A notice that stands in the queue stays there as others are taken: one of its own kind and source that still says the same. -/
theorem tells_takeNotice {kind' : NoticeKind} {source' : Nat} (h : b.tells kind' source' P)
    (again : kind = kind' → source = source' → P aux detail) : (takeNotice now kind source aux detail b).tells kind' source' P := by
  unfold NoticeBox.tells
  rw [takeNotice_queue]
  by_cases present : b.queue.any (·.matches kind source) = true
  · rw [if_pos present]
    refine h.imp (fun full => by rw [List.length_map]; exact full) fun ⟨n, member, kinds, sources, holds⟩ => ?_
    by_cases same : n.matches kind source = true
    · obtain ⟨kinds', sources'⟩ := matches_iff.mp same
      exact ⟨n.again aux detail, List.mem_map.mpr ⟨n, member, if_pos same⟩, kinds, sources,
        again (kinds'.symm.trans kinds) (sources'.symm.trans sources)⟩
    · exact ⟨n, List.mem_map.mpr ⟨n, member, if_neg same⟩, kinds, sources, holds⟩
  · rw [if_neg present]
    split
    · refine h.imp (fun full => by rw [List.length_append]; omega) fun ⟨n, member, rest⟩ => ?_
      exact ⟨n, List.mem_append_left _ member, rest⟩
    · exact h

end

/-! ## Selection and the contexts that wait (R129, R130, R144) -/

/-- The contexts that wait on a lane. -/
def Cue.waiting (c : Cue) (l : Fin 8) : List Context := c.stack.filter (·.waitsOn l)

/-- What a change of the Cue Engine keeps: the contexts that wait, and the notice flags of the Event Map. -/
structure Cue.Stands (c e : Cue) : Prop where
  waiting : ∀ l, e.waiting l = c.waiting l
  notice : ∀ k, (e.map.get k).notice = (c.map.get k).notice

theorem Cue.Stands.refl (c : Cue) : c.Stands c := ⟨fun _ => rfl, fun _ => rfl⟩

theorem Cue.Stands.trans {a b c : Cue} (h : a.Stands b) (g : b.Stands c) : a.Stands c :=
  ⟨fun l => (g.waiting l).trans (h.waiting l), fun k => (g.notice k).trans (h.notice k)⟩

theorem stands_push (c : Cue) (k : Fin 126) : c.Stands (c.push k) := by
  unfold Cue.push
  split
  · exact .refl c
  · refine ⟨fun l => rfl, fun j => ?_⟩
    dsimp only
    unfold change
    rw [get_put]
    split
    · rename_i same
      rw [same]
      dsimp only
      split <;> rfl
    · rfl

theorem stands_selectN (fuel : Nat) (c : Cue) : c.Stands (c.selectN fuel) := by
  induction fuel generalizing c with
  | zero => exact .refl c
  | succ fuel ih =>
    unfold Cue.selectN
    split
    · exact .refl c
    · exact (stands_push c _).trans (ih _)

theorem stands_mark (c : Cue) (k : Fin 126) (level : Nat) (list : Fin 256) (detail : Byte) :
    c.Stands (c.mark k level list detail) := by
  unfold Cue.mark
  split
  · exact Cue.Stands.trans (b := { c with
      pending := put c.pending k (some { level := level, list := list, detail := detail, merge := 0 }) })
      ⟨fun _ => rfl, fun _ => rfl⟩ (stands_selectN 4 _)
  · exact ⟨fun _ => rfl, fun _ => rfl⟩

/-! ## Events while the voices of a lane stop (R27, R28, R83, R122) -/

/-- VOICE_END with cause STOPPED is told. -/
def Device.tellsStop (d : Device) (l : Fin 8) (v : Fin 4) : Prop :=
  d.notices.tells .event (srcVoiceEnd l v).val fun _ detail => detail = 1

/-- From `d` to `e` voices stop: meters, notice flags and waiting contexts stand, no reader joins, and a stop told stays told. -/
structure Device.Stops (d e : Device) : Prop where
  meters : e.meters = d.meters
  stands : d.cue.Stands e.cue
  readers : ∀ n, (e.slot n).readers.Sublist (d.slot n).readers
  told : ∀ l v, d.tellsStop l v → e.tellsStop l v

theorem Device.Stops.refl (d : Device) : d.Stops d := ⟨rfl, .refl _, fun _ => .refl _, fun _ _ => id⟩

theorem Device.Stops.trans {a b c : Device} (h : a.Stops b) (g : b.Stops c) : a.Stops c :=
  ⟨g.meters.trans h.meters, h.stands.trans g.stands, fun n => (g.readers n).trans (h.readers n),
    fun l v told => g.told l v (h.told l v told)⟩

/-- A change that leaves meters, cues and notices, and adds no reader. -/
theorem stops_of_same {d e : Device} (meters : e.meters = d.meters) (cue : e.cue = d.cue) (notices : e.notices = d.notices)
    (readers : ∀ n, (e.slot n).readers.Sublist (d.slot n).readers) : d.Stops e :=
  ⟨meters, by rw [cue]; exact .refl _, readers, fun l v => by unfold Device.tellsStop; rw [notices]; exact id⟩

theorem voiceEnd_ne_streamEnd (l : Fin 8) (v : Fin 4) (n : Fin 16) : srcStreamEnd n ≠ srcVoiceEnd l v := by
  intro same
  have values := congrArg Fin.val same
  simp only [srcStreamEnd, srcVoiceEnd] at values
  omega

theorem raise_notices (d : Device) (k : Fin 126) (detail : Byte) :
    (d.raise k detail).notices =
      if (d.cue.map.get k).notice then
        takeNotice d.now .event k.val (BitVec.ofNat 8 (d.cue.map.get k).effective) detail d.notices
      else d.notices := by
  have told : (if (d.cue.map.get k).notice then
      d.handNotice .event k.val (BitVec.ofNat 8 (d.cue.map.get k).effective) detail else d).notices =
      if (d.cue.map.get k).notice then
        takeNotice d.now .event k.val (BitVec.ofNat 8 (d.cue.map.get k).effective) detail d.notices
      else d.notices := by
    split <;> rfl
  unfold Device.raise
  dsimp only
  rw [← told]
  generalize (if (d.cue.map.get k).notice then
    d.handNotice .event k.val (BitVec.ofNat 8 (d.cue.map.get k).effective) detail else d) = e
  split
  · rfl
  · split <;> rfl

theorem stands_raise (d : Device) (k : Fin 126) (detail : Byte) : d.cue.Stands (d.raise k detail).cue := by
  have same : (if (d.cue.map.get k).notice then
      d.handNotice .event k.val (BitVec.ofNat 8 (d.cue.map.get k).effective) detail else d).cue = d.cue := by
    split <;> rfl
  unfold Device.raise
  dsimp only
  split
  · rw [same]
    exact .refl _
  · split
    · dsimp only
      rw [same]
      exact stands_mark ..
    · rw [same]
      exact .refl _

/-- An event that is no VOICE_END, or one with cause STOPPED. -/
theorem stops_raise (d : Device) {k : Fin 126} {detail : Byte} (stopped : ∀ l v, k = srcVoiceEnd l v → detail = 1) :
    d.Stops (d.raise k detail) := by
  refine ⟨raise_meters .., stands_raise .., fun n => ?_, fun l v told => ?_⟩
  · exact sublist_of_eq (congrArg (fun k : Intake => (k.slots.get n).readers) (raise_intake d k detail))
  · unfold Device.tellsStop
    rw [raise_notices]
    split
    · exact tells_takeNotice told fun _ same => stopped l v (Fin.ext same)
    · exact told

/-- A VOICE_END with cause STOPPED is told where its map entry has the notice flag. -/
theorem tellsStop_raise {d : Device} {l : Fin 8} {v : Fin 4} (flag : (d.cue.map.get (srcVoiceEnd l v)).notice = true) :
    (d.raise (srcVoiceEnd l v) 1).tellsStop l v := by
  unfold Device.tellsStop
  rw [raise_notices, if_pos flag]
  exact tells_takeNotice_new rfl

theorem stops_shutSlot (d : Device) (n : Fin 16) (state : SlotState) (cause : Option StreamCause) :
    d.Stops (d.shutSlot n state cause) := stops_of_same rfl rfl rfl fun m => by
  unfold Device.slot Device.shutSlot
  dsimp only
  rw [slots_shut, get_put]
  split
  · exact List.nil_sublist _
  · exact .refl _

theorem stops_endTest (d : Device) (n : Fin 16) : d.Stops (d.endTest n) := by
  unfold Device.endTest
  dsimp only
  split
  · refine (stops_shutSlot ..).trans (stops_raise _ fun l v same => ?_)
    exact absurd same (voiceEnd_ne_streamEnd l v n)
  · exact .refl d

theorem stops_settleSlot (d : Device) (n : Fin 16) : d.Stops (d.settleSlot n) := by
  obtain ⟨k, hold, settled, slots⟩ := slots_settled d n
  have moved : d.Stops { d with intake := k } := stops_of_same rfl rfl rfl fun m => by
    unfold Device.slot
    dsimp only
    rw [slots, get_put]
    split
    · rename_i same
      subst same
      dsimp only
      rw [recompute_readers]
      exact .refl _
    · exact .refl _
  rw [settled]
  exact moved.trans (stops_endTest ..)

theorem stops_releaseReader (d : Device) (n : Fin 16) (index : Nat) : d.Stops (d.releaseReader n index) := by
  unfold Device.releaseReader
  split
  · exact .refl d
  · rename_i r _
    have left : d.Stops (d.setSlot n ((d.slot n).leave r)) := stops_of_same rfl rfl rfl fun m => by
      by_cases same : m = n
      · subst same
        rw [slot_setSlot_same]
        exact List.filter_sublist
      · exact sublist_of_eq (congrArg Slot.readers (slot_setSlot_of_ne _ _ same))
    exact left.trans (stops_settleSlot ..)

theorem stops_releaseBinding (d : Device) (l : Fin 8) (v : Fin 4) : d.Stops (d.releaseBinding l v) := by
  unfold Device.releaseBinding
  split
  · exact stops_releaseReader ..
  · exact .refl d
  · exact .refl d

theorem stops_releaseClaim (d : Device) (p : PendingStart) : d.Stops (d.releaseClaim p) := by
  unfold Device.releaseClaim
  split
  · exact .refl d
  · exact stops_releaseReader ..

/-- A change of lanes alone. -/
theorem stops_of_lanes (d : Device) (lanes : Vector Lane 8) : d.Stops { d with lanes := lanes } :=
  stops_of_same rfl rfl rfl fun _ => .refl _

theorem stops_raise_stopped (d : Device) (l : Fin 8) (v : Fin 4) : d.Stops (d.raise (srcVoiceEnd l v) 1) :=
  stops_raise d fun _ _ _ => rfl

theorem raiseAll_voiceEnd (d : Device) (l : Fin 8) (v : Fin 4) :
    d.raiseAll [voiceEndEvent l v .stopped] = d.raise (srcVoiceEnd l v) 1 := rfl

end Sys2Proof.Machine
end

section
/-!
SUPPORT. LANE_STOP settled: the voices of the lane, its meter, and the contexts that wait on it (R27, R28, R45, R145).
-/
namespace Sys2Proof.Machine

/-! ## A voice that stops (R27, R28) -/

theorem reader_of_sublist {x y : Slot} (fewer : y.readers.Sublist x.readers) {i : Nat} (gone : x.reader i = none) : y.reader i = none :=
  List.find?_eq_none.mpr fun r member => List.find?_eq_none.mp gone r (fewer.subset member)

theorem Device.Stops.reader {d e : Device} (h : d.Stops e) {n : Fin 16} {i : Nat} (gone : (d.slot n).reader i = none) :
    (e.slot n).reader i = none := reader_of_sublist (h.readers n) gone

/-- A reader released is none of its slot's (R83). -/
theorem reader_releaseReader (d : Device) (n : Fin 16) (i : Nat) : ((d.releaseReader n i).slot n).reader i = none := by
  refine List.find?_eq_none.mpr fun r member => ?_
  have other := (List.mem_filter.mp ((readers_releaseReader d n i).subset member)).2
  simpa using other

section
variable (d : Device) (l : Fin 8) (v : Fin 4)

/-- The end of a segment, by what the voice has (R27). -/
theorem endSegment_of_current {d : Device} {l : Fin 8} {v : Fin 4} (c : EndCause) (has : (d.voice l v).current.isSome = true) :
    d.endSegment l v c =
      if (d.voice l v).endEvent then ((d.releaseBinding l v).updVoice l v (·.ended c)).raiseAll [voiceEndEvent l v c]
      else (d.releaseBinding l v).updVoice l v (·.ended c) := if_pos has

theorem stops_updVoice (f : Voice → Voice) : d.Stops (d.updVoice l v f) := stops_of_lanes ..

theorem stops_ended : d.Stops ((d.releaseBinding l v).updVoice l v (·.ended .stopped)) :=
  (stops_releaseBinding d l v).trans (stops_updVoice ..)

theorem stops_endSegment : d.Stops (d.endSegment l v .stopped) := by
  unfold Device.endSegment
  dsimp only
  split
  · split
    · exact (stops_ended d l v).trans (stops_raise_stopped ..)
    · exact stops_ended d l v
  · split
    · exact stops_of_lanes ..
    · exact .refl d

theorem stops_cancelled (p : PendingStart) : d.Stops (((d.unschedule l v).releaseClaim p).updVoice l v (·.cancelled .stopped)) :=
  ((stops_of_lanes d _).trans (stops_releaseClaim (d.unschedule l v) p)).trans (stops_updVoice ..)

theorem stops_cancelStart : d.Stops (d.cancelStart l v .stopped) := by
  unfold Device.cancelStart
  split
  · exact .refl d
  · exact (stops_cancelled d l v _).trans (stops_raise_stopped ..)

theorem stops_stopSome (vs : List (Fin 4)) : d.Stops (d.stopSome l vs) := by
  induction vs generalizing d with
  | nil => exact .refl d
  | cons v vs ih => exact ((stops_endSegment d l v).trans (stops_cancelStart ..)).trans (ih _)

end

section
variable {d : Device} {l : Fin 8} {v : Fin 4}

/-- A segment that ends releases its reader, and its VOICE_END is told (R27). -/
theorem endSegment_tells (has : (d.voice l v).current.isSome = true) :
    (∀ n i, (d.voice l v).binding = some (.stream n i) → ((d.endSegment l v .stopped).slot n).reader i = none) ∧
      ((d.voice l v).hot.any Hot.endEvent = true → (d.cue.map.get (srcVoiceEnd l v)).notice = true →
        (d.endSegment l v .stopped).tellsStop l v) := by
  rw [endSegment_of_current .stopped has]
  refine ⟨fun n i bound => ?_, fun event flag => ?_⟩
  · have released : ((d.releaseBinding l v).slot n).reader i = none := by
      unfold Device.releaseBinding
      rw [bound]
      exact reader_releaseReader d n i
    split
    · exact ((stops_of_lanes (d.releaseBinding l v) _).trans (stops_raise_stopped _ l v)).reader released
    · exact released
  · rw [if_pos ((endEvent_eq _).trans event)]
    exact tellsStop_raise (((stops_ended d l v).stands.notice _).trans flag)

/-- A cancelled start releases its reader, and its VOICE_END is told (R28). -/
theorem cancelStart_tells {p : PendingStart} (has : (d.voice l v).pending = some p) :
    (∀ n i, p.claim = some (n, i) → ((d.cancelStart l v .stopped).slot n).reader i = none) ∧
      ((d.cue.map.get (srcVoiceEnd l v)).notice = true → (d.cancelStart l v .stopped).tellsStop l v) := by
  unfold Device.cancelStart
  rw [has]
  dsimp only
  refine ⟨fun n i claim => ?_, fun flag => ?_⟩
  · have released : (((d.unschedule l v).releaseClaim p).slot n).reader i = none := by
      unfold Device.releaseClaim
      rw [claim]
      exact reader_releaseReader ..
    exact ((stops_of_lanes ((d.unschedule l v).releaseClaim p) _).trans (stops_raise_stopped _ l v)).reader released
  · exact tellsStop_raise (((stops_cancelled d l v p).stands.notice _).trans flag)

/-- What LANE_STOP does for one voice of the lane: its readers are released and its VOICE_END is told (R27, R28, R45). -/
structure Device.Ends (d e : Device) (l : Fin 8) (v : Fin 4) : Prop where
  bound : ∀ n i, (d.voice l v).current.isSome = true → (d.voice l v).binding = some (.stream n i) → (e.slot n).reader i = none
  claimed : ∀ q n i, (d.voice l v).pending = some q → q.claim = some (n, i) → (e.slot n).reader i = none
  told : (d.voice l v).current.isSome = true ∧ (d.voice l v).hot.any Hot.endEvent = true ∨ (d.voice l v).pending.isSome = true →
    (d.cue.map.get (srcVoiceEnd l v)).notice = true → e.tellsStop l v

theorem Device.Ends.later {d e f : Device} {l : Fin 8} {v : Fin 4} (h : d.Ends e l v) (later : e.Stops f) : d.Ends f l v :=
  ⟨fun n i has bound => later.reader (h.bound n i has bound), fun q n i has claim => later.reader (h.claimed q n i has claim),
    fun has flag => later.told l v (h.told has flag)⟩

theorem ends_stopped (d : Device) (l : Fin 8) (v : Fin 4) : d.Ends ((d.endSegment l v .stopped).cancelStart l v .stopped) l v := by
  have cancels := stops_cancelStart (d.endSegment l v .stopped) l v
  have pending : ((d.endSegment l v .stopped).voice l v).pending = (d.voice l v).pending := by
    rw [voice_endSegment_same, pending_afterEnd]
  have flags := (stops_endSegment d l v).stands.notice (srcVoiceEnd l v)
  refine ⟨fun n i has bound => cancels.reader ((endSegment_tells has).1 n i bound), fun q n i has claim => ?_, fun has flag => ?_⟩
  · exact (cancelStart_tells (pending.trans has)).1 n i claim
  · rcases has with ⟨has, event⟩ | has
    · exact cancels.told l v ((endSegment_tells has).2 event flag)
    · obtain ⟨q, some_start⟩ := Option.isSome_iff_exists.mp has
      exact (cancelStart_tells (pending.trans some_start)).2 (flags.trans flag)

theorem ends_stopVoices (d : Device) (l : Fin 8) (v : Fin 4) : d.Ends (d.stopVoices l) l v := by
  obtain ⟨before, after, split, notBefore, -⟩ := finRange_split v
  have same : (d.stopSome l before).voice l v = d.voice l v := voice_stopSome_other d l before (.inr notBefore)
  have flags := (stops_stopSome d l before).stands.notice (srcVoiceEnd l v)
  have ends := (ends_stopped (d.stopSome l before) l v).later (stops_stopSome _ l after)
  have whole : d.stopVoices l =
      (((d.stopSome l before).endSegment l v .stopped).cancelStart l v .stopped).stopSome l after := by
    rw [stopVoices_eq, split, Device.stopSome, List.foldl_append]
    rfl
  rw [whole]
  obtain ⟨bound, claimed, told⟩ := ends
  rw [same] at bound claimed told
  rw [flags] at told
  exact ⟨bound, claimed, told⟩

end

/-! ## The contexts that wait on the lane (R145) -/

/-- The lowest context that waits, in its place. -/
theorem lowestWaiting_split {l : Fin 8} {cs : List Context} {c : Context} {rest : List Context}
    (h : lowestWaiting l cs = some (c, rest)) :
    ∃ before after, cs = before ++ c :: after ∧ rest = before ++ after ∧ c.waitsOn l = true := by
  induction cs generalizing c rest with
  | nil => cases h
  | cons x xs ih =>
    unfold lowestWaiting at h
    split at h
    · rename_i y ys found
      obtain ⟨rfl, rfl⟩ := Prod.mk.inj (Option.some.inj h)
      obtain ⟨before, after, whole, left, waits⟩ := ih found
      exact ⟨x :: before, after, by rw [whole]; rfl, by rw [left]; rfl, waits⟩
    · split at h
      · obtain ⟨rfl, rfl⟩ := Prod.mk.inj (Option.some.inj h)
        exact ⟨[], _, rfl, rfl, ‹_›⟩
      · cases h

theorem lowestWaiting_none {l : Fin 8} {cs : List Context} (h : lowestWaiting l cs = none) : cs.filter (·.waitsOn l) = [] := by
  induction cs with
  | nil => rfl
  | cons x xs ih =>
    unfold lowestWaiting at h
    split at h
    · cases h
    · rename_i none_below
      split at h
      · cases h
      · rw [List.filter_cons_of_neg ‹_›]
        exact ih none_below

/-- A CUE_FAULT of a context aborted: LANE_STOPPED, with the index of the WAIT of one of these contexts of the list. -/
def aborts (waiting : List Context) (list : Fin 256) (aux detail : Byte) : Prop :=
  detail = 0x08 ∧ ∃ c ∈ waiting, c.list = list ∧ aux = BitVec.ofNat 8 (c.index - 1)

/-- CUE_FAULT of a context of the list is told. -/
def Device.tellsAbort (d : Device) (waiting : List Context) (list : Fin 256) : Prop :=
  d.notices.tells .cueFault list.val (aborts waiting list)

/-- What the abort of a lane's contexts leaves. -/
structure Device.Aborts (d e : Device) (waiting : List Context) : Prop where
  meters : e.meters = d.meters
  intake : e.intake = d.intake
  ended : ∀ m v, d.tellsStop m v → e.tellsStop m v
  aborted : ∀ list, d.tellsAbort waiting list → e.tellsAbort waiting list

theorem Device.Aborts.refl (d : Device) (waiting : List Context) : d.Aborts d waiting :=
  ⟨rfl, rfl, fun _ _ => id, fun _ => id⟩

theorem Device.Aborts.trans {a b c : Device} {waiting : List Context} (h : a.Aborts b waiting)
    (g : b.Aborts c waiting) : a.Aborts c waiting :=
  ⟨g.meters.trans h.meters, g.intake.trans h.intake, fun m v told => g.ended m v (h.ended m v told),
    fun list told => g.aborted list (h.aborted list told)⟩

/-- One abort, of a context of those that wait. -/
theorem aborts_abortContext (d : Device) {waiting : List Context} {c : Context} (member : c ∈ waiting) (rest : List Context) :
    d.Aborts (d.abortContext c rest) waiting ∧ (d.abortContext c rest).tellsAbort waiting c.list := by
  have holds : aborts waiting c.list (BitVec.ofNat 8 (c.index - 1)) (resultCode .laneStopped) := ⟨rfl, c, member, rfl, rfl⟩
  refine ⟨⟨rfl, rfl, fun m v told => tells_takeNotice told fun same => NoticeKind.noConfusion same,
    fun list told => tells_takeNotice told fun _ same => ?_⟩, tells_takeNotice_new holds⟩
  rw [← Fin.ext same]
  exact holds

theorem waiting_abortContext {d : Device} {l : Fin 8} {c : Context} {rest : List Context}
    (found : lowestWaiting l d.cue.stack = some (c, rest)) :
    ∃ before after, d.cue.waiting l = before ++ c :: after ∧ (d.abortContext c rest).cue.waiting l = before ++ after := by
  obtain ⟨before, after, whole, left, waits⟩ := lowestWaiting_split found
  have selected := (stands_selectN 4 { d.cue with stack := rest }).waiting l
  refine ⟨before.filter (·.waitsOn l), after.filter (·.waitsOn l), ?_, selected.trans ?_⟩
  · rw [Cue.waiting, whole, List.filter_append, List.filter_cons_of_pos (p := fun x : Context => x.waitsOn l) waits]
  · rw [Cue.waiting]
    dsimp only
    rw [left, List.filter_append]

/-- Every context that waits is aborted, and each is told (R145). -/
theorem abortWaiting_spec (fuel : Nat) (d : Device) (l : Fin 8) {waiting : List Context} (known : ∀ c ∈ d.cue.waiting l, c ∈ waiting)
    (enough : (d.cue.waiting l).length ≤ fuel) :
    d.Aborts (Device.abortWaiting fuel d l) waiting ∧ (Device.abortWaiting fuel d l).cue.waiting l = [] ∧
      ∀ c ∈ d.cue.waiting l, (Device.abortWaiting fuel d l).tellsAbort waiting c.list := by
  induction fuel generalizing d with
  | zero =>
    have none_waits := List.eq_nil_of_length_eq_zero (Nat.le_zero.mp enough)
    refine ⟨.refl .., none_waits, fun c member => ?_⟩
    rw [none_waits] at member
    exact absurd member List.not_mem_nil
  | succ fuel ih =>
    unfold Device.abortWaiting
    split
    · rename_i none_found
      have none_waits := lowestWaiting_none none_found
      refine ⟨.refl .., none_waits, fun c member => ?_⟩
      rw [Cue.waiting, none_waits] at member
      exact absurd member List.not_mem_nil
    · rename_i c rest found
      obtain ⟨before, after, whole, left⟩ := waiting_abortContext found
      obtain ⟨first, told⟩ := aborts_abortContext d (known c (by rw [whole]; exact List.mem_append_right _ List.mem_cons_self)) rest
      generalize d.abortContext c rest = e at left first told
      rw [whole, List.length_append, List.length_cons] at enough
      obtain ⟨later, nothing, others⟩ := ih e
        (fun x member => known x (by
          rw [left, List.mem_append] at member
          rw [whole, List.mem_append, List.mem_cons]
          exact member.imp_right .inr))
        (by rw [left, List.length_append]; omega)
      refine ⟨first.trans later, nothing, fun x member => ?_⟩
      rw [whole, List.mem_append, List.mem_cons] at member
      rcases member with early | rfl | late
      · exact others x (by rw [left]; exact List.mem_append_left _ early)
      · exact later.aborted _ told
      · exact others x (by rw [left]; exact List.mem_append_right _ late)

/-! ## LANE_STOP (R45) -/

theorem stops_stopMarkers (d : Device) (l : Fin 8) : d.Stops (d.stopMarkers l) := by
  unfold Device.stopMarkers
  dsimp only
  split
  · exact stops_of_same rfl rfl rfl fun _ => .refl _
  · exact stops_of_same rfl rfl rfl fun _ => .refl _

/-- The stop of a lane before its meter and its contexts. -/
def Device.silenced (d : Device) (l : Fin 8) : Device := ((d.stopVoices l).stopMarkers l).updLane l Lane.stopped

theorem stops_silenced (d : Device) (l : Fin 8) : (d.stopVoices l).Stops (d.silenced l) :=
  (stops_stopMarkers ..).trans (stops_of_lanes ..)

/-- The stop of a lane with its meter IDLE, before its contexts. -/
def Device.unmetered (d : Device) (l : Fin 8) : Device :=
  if (d.meter l).state = .idle then d else d.setMeter l (d.meter l).stop

theorem stopLane_eq (d : Device) (l : Fin 8) :
    d.stopLane l = Device.abortWaiting ((d.silenced l).unmetered l).cue.stack.length ((d.silenced l).unmetered l) l := by
  unfold Device.stopLane Device.unmetered Device.silenced
  rfl

theorem unmetered_same (d : Device) (l : Fin 8) :
    (d.unmetered l).cue = d.cue ∧ (d.unmetered l).notices = d.notices ∧ (d.unmetered l).intake = d.intake := by
  unfold Device.unmetered
  split
  · exact ⟨rfl, rfl, rfl⟩
  · exact ⟨rfl, rfl, rfl⟩

theorem meter_unmetered (d : Device) (l : Fin 8) :
    ((d.unmetered l).meter l).state = .idle ∧ ∀ m, m ≠ l → (d.unmetered l).meter m = d.meter m := by
  unfold Device.unmetered
  split
  · exact ⟨‹_›, fun _ _ => rfl⟩
  · refine ⟨?_, fun m other => get_put_of_ne _ _ other⟩
    have same : (d.setMeter l (d.meter l).stop).meter l = (d.meter l).stop := get_put_same ..
    rw [same]
    rfl

/-- What a lane stop leaves of the lane's meter, of the contexts that wait on it and of its voices' readers and notices. -/
theorem stopLane_spec (d : Device) (l : Fin 8) :
    (∀ v, d.Ends (d.stopLane l) l v) ∧
      (((d.stopLane l).meter l).state = .idle ∧ ∀ m, m ≠ l → (d.stopLane l).meter m = d.meter m) ∧
      (d.stopLane l).cue.waiting l = [] ∧
      ∀ c ∈ d.cue.waiting l, (d.stopLane l).tellsAbort (d.cue.waiting l) c.list := by
  have stops : d.Stops (d.silenced l) := (stops_stopSome d l _).trans (stops_silenced d l)
  have ends (v : Fin 4) := (ends_stopVoices d l v).later (stops_silenced d l)
  have meters := meter_unmetered (d.silenced l) l
  obtain ⟨cue, notices, intake⟩ := unmetered_same (d.silenced l) l
  have waiting := stops.stands.waiting l
  have before (m : Fin 8) : (d.silenced l).meter m = d.meter m := by rw [Device.meter, stops.meters]; rfl
  obtain ⟨aborts, nothing, told⟩ := abortWaiting_spec ((d.silenced l).unmetered l).cue.stack.length ((d.silenced l).unmetered l) l
    (waiting := d.cue.waiting l) (fun c member => by rwa [cue, waiting] at member) (List.length_filter_le ..)
  rw [← stopLane_eq] at aborts nothing told
  rw [cue, waiting] at told
  have meter (m : Fin 8) : (d.stopLane l).meter m = ((d.silenced l).unmetered l).meter m := by
    unfold Device.meter
    rw [aborts.meters]
  have slot (n : Fin 16) : (d.stopLane l).slot n = (d.silenced l).slot n := by
    unfold Device.slot
    rw [aborts.intake, intake]
  refine ⟨fun v => ⟨fun n i has bound => ?_, fun q n i has claim => ?_, fun has flag => ?_⟩, ⟨?_, fun m other => ?_⟩, nothing, told⟩
  · rw [slot]
    exact (ends v).bound n i has bound
  · rw [slot]
    exact (ends v).claimed q n i has claim
  · refine aborts.ended l v ?_
    unfold Device.tellsStop
    rw [notices]
    exact (ends v).told has flag
  · rw [meter]
    exact meters.1
  · rw [meter, meters.2 m other, before]

theorem current_afterStop (x : Voice) : x.afterStop.current = none := by
  rw [Voice.afterStop, current_afterCancel, current_afterEnd]

theorem lastCause_afterStop {x : Voice} (has : x.current.isSome = true ∨ x.pending.isSome = true) :
    x.afterStop.lastCause = some .stopped := by
  unfold Voice.afterStop Voice.afterCancel
  rw [pending_afterEnd]
  split
  · rfl
  · unfold Voice.afterEnd
    rw [if_pos (has.resolve_right ‹_›)]
    rfl

/-- Settles O18: the stop of a lane that is not STOPPED, part by part. -/
theorem laneStopStopsEverythingOfTheLane : Obligations.LaneStopStopsEverythingOfTheLane := by
  unfold Obligations.LaneStopStopsEverythingOfTheLane
  intro via s p ask long d
  refine ⟨fun h => exec_refuses rfl ask (onLane_of_no_lane long h), fun l hl => ?_⟩
  have out : opLaneStop (callerOf via s) p (begun via s) = if (d.lane l).state = .stopped then done d else done (d.stopLane l) :=
    onLane_of_lane long hl
  refine ⟨fun stopped => exec_does rfl ask (out.trans (if_pos stopped)), fun going =>
    ⟨d.stopLane l, exec_does rfl ask (out.trans (if_neg going)), ?_⟩⟩
  obtain ⟨ends, ⟨meter, meters⟩, nothing, told⟩ := stopLane_spec d l
  have voice (v : Fin 4) := voice_stopLane d l v
  have lane := lane_stopLane_same d l
  have lanes (m : Fin 8) (other : m ≠ l) := lane_stopLane_other d other
  have markers := stopLane_marker d l
  have steadies := steadies_of_plays (plays_stopLane d l)
  rw [lane_stopVoices_same] at lane
  generalize d.stopLane l = e at *
  refine ⟨?record, fun v => ?_, meter, fun c member => ?_, fun v => ⟨fun has => ?_, (ends v).bound, (ends v).claimed, (ends v).told⟩,
    fun c member waits => ?_, fun m other => ⟨lanes m other, meters m other⟩, markers, steadies⟩
  case record =>
    intro x y
    have record : y = _ := lane
    rw [record]
    exact ⟨rfl, rfl, rfl, rfl, rfl, rfl, rfl, rfl, rfl, rfl, rfl, rfl, rfl, rfl, rfl, rfl, rfl, rfl, rfl⟩
  · rw [voice]
    exact ⟨current_afterStop _, pending_afterCancel ..⟩
  · exact Bool.eq_false_iff.mpr (List.filter_eq_nil_iff.mp nothing c member)
  · rw [voice]
    exact lastCause_afterStop has
  · refine (told c (List.mem_filter.mpr ⟨member, waits⟩)).imp_right fun ⟨n, stands, kind, source, detail, c', among, list, aux⟩ => ?_
    obtain ⟨member', waits'⟩ := List.mem_filter.mp among
    exact ⟨n, stands, kind, source, detail, c', member', waits', list, aux⟩

end Sys2Proof.Machine
end

section
/-!
SUPPORT. No operation writes clip memory (R101): what each leaves of it, whoever invokes it.
-/
namespace Sys2Proof.Machine

/-- What a read of clip memory depends on: its bytes, and the cold resets so far (R101). -/
def Device.archive (d : Device) : Nat × List Host.Cell := (d.coldResets, d.clips.memory)

theorem archive_of_plays {d e : Device} (h : d.Plays e) : e.archive = d.archive := by
  rw [Device.archive, h.coldResets, h.clips]
  rfl

/-- An operation leaves clip memory, whoever invokes it. -/
def Remembers (op : Op) : Prop := ∀ (c : Caller) (p : List Byte) (s : State), (op c p s).dev.archive = s.dev.archive

theorem remembers_needs {n : Nat} {op : Op} (h : Remembers op) : Remembers (needs n op) := fun c p s => by
  unfold needs
  split
  · rfl
  · exact h c p s

theorem remembers_onLane {f : State → Fin 8 → OpOut} (h : ∀ (s : State) l, (f s l).dev.archive = s.dev.archive) :
    Remembers (onLane f) := remembers_needs fun _ p s => by
  split
  · rfl
  · exact h s _

theorem remembers_onSource {f : State → Fin 126 → OpOut} (h : ∀ (s : State) k, (f s k).dev.archive = s.dev.archive) :
    Remembers (onSource f) := remembers_needs fun _ p s => by
  split
  · rfl
  · exact h s _

theorem remembers_onClip {f : State → Fin 256 → OpOut} (h : ∀ (s : State) c, (f s c).dev.archive = s.dev.archive) :
    Remembers (onClip f) := remembers_needs fun _ p s => by
  split
  · rfl
  · exact h s _

/-! ## Entries and starts (R12 to R14, R40) -/

theorem archive_placeEntry (s : State) (l : Fin 8) (w : When) (kind : EntryKind) :
    (placeEntry s l w kind).dev.archive = s.dev.archive := by
  unfold placeEntry
  repeat' split
  all_goals rfl

theorem archive_acceptStart (d : Device) (l : Fin 8) (v : Fin 4) (g : Fin 1024) (w : When) :
    (d.acceptStart l v g w).archive = d.archive := by
  rw [acceptStart_eq]
  exact archive_of_plays (((plays_replaceStart ..).trans (plays_claimFor ..)).trans (plays_of_lanes rfl))

theorem remembers_voiceStart : Remembers opVoiceStart := remembers_needs fun c p s => by
  split
  · rfl
  · split
    · rfl
    · split
      · split
        · rfl
        · split
          · rfl
          · exact archive_acceptStart ..
      · rfl

theorem remembers_voiceStop : Remembers opVoiceStop := remembers_needs fun c p s => by
  split
  · split
    · rfl
    · split
      · exact archive_placeEntry ..
      · rfl
  · rfl

theorem remembers_voiceGain : Remembers opVoiceGain := remembers_needs fun c p s => by
  split
  · rfl
  · split
    · rfl
    · split
      · split
        · exact archive_placeEntry ..
        · rfl
      · rfl

/-! ## Lanes, streams and contexts that an operation stops (R45, R63, R145) -/

theorem remembers_laneStop : Remembers opLaneStop := remembers_onLane fun s l => by
  split
  · rfl
  · rw [done_dev]
    exact archive_of_plays (plays_stopLane s.dev l)

theorem archive_closeStream (s : State) (n : Fin 16) (force : Bool) : (closeStream s n force).dev.archive = s.dev.archive := by
  unfold closeStream
  dsimp only
  split
  · rfl
  · split
    · rfl
    · rw [done_dev]
      exact archive_of_plays (plays_closeSlot ..)

theorem remembers_streamClose : Remembers opStreamClose := remembers_needs fun c p s => by
  split
  · rfl
  · exact archive_closeStream ..

theorem remembers_wait : Remembers opWait := remembers_needs fun c p s => by
  split
  · rfl
  · unfold waitOn
    dsimp only
    repeat' split
    all_goals rfl

theorem remembers_cueRaise : Remembers opCueRaise := remembers_needs fun c p s => by
  split
  · rfl
  · exact archive_of_plays (plays_raise ..)

theorem remembers_laneResume : Remembers opLaneResume := remembers_onLane fun s l => by
  unfold Device.resumeLane
  dsimp only
  repeat' split
  all_goals rfl

theorem remembers_laneArm : Remembers opLaneArm := remembers_needs fun c p s => by
  unfold armLane
  repeat' split
  all_goals rfl

theorem remembers_laneStart : Remembers opLaneStart := remembers_onLane fun s l => by
  unfold startLane
  dsimp only
  repeat' split
  all_goals rfl

theorem remembers_laneFreeze : Remembers opLaneFreeze := remembers_needs fun c p s => by
  unfold freezeEntry
  dsimp only
  repeat' split
  all_goals rfl

theorem archive_setDomain (d : Device) (i : DomainId) (x : Domain) : (d.setDomain i x).archive = d.archive := by
  cases i <;> rfl

theorem remembers_domainSet : Remembers opDomainSet := remembers_needs fun c p s => by
  split
  · rfl
  · split
    · rfl
    · split
      · rfl
      · split
        · rfl
        · exact archive_setDomain ..

/-! ## The Clip Store and the meters (R103 to R108, R161 to R163) -/

theorem remembers_clipOpen : Remembers opClipOpen := remembers_needs fun c p s => by
  unfold openClip
  dsimp only
  repeat' split
  all_goals rfl

theorem remembers_clipSeal : Remembers opClipSeal := remembers_onClip fun s c => by
  unfold sealClip
  dsimp only
  repeat' split
  all_goals rfl

theorem remembers_clipAbort : Remembers opClipAbort := remembers_onClip fun s c => by
  unfold abortClip
  split <;> rfl

theorem remembers_clipDelete : Remembers opClipDelete := remembers_onClip fun s c => by
  unfold deleteClip
  repeat' split
  all_goals rfl

theorem remembers_meterStart : Remembers opMeterStart := remembers_onLane fun s l => by
  unfold startMeter
  repeat' split
  all_goals rfl

theorem remembers_meterStop : Remembers opMeterStop := remembers_onLane fun s l => by
  split <;> rfl

theorem remembers_meterRead : Remembers opMeterRead := remembers_onLane fun s l => by
  unfold readMeter
  dsimp only
  split <;> rfl

theorem remembers_cueWrite : Remembers opCueWrite := fun c p s => by
  unfold opCueWrite
  dsimp only
  repeat' split
  all_goals rfl

theorem remembers_segWrite : Remembers opSegWrite := remembers_needs fun c p s => by
  dsimp only
  repeat' split
  all_goals rfl

theorem remembers_segHot : Remembers opSegHot := remembers_needs fun c p s => by
  dsimp only
  repeat' split
  all_goals rfl

theorem remembers_tagWrite : Remembers opTagWrite := remembers_needs fun c p s => by
  dsimp only
  repeat' split
  all_goals rfl

/-! ## Every operation -/

theorem remembers_some {via : Via} {kind : Byte} {op : Op} (h : Remembers op) : ∀ o ∈ some (via, kind, op), Remembers o.2.2 := by
  rintro _ ⟨⟩
  exact h

/-- No operation writes clip memory. -/
theorem remembers_operationOf (c : Instr) : ∀ o ∈ operationOf c, Remembers o.2.2 := by
  cases c
  case voiceStart => exact remembers_some remembers_voiceStart
  case voiceStop => exact remembers_some remembers_voiceStop
  case voiceGain => exact remembers_some remembers_voiceGain
  case laneStop => exact remembers_some remembers_laneStop
  case laneResume => exact remembers_some remembers_laneResume
  case domainSet => exact remembers_some remembers_domainSet
  case streamClose => exact remembers_some remembers_streamClose
  case wait => exact remembers_some remembers_wait
  case cueRaise => exact remembers_some remembers_cueRaise
  case laneArm => exact remembers_some remembers_laneArm
  case laneStart => exact remembers_some remembers_laneStart
  case laneFreeze => exact remembers_some remembers_laneFreeze
  case clipOpen => exact remembers_some remembers_clipOpen
  case clipSeal => exact remembers_some remembers_clipSeal
  case clipAbort => exact remembers_some remembers_clipAbort
  case clipDelete => exact remembers_some remembers_clipDelete
  case meterStart => exact remembers_some remembers_meterStart
  case meterStop => exact remembers_some remembers_meterStop
  case meterRead => exact remembers_some remembers_meterRead
  case cueWrite => exact remembers_some remembers_cueWrite
  case segWrite => exact remembers_some remembers_segWrite
  case segHot => exact remembers_some remembers_segHot
  case tagWrite => exact remembers_some remembers_tagWrite
  case clipSpace | cueStatus | nop | playbackClear | linkStatus | storeRead | identify => exact remembers_some fun _ _ _ => rfl
  case laneStatus => exact remembers_some (remembers_onLane fun _ _ => rfl)
  case clipStatus => exact remembers_some (remembers_onClip fun _ _ => rfl)
  case mapRead | mapArm | mapDisarm => exact remembers_some (remembers_onSource fun _ _ => rfl)
  case segRead | voiceStatus | domainStatus | tagRead | streamStatus | listRead | cueRead | trigStatus | markerStatus | statsRead |
      laneConfig | laneQuiet | laneCompareSet | streamOpen | poolConfig | mapWrite | cueThreshold | listWrite | cueAbort | notice |
      trigConfig | markerConfig | markerSet | meterConfig | noticeConfig | storeProgram =>
    refine remembers_some (remembers_needs fun _ _ _ => ?_)
    repeat' split
    all_goals rfl
  all_goals exact fun _ h => nomatch h

end Sys2Proof.Machine
end

section
/-!
SUPPORT. Only CLIP_DATA cells and a cold reset write clip memory (R101).
-/
namespace Sys2Proof.Machine

/-! ## The Stream Intake's cells (R66 to R73) -/

theorem archive_raise (d : Device) (k : Fin 126) (detail : Byte) : (d.raise k detail).archive = d.archive :=
  archive_of_plays (plays_raise ..)

theorem archive_breakSlot (d : Device) (n : Fin 16) : (d.breakSlot n).archive = d.archive := archive_of_plays (plays_breakSlot ..)

theorem archive_primeTest (d : Device) (n : Fin 16) : (d.primeTest n).archive = d.archive := by
  unfold Device.primeTest
  dsimp only
  split
  · exact archive_raise ..
  · rfl

theorem archive_takeCell (d : Device) (n : Fin 16) (samples : List Sample) : (d.takeCell n samples).archive = d.archive := by
  unfold Device.takeCell
  dsimp only
  split
  · rfl
  · split
    · rfl
    · rw [archive_primeTest]
      rfl

theorem archive_drain (d : Device) (n : Fin 16) (f : Seq) : (d.drain n f).archive = d.archive := by
  unfold Device.drain
  dsimp only
  split
  · exact archive_raise ..
  · rfl

theorem archive_lookupCell {d : Device} (tag : BitVec 16) {take : Fin 16 → Device} (h : ∀ n, (take n).archive = d.archive) :
    (d.lookupCell tag take).archive = d.archive := by
  unfold Device.lookupCell
  split
  · rfl
  · rfl
  · split
    · exact h _
    · rfl

theorem archive_arriveOpen (d : Device) (n : Fin 16) (q : Seq) (samples : List Sample) :
    (d.arriveOpen n q samples).archive = d.archive := by
  have taken : ((d.setSlot n ((d.slot n).fillGap q)).takeCell n samples).archive = d.archive := by
    rw [archive_takeCell]
    rfl
  unfold Device.arriveOpen
  dsimp only
  split
  · rfl
  · rfl
  · exact archive_breakSlot ..
  · split
    · exact archive_breakSlot ..
    · exact taken
  · split
    · exact archive_breakSlot ..
    · exact taken

theorem archive_takeSample (d : Device) (tag : BitVec 16) (q : Seq) (samples : List Sample) :
    (d.takeSample tag q samples).archive = d.archive :=
  archive_lookupCell tag fun n => by
    split
    · rfl
    · exact archive_arriveOpen ..

theorem archive_endOpen (d : Device) (n : Fin 16) (f : Seq) : (d.endOpen n f).archive = d.archive := by
  unfold Device.endOpen
  dsimp only
  split
  · rfl
  · rfl
  · exact archive_breakSlot ..
  · exact archive_drain ..
  · split
    · exact archive_breakSlot ..
    · exact archive_drain ..

theorem archive_endDraining (d : Device) (n : Fin 16) (f : Seq) : (d.endDraining n f).archive = d.archive := by
  unfold Device.endDraining
  dsimp only
  split
  · rfl
  · exact archive_breakSlot ..

theorem archive_takeStreamEnd (d : Device) (tag : BitVec 16) (f : Seq) : (d.takeStreamEnd tag f).archive = d.archive :=
  archive_lookupCell tag fun n => by
    split
    · exact archive_endDraining ..
    · exact archive_endOpen ..

/-! ## Block edges, timers, ticks and pulses -/

theorem archive_reach (d : Device) (moment : Nat) : (d.reach moment).archive = d.archive := rfl

theorem archive_boundary (d : Device) (l : Fin 8) : (d.boundary l).archive = d.archive := archive_of_plays (plays_boundary ..)

theorem archive_takeEdge (d : Device) (l : Fin 8) : (d.takeEdge l).archive = d.archive := rfl

theorem archive_blockBoundary (d : Device) (l : Fin 8) : (d.blockBoundary l).archive = d.archive := by
  unfold Device.blockBoundary
  split
  · rw [archive_boundary, archive_takeEdge]
  · rfl

theorem archive_startAtEdge (d : Device) (l : Fin 8) : (d.startAtEdge l).archive = d.archive := by
  unfold Device.startAtEdge
  split
  · rw [archive_boundary, ← archive_takeEdge d l]
    rfl
  · rfl

theorem archive_frozenEdge (d : Device) (l : Fin 8) : (d.frozenEdge l).archive = d.archive := by
  unfold Device.frozenEdge
  split
  · rw [archive_of_plays (plays_meterBlock ..), archive_takeEdge]
  · rfl

theorem archive_settleExpires (d : Device) (i : DomainId) : (d.settleExpires i).archive = d.archive := by
  unfold Device.settleExpires
  dsimp only
  split
  · rw [archive_raise, archive_setDomain, archive_reach]
  · rfl

theorem archive_rise (d : Device) (n : Fin 4) (x : Trigger) : (d.rise n x).archive = d.archive := by
  unfold Device.rise
  dsimp only
  split
  · exact archive_raise ..
  · rfl

theorem archive_fall (d : Device) (n : Fin 4) (x : Trigger) : (d.fall n x).archive = d.archive := by
  unfold Device.fall
  dsimp only
  split
  · exact archive_raise ..
  · rfl

theorem archive_tick (d : Device) (n : Fin 4) (high : Bool) : (d.tick n high).archive = d.archive := by
  unfold Device.tick
  dsimp only
  split
  · rw [archive_rise, archive_reach]
  · split
    · rw [archive_fall, archive_reach]
    · rfl

theorem archive_pulseBegin (d : Device) (n : Fin 6) : (d.pulseBegin n).archive = d.archive := by
  unfold Device.pulseBegin
  dsimp only
  split
  · rfl
  · split <;> rfl

theorem archive_pulseEnd (d : Device) (n : Fin 6) : (d.pulseEnd n).archive = d.archive := by
  unfold Device.pulseEnd
  dsimp only
  split <;> rfl

theorem archive_holdoffExpires (d : Device) : d.holdoffExpires.archive = d.archive := by
  unfold Device.holdoffExpires
  split <;> rfl

theorem archive_programExpires (d : Device) : d.programExpires.archive = d.archive := by
  unfold Device.programExpires
  split <;> rfl

theorem archive_popContext (d : Device) : d.popContext.archive = d.archive := by
  unfold Device.popContext
  split
  · rfl
  · split <;> rfl

/-- A unit reset keeps the bytes of clip memory (R120, R192). -/
theorem archive_unitReset (d : Device) (inputs : BitVec 4) : (d.unitReset inputs).archive = d.archive := by
  unfold Device.archive Device.unitReset
  dsimp only
  rw [memory_unitReset]
  rfl

/-! ## Requests and actions -/

theorem archive_viaStep {op : Op} (h : Remembers op) (via : Via) (kind : Byte) (s : State) :
    (viaStep via kind op s).dev.archive = s.dev.archive := by
  cases via with
  | request =>
    change (requestStep kind op s).dev.archive = _
    unfold requestStep
    split
    · rfl
    · split
      · exact h .request _ _
      · rfl
  | action =>
    change (actionStep kind op s).dev.archive = _
    unfold actionStep
    split
    · rfl
    · rename_i top rest _
      dsimp only
      split
      · have performed := h (.action top.source top.reference) (s.dev.cue.actionAt top.list top.index).operands
          { s with dev := s.dev.stepped top rest }
        unfold performAction
        dsimp only
        split
        · exact performed
        · exact performed
      · rfl

theorem archive_unknownKindStep (s : State) : (unknownKindStep s).dev.archive = s.dev.archive := by
  unfold unknownKindStep
  split
  · rfl
  · split <;> rfl

theorem archive_unitResetStep (s : State) : (unitResetStep s).dev.archive = s.dev.archive := by
  unfold unitResetStep
  split
  · rfl
  · split <;> rfl

/-! ## The links and the transmitters -/

theorem cutOff_dev (s : State) (id : LinkId) : (s.cutOff id).dev = s.dev := by
  unfold State.cutOff
  split
  · rfl
  · dsimp only
    split <;> rfl

theorem benchLeavesUp_dev (s : State) : s.benchLeavesUp.dev = s.dev := cutOff_dev s .bench

theorem chainLeavesUp_dev (s : State) : s.chainLeavesUp.dev = s.dev := cutOff_dev s .chain

theorem leaves_dev (s : State) (id : LinkId) : (s.leaves id).dev = s.dev := by
  have left (t : State) : (if (t.link id).assembles then
      (t.count id LinkCounters.addLoss).updLink id fun x => { x with receiving := none, sending := none } else t).dev = t.dev := by
    split <;> rfl
  unfold State.leaves
  refine (left _).trans ?_
  split
  · exact benchLeavesUp_dev s
  · exact chainLeavesUp_dev s
  · rfl

theorem signalPresent_dev (s : State) (id : LinkId) : (s.signalPresent id).dev = s.dev := by
  unfold State.signalPresent
  split <;> rfl

theorem signalAbsent_dev (s : State) (id : LinkId) : (s.signalAbsent id).dev = s.dev := by
  unfold State.signalAbsent
  split
  · rfl
  · exact leaves_dev s id

theorem alignmentReached_dev (s : State) (id : LinkId) : (s.alignmentReached id).dev = s.dev := by
  unfold State.alignmentReached
  split <;> rfl

theorem alignmentLost_dev (s : State) (id : LinkId) : (s.alignmentLost id).dev = s.dev := by
  unfold State.alignmentLost
  split
  · exact leaves_dev s id
  · rfl

theorem archive_offerSend (s : State) (id : LinkId) : (s.offerSend id).dev.archive = s.dev.archive := by
  unfold State.offerSend
  dsimp only
  split <;> rfl

theorem cellSent_dev (s : State) (id : LinkId) : (s.cellSent id).dev = s.dev := by
  unfold State.cellSent
  split
  · rfl
  · dsimp only
    split <;> rfl

theorem chainTransmit_dev (s : State) : s.chainTransmit.dev = s.dev := by
  unfold State.chainTransmit
  dsimp only
  split
  · split
    · rfl
    · split
      · rfl
      · split <;> rfl
  · rfl

theorem archive_grant (s : State) (k : Class) : (s.grant k).dev.archive = s.dev.archive := by
  unfold State.grant
  dsimp only
  split
  · split <;> rfl
  · rfl
  · split <;> rfl

theorem archive_upstreamGrant (s : State) : s.upstreamGrant.dev.archive = s.dev.archive := by
  unfold State.upstreamGrant
  split
  · split
    · rfl
    · split
      · rfl
      · split
        · rfl
        · split
          · rfl
          · exact archive_grant ..
  · rfl

theorem archive_performUnitReset (s : State) (inputs : BitVec 4) : (s.performUnitReset inputs).dev.archive = s.dev.archive := by
  unfold State.performUnitReset
  dsimp only
  rw [archive_unitReset]
  split
  · rfl
  · rw [cellSent_dev]

/-! ## Cells taken (R178 to R183) -/

theorem archive_announce (s : State) : s.announce.dev.archive = s.dev.archive := by
  unfold State.announce
  generalize s.dev.intake.announce = k
  rfl

theorem archive_becomesUp (s : State) (id : LinkId) (rate : Nat) : (s.becomesUp id rate).dev.archive = s.dev.archive := by
  cases id with
  | bench => exact archive_announce _
  | chain => rfl

theorem archive_upAnew (s : State) (id : LinkId) : (s.upAnew id).dev.archive = s.dev.archive := by
  cases id with
  | bench => exact archive_announce _
  | chain => rfl

theorem archive_takeOffer (s : State) (id : LinkId) (c : Cell) : (s.takeOffer id c).dev.archive = s.dev.archive := by
  unfold State.takeOffer
  dsimp only
  split
  · rfl
  · split
    · exact archive_becomesUp ..
    · split
      · exact archive_upAnew ..
      · rfl

theorem forwardCell_dev (s : State) (c : Cell) : (s.forwardCell c).dev = s.dev := by
  unfold State.forwardCell
  dsimp only
  split <;> rfl

theorem mergeCell_dev (s : State) (c : Cell) : (s.mergeCell c).dev = s.dev := by
  unfold State.mergeCell
  dsimp only
  split <;> rfl

/-- A cell for this unit leaves clip memory, unless it is CLIP_DATA. -/
theorem archive_ownCell (s : State) {c : Cell} (other : c.kind ≠ 0x03) : (s.ownCell c).dev.archive = s.dev.archive := by
  unfold State.ownCell
  rw [if_neg other]
  split
  · exact archive_takeSample ..
  · split
    · exact archive_takeStreamEnd ..
    · rfl

theorem archive_addressed (s : State) {c : Cell} (other : c.kind ≠ 0x03) : (s.addressed c).dev.archive = s.dev.archive := by
  unfold State.addressed
  split
  · exact archive_ownCell s other
  · split
    · rw [forwardCell_dev, archive_ownCell s other]
    · rw [forwardCell_dev]

theorem archive_takeCellAt (s : State) (id : LinkId) {c : Cell} (other : id = .bench → c.kind ≠ 0x03) :
    (s.takeCell id c).dev.archive = s.dev.archive := by
  unfold State.takeCell
  split
  · exact archive_takeOffer ..
  · cases id with
    | chain =>
      dsimp only
      rw [mergeCell_dev]
    | bench =>
      dsimp only
      split
      · rfl
      · exact archive_addressed s (other rfl)

/-- A cell received leaves clip memory, unless it is CLIP_DATA on the bench link. -/
theorem archive_receiveCell (s : State) (id : LinkId) {c : Cell} (other : id = .bench → c.kind ≠ 0x03) :
    (s.receiveCell id c).dev.archive = s.dev.archive := by
  unfold State.receiveCell
  split
  · split
    · rfl
    · exact archive_takeCellAt (s.count id LinkCounters.addIn) id other
  · rfl

theorem archive_closeCell (s : State) (id : LinkId) {bytes : List Byte} (other : id = .bench → bytes.head? ≠ some 0x03) :
    (s.closeCell id bytes).dev.archive = s.dev.archive := by
  unfold State.closeCell
  split
  · rfl
  · split
    · rfl
    · refine archive_receiveCell s id fun bench kind => ?_
      cases bytes with
      | nil => exact absurd kind (by decide)
      | cons b rest => exact other bench (congrArg some kind)

/-! ## Symbols (R170, R175) -/

theorem symbolOutside_dev (s : State) (id : LinkId) (x : Symbol) : (s.symbolOutside id x).dev = s.dev := by
  cases x <;> rfl

/-- A symbol inside a cell leaves clip memory, unless it is the END of a CLIP_DATA cell on the bench link. -/
theorem archive_symbolInside (s : State) (id : LinkId) {bytes : List Byte} {x : Symbol}
    (other : id = .bench → x = .stop → bytes.head? ≠ some 0x03) : (s.symbolInside id bytes x).dev.archive = s.dev.archive := by
  cases x with
  | start => rfl
  | stop => exact archive_closeCell (s.setReceiving id none) id fun bench => other bench rfl
  | idle => rfl
  | codeError => rfl
  | data b =>
    unfold State.symbolInside
    dsimp only
    split <;> rfl

theorem archive_withSymbol (s : State) (id : LinkId) (x : Symbol) {act : State → State}
    (h : ∀ t : State, t.dev = s.dev → (t.link id).receiving = (s.link id).receiving → (act t).dev.archive = t.dev.archive) :
    (s.withSymbol id x act).dev.archive = s.dev.archive := by
  have acted := h (s.updLink id fun y => { y with counter := alignStep (s.link id).counter x }) rfl (by
    rw [State.updLink, link_setLink_same])
  unfold State.withSymbol
  dsimp only
  split
  · rw [alignmentLost_dev]
    exact acted
  · exact acted

theorem archive_decodedSymbol (s : State) (id : LinkId) (x : Symbol)
    (other : id = .bench → x = .stop → ∀ rest, (s.link id).receiving ≠ some (0x03 :: rest)) :
    (s.decodedSymbol id x).dev.archive = s.dev.archive := by
  have assembles : (s.withSymbol id x fun s => s.assemble id x).dev.archive = s.dev.archive := by
    refine archive_withSymbol s id x fun t _ same => ?_
    unfold State.assemble
    split
    · rw [symbolOutside_dev]
    · rename_i bytes receiving
      refine archive_symbolInside t id fun bench stop first => ?_
      obtain ⟨rest, whole⟩ := List.head?_eq_some_iff.mp first
      exact other bench stop rest (by rw [← same, receiving, whole])
  unfold State.decodedSymbol
  split
  · rfl
  · dsimp only
    split
    · rw [alignmentReached_dev]
      rfl
    · rfl
  · exact assembles
  · exact assembles

theorem archive_badCell (s : State) (id : LinkId) (bad : BadCell) : (s.badCell id bad).dev.archive = s.dev.archive := by
  unfold State.badCell
  split
  · cases bad with
    | startInside => rfl
    | idleInside => rfl
    | endOutside => rfl
    | codeErrorInside => exact archive_withSymbol s id .codeError fun t _ _ => rfl
    | tooLong => rfl
    | closed bytes =>
      dsimp only
      split <;> rfl
  · rfl

/-! ## Every command -/

/-- Settles O36: by command, the operations of requests and actions at once. -/
theorem onlyClipDataWritesClipMemory : Obligations.OnlyClipDataWritesClipMemory := by
  unfold Obligations.OnlyClipDataWritesClipMemory
  intro c s t cell reset closes out
  suffices archive : t.dev.archive = s.dev.archive from ⟨congrArg Prod.fst archive, congrArg Prod.snd archive⟩
  cases found : operationOf c with
  | some o =>
    obtain ⟨via, kind, op⟩ := o
    rw [exec_of_operation found s] at out
    obtain rfl := Host.Outcome.next.inj out
    exact archive_viaStep (remembers_operationOf c _ found) via kind s
  | none =>
    cases c with
    | unitReset => cases out; exact archive_unitResetStep s
    | unknownRequestKind => cases out; exact archive_unknownKindStep s
    | contextPop => cases out; exact archive_popContext s.dev
    | blockBoundary l => cases out; exact archive_blockBoundary s.dev l
    | laneStartsAtEdge l => cases out; exact archive_startAtEdge s.dev l
    | frozenEdge l => cases out; exact archive_frozenEdge s.dev l
    | settleTimerExpiry i => cases out; exact archive_settleExpires s.dev i
    | triggerTick n high => cases out; exact archive_tick s.dev n high
    | pulseBegin n => cases out; exact archive_pulseBegin s.dev n
    | pulseEnd n => cases out; exact archive_pulseEnd s.dev n
    | noticeHoldoffExpiry => cases out; exact archive_holdoffExpires s.dev
    | programTimerExpiry => cases out; exact archive_programExpires s.dev
    | coldReset straps inputs => exact absurd rfl (reset straps inputs)
    | unitResetPerformed inputs =>
      cases out
      split
      · exact archive_performUnitReset s inputs
      · rfl
    | signalPresent id => cases out; rw [signalPresent_dev]
    | signalAbsent id => cases out; rw [signalAbsent_dev]
    | alignmentReached id => cases out; rw [alignmentReached_dev]
    | alignmentLost id => cases out; rw [alignmentLost_dev]
    | offerSend id => cases out; exact archive_offerSend s id
    | badCell id bad => cases out; exact archive_badCell s id bad
    | offer id addr wordA wordB => cases out; exact archive_receiveCell s id fun _ => (by decide : (0x0F : Byte) ≠ 0x03)
    | sample addr tag q payload => cases out; exact archive_receiveCell s .bench fun _ => (by decide : (0x01 : Byte) ≠ 0x03)
    | streamEnd addr tag final => cases out; exact archive_receiveCell s .bench fun _ => (by decide : (0x02 : Byte) ≠ 0x03)
    | clipData addr wordA index payload => exact absurd rfl (cell addr wordA index payload)
    | request addr tag kind wordB payload => cases out; exact archive_receiveCell s .bench fun _ => (by decide : (0x04 : Byte) ≠ 0x03)
    | flowLink addr wordB => cases out; exact archive_receiveCell s .bench fun _ => (by decide : (0x0C : Byte) ≠ 0x03)
    | chainUpstreamCell cell => cases out; exact archive_receiveCell s .chain fun chain => LinkId.noConfusion chain
    | chainTransmit => cases out; rw [chainTransmit_dev]
    | upstreamGrant => cases out; exact archive_upstreamGrant s
    | cellSent id => cases out; rw [cellSent_dev]
    | decodedSymbol id x =>
      cases out
      refine archive_decodedSymbol s id x ?_
      rintro rfl rfl
      exact closes rfl
    | _ => exact nomatch found

end Sys2Proof.Machine
end
